-- ==== Sys2Proof/Word.lean ====
section
/-! DEFINITION. Widths of the machine's values (R7, R8, R139). -/
namespace Sys2Proof

/-- A byte (R8). -/
abbrev Byte := BitVec 8
/-- A half-word (R8). -/
abbrev Half := BitVec 16
/-- A word (R8): the width of a v or k register. -/
abbrev Word := BitVec 32
/-- A double-word (R8). -/
abbrev DWord := BitVec 64
/-- A program counter: a 57-bit virtual address with the slot in bits [2:0] (R139). -/
abbrev PC := BitVec 57
/-- An instruction slot or a literal carrier (R138, R143). -/
abbrev Slot := BitVec 96
/-- A fetch line of 64 bytes (R138). -/
abbrev Line := BitVec 512
/-- A set of lanes, bit i for lane i (R31). -/
abbrev LaneMask := BitVec 64
/-- A cache line of 128 bytes (R8). -/
abbrev CacheLine := BitVec 1024
/-- A bit pattern of an accumulator-store entry (R109). -/
abbrev Entry := BitVec 64

end Sys2Proof
end

