-- ==== Sys2Proof/Syntax.lean ====
section
/-! DEFINITION. The instructions of the opcode table (R160 to R166) and the machine's other indivisible steps, as one type. -/
namespace Sys2Proof

/-! ## Operands (R143 to R151) -/

/-- A guard (R144): the GFILE bit where the instruction has it, the predicate index (7 is always true), and negation. -/
structure Guard where
  gfile : Bool
  idx : Fin 8
  neg : Bool
  deriving DecidableEq, Repr

/-- The guard that every instruction without one carries: index 7 of its file. -/
def Guard.always : Guard := { gfile := false, idx := 7, neg := false }

/-- A decoded source operand (R146 to R151). A literal carries its value: `inlit` from the word itself (R150),
`trail` from word `ix` of the carrier slot (R151). `none` is a field that is all zero and not used. -/
inductive Src where
  | none
  | v (n : Nat) (neg abs : Bool)
  | k (n : Nat) (neg abs : Bool)
  | m (n : Nat)
  | obj (n : Nat) (neg : Bool)
  | imm (i : BitVec 20)
  | bank (c : Fin 16) (off : BitVec 14)
  | inlit (x : Word)
  | trail (ix : Fin 3) (x : Word)
  deriving DecidableEq, Repr

/-- What every instruction carries beside its modifiers: guard, destination number, sources, and the hint or reuse bit
of SLOT.CS (R143, R268). -/
structure Args where
  g : Guard := Guard.always
  d : Nat := 0
  a : Src := .none
  b : Src := .none
  c : Src := .none
  cs : Bool := false
  deriving DecidableEq, Repr

/-! ## Modifier values, each with its code -/
/-- The kind of object that WAIT and YIELD name (R185). -/
inductive WaitKind where
  | tb | nempty | nfull | tl
  deriving DecidableEq, Repr

/-- The code of a WaitKind in its field. -/
def WaitKind.toBits : WaitKind → Nat
  | .tb => 0
  | .nempty => 1
  | .nfull => 2
  | .tl => 3

/-- The WaitKind of a code; a reserved code reads as the first value, and the decoder then refuses the field (R152). -/
def WaitKind.ofBits : Nat → WaitKind
  | 1 => .nempty
  | 2 => .nfull
  | 3 => .tl
  | _ => .tb

/-- The modes of POLL (R197). -/
inductive PollMode where
  | none_ | every | count | map
  deriving DecidableEq, Repr

/-- The code of a PollMode in its field. -/
def PollMode.toBits : PollMode → Nat
  | .none_ => 0
  | .every => 1
  | .count => 2
  | .map => 3

/-- The PollMode of a code; a reserved code reads as the first value, and the decoder then refuses the field (R152). -/
def PollMode.ofBits : Nat → PollMode
  | 1 => .every
  | 2 => .count
  | 3 => .map
  | _ => .none_

/-- The scopes that BAR.INIT accepts (R188). -/
inductive BarScope where
  | wg | cluster
  deriving DecidableEq, Repr

/-- The code of a BarScope in its field. -/
def BarScope.toBits : BarScope → Nat
  | .wg => 1
  | .cluster => 2

/-- The BarScope of a code; a reserved code reads as the first value, and the decoder then refuses the field (R152). -/
def BarScope.ofBits : Nat → BarScope
  | 2 => .cluster
  | _ => .wg

/-- The scopes of R68, narrow to wide. -/
inductive Scope where
  | warp | wg | cluster | die | device | system
  deriving DecidableEq, Repr

/-- The code of a Scope in its field. -/
def Scope.toBits : Scope → Nat
  | .warp => 0
  | .wg => 1
  | .cluster => 2
  | .die => 3
  | .device => 4
  | .system => 5

/-- The Scope of a code; a reserved code reads as the first value, and the decoder then refuses the field (R152). -/
def Scope.ofBits : Nat → Scope
  | 1 => .wg
  | 2 => .cluster
  | 3 => .die
  | 4 => .device
  | 5 => .system
  | _ => .warp

/-- A rounding mode as ARITH.MODE.RND codes it (R95). -/
inductive RndMode where
  | rne | rz | ru | rd | rna
  deriving DecidableEq, Repr

/-- The code of a RndMode in its field. -/
def RndMode.toBits : RndMode → Nat
  | .rne => 0
  | .rz => 1
  | .ru => 2
  | .rd => 3
  | .rna => 4

/-- The RndMode of a code; a reserved code reads as the first value, and the decoder then refuses the field (R152). -/
def RndMode.ofBits : Nat → RndMode
  | 1 => .rz
  | 2 => .ru
  | 3 => .rd
  | 4 => .rna
  | _ => .rne

/-- The RND field of an instruction (R96): the mode of ARITH.MODE, or one of its own. -/
inductive RndSel where
  | mode | rne | rz | ru | rd | rna
  deriving DecidableEq, Repr

/-- The code of a RndSel in its field. -/
def RndSel.toBits : RndSel → Nat
  | .mode => 0
  | .rne => 1
  | .rz => 2
  | .ru => 3
  | .rd => 4
  | .rna => 5

/-- The RndSel of a code; a reserved code reads as the first value, and the decoder then refuses the field (R152). -/
def RndSel.ofBits : Nat → RndSel
  | 1 => .rne
  | 2 => .rz
  | 3 => .ru
  | 4 => .rd
  | 5 => .rna
  | _ => .mode

/-- Integer conditions (R202, R214). -/
inductive Cond where
  | eq | ne | lt | le | gt | ge
  deriving DecidableEq, Repr

/-- The code of a Cond in its field. -/
def Cond.toBits : Cond → Nat
  | .eq => 0
  | .ne => 1
  | .lt => 2
  | .le => 3
  | .gt => 4
  | .ge => 5

/-- The Cond of a code; a reserved code reads as the first value, and the decoder then refuses the field (R152). -/
def Cond.ofBits : Nat → Cond
  | 1 => .ne
  | 2 => .lt
  | 3 => .le
  | 4 => .gt
  | 5 => .ge
  | _ => .eq

/-- Float conditions (R218). -/
inductive FCond where
  | eq | ne | lt | le | gt | ge | num | nan
  deriving DecidableEq, Repr

/-- The code of a FCond in its field. -/
def FCond.toBits : FCond → Nat
  | .eq => 0
  | .ne => 1
  | .lt => 2
  | .le => 3
  | .gt => 4
  | .ge => 5
  | .num => 6
  | .nan => 7

/-- The FCond of a code; a reserved code reads as the first value, and the decoder then refuses the field (R152). -/
def FCond.ofBits : Nat → FCond
  | 1 => .ne
  | 2 => .lt
  | 3 => .le
  | 4 => .gt
  | 5 => .ge
  | 6 => .num
  | 7 => .nan
  | _ => .eq

/-- Mantissa widths of BFP, coded as m − 2 (R216). -/
inductive BfpWidth where
  | m2 | m3 | m4 | m5 | m6 | m7 | m8
  deriving DecidableEq, Repr

/-- The code of a BfpWidth in its field. -/
def BfpWidth.toBits : BfpWidth → Nat
  | .m2 => 0
  | .m3 => 1
  | .m4 => 2
  | .m5 => 3
  | .m6 => 4
  | .m7 => 5
  | .m8 => 6

/-- The BfpWidth of a code; a reserved code reads as the first value, and the decoder then refuses the field (R152). -/
def BfpWidth.ofBits : Nat → BfpWidth
  | 1 => .m3
  | 2 => .m4
  | 3 => .m5
  | 4 => .m6
  | 5 => .m7
  | 6 => .m8
  | _ => .m2

/-- Modes of XLANE (R225). -/
inductive XMode where
  | pick | shift | rot | flip
  deriving DecidableEq, Repr

/-- The code of a XMode in its field. -/
def XMode.toBits : XMode → Nat
  | .pick => 0
  | .shift => 1
  | .rot => 2
  | .flip => 3

/-- The XMode of a code; a reserved code reads as the first value, and the decoder then refuses the field (R152). -/
def XMode.ofBits : Nat → XMode
  | 1 => .shift
  | 2 => .rot
  | 3 => .flip
  | _ => .pick

/-- Modes of QSWAP (R225). -/
inductive QMode where
  | x | y | d
  deriving DecidableEq, Repr

/-- The code of a QMode in its field. -/
def QMode.toBits : QMode → Nat
  | .x => 1
  | .y => 2
  | .d => 3

/-- The QMode of a code; a reserved code reads as the first value, and the decoder then refuses the field (R152). -/
def QMode.ofBits : Nat → QMode
  | 2 => .y
  | 3 => .d
  | _ => .x

/-- Sizes of LD (R237). -/
inductive LdSize where
  | u8 | s8 | u16 | s16 | b32 | b64 | b128
  deriving DecidableEq, Repr

/-- The code of a LdSize in its field. -/
def LdSize.toBits : LdSize → Nat
  | .u8 => 0
  | .s8 => 1
  | .u16 => 2
  | .s16 => 3
  | .b32 => 4
  | .b64 => 5
  | .b128 => 6

/-- The LdSize of a code; a reserved code reads as the first value, and the decoder then refuses the field (R152). -/
def LdSize.ofBits : Nat → LdSize
  | 1 => .s8
  | 2 => .u16
  | 3 => .s16
  | 4 => .b32
  | 5 => .b64
  | 6 => .b128
  | _ => .u8

/-- Sizes of ST (R237). -/
inductive StSize where
  | b8 | b16 | b32 | b64 | b128
  deriving DecidableEq, Repr

/-- The code of a StSize in its field. -/
def StSize.toBits : StSize → Nat
  | .b8 => 0
  | .b16 => 2
  | .b32 => 4
  | .b64 => 5
  | .b128 => 6

/-- The StSize of a code; a reserved code reads as the first value, and the decoder then refuses the field (R152). -/
def StSize.ofBits : Nat → StSize
  | 2 => .b16
  | 4 => .b32
  | 5 => .b64
  | 6 => .b128
  | _ => .b8

/-- Sizes of LDC (R239). -/
inductive LdcSize where
  | b32 | b64 | b128
  deriving DecidableEq, Repr

/-- The code of a LdcSize in its field. -/
def LdcSize.toBits : LdcSize → Nat
  | .b32 => 4
  | .b64 => 5
  | .b128 => 6

/-- The LdcSize of a code; a reserved code reads as the first value, and the decoder then refuses the field (R152). -/
def LdcSize.ofBits : Nat → LdcSize
  | 5 => .b64
  | 6 => .b128
  | _ => .b32

/-- Spaces of LD and ST but for cluster memory (R43, R237). -/
inductive LsSpace where
  | global | slice | scratch | cistern
  deriving DecidableEq, Repr

/-- The code of a LsSpace in its field. -/
def LsSpace.toBits : LsSpace → Nat
  | .global => 0
  | .slice => 1
  | .scratch => 2
  | .cistern => 4

/-- The LsSpace of a code; a reserved code reads as a space whose base is one register, and the decoder then refuses the field
(R152). -/
def LsSpace.ofBits : Nat → LsSpace
  | 1 => .slice
  | 2 => .scratch
  | 0 => .global
  | _ => .cistern

/-- Spaces of the atomics (R242). -/
inductive AtomSpace where
  | global | scratch | cluster | cistern
  deriving DecidableEq, Repr

/-- The code of a AtomSpace in its field. -/
def AtomSpace.toBits : AtomSpace → Nat
  | .global => 0
  | .scratch => 2
  | .cluster => 3
  | .cistern => 4

/-- The AtomSpace of a code; a reserved code reads as a space whose base is one register, and the decoder then refuses the field
(R152). -/
def AtomSpace.ofBits : Nat → AtomSpace
  | 2 => .scratch
  | 3 => .cluster
  | 0 => .global
  | _ => .cistern

/-- Spaces of LDSEQ and SHLD (R244, R266). -/
inductive SeqSpace where
  | global | scratch | cistern
  deriving DecidableEq, Repr

/-- The code of a SeqSpace in its field. -/
def SeqSpace.toBits : SeqSpace → Nat
  | .global => 0
  | .scratch => 2
  | .cistern => 4

/-- The SeqSpace of a code; a reserved code reads as a space whose base is one register, and the decoder then refuses the field
(R152). -/
def SeqSpace.ofBits : Nat → SeqSpace
  | 2 => .scratch
  | 0 => .global
  | _ => .cistern

/-- Spaces of PREFETCH and CCTL (R245). -/
inductive CacheSpace where
  | global | cistern
  deriving DecidableEq, Repr

/-- The code of a CacheSpace in its field. -/
def CacheSpace.toBits : CacheSpace → Nat
  | .global => 0
  | .cistern => 4

/-- The CacheSpace of a code; a reserved code reads as a space whose base is one register, and the decoder then refuses the field
(R152). -/
def CacheSpace.ofBits : Nat → CacheSpace
  | 0 => .global
  | _ => .cistern

/-- Views of the accumulator store that LDA and STA take (R240). -/
inductive View where
  | b64 | f32 | i32
  deriving DecidableEq, Repr

/-- The code of a View in its field. -/
def View.toBits : View → Nat
  | .b64 => 0
  | .f32 => 1
  | .i32 => 2

/-- The View of a code; a reserved code reads as the first value, and the decoder then refuses the field (R152). -/
def View.ofBits : Nat → View
  | 1 => .f32
  | 2 => .i32
  | _ => .b64

/-- Sizes of LDSEQ (R244). -/
inductive SeqSize where
  | b32 | b64 | b128
  deriving DecidableEq, Repr

/-- The code of a SeqSize in its field. -/
def SeqSize.toBits : SeqSize → Nat
  | .b32 => 0
  | .b64 => 1
  | .b128 => 2

/-- The SeqSize of a code; a reserved code reads as the first value, and the decoder then refuses the field (R152). -/
def SeqSize.ofBits : Nat → SeqSize
  | 1 => .b64
  | 2 => .b128
  | _ => .b32

/-- The cache that PREFETCH names (R245). -/
inductive PfLevel where
  | l1 | l2
  deriving DecidableEq, Repr

/-- The code of a PfLevel in its field. -/
def PfLevel.toBits : PfLevel → Nat
  | .l1 => 0
  | .l2 => 1

/-- The PfLevel of a code; a reserved code reads as the first value, and the decoder then refuses the field (R152). -/
def PfLevel.ofBits : Nat → PfLevel
  | 1 => .l2
  | _ => .l1

/-- What the lanes of TGATHER and TSCATTER give (R256). -/
inductive GatherMode where
  | rows | addr
  deriving DecidableEq, Repr

/-- The code of a GatherMode in its field. -/
def GatherMode.toBits : GatherMode → Nat
  | .rows => 0
  | .addr => 1

/-- The GatherMode of a code; a reserved code reads as the first value, and the decoder then refuses the field (R152). -/
def GatherMode.ofBits : Nat → GatherMode
  | 1 => .addr
  | _ => .rows

/-- Operations of TCOLL (R262). -/
inductive CollOp where
  | sumi | sumf | maxi | maxf | bcast
  deriving DecidableEq, Repr

/-- The code of a CollOp in its field. -/
def CollOp.toBits : CollOp → Nat
  | .sumi => 0
  | .sumf => 1
  | .maxi => 2
  | .maxf => 3
  | .bcast => 4

/-- The CollOp of a code; a reserved code reads as the first value, and the decoder then refuses the field (R152). -/
def CollOp.ofBits : Nat → CollOp
  | 1 => .sumf
  | 2 => .maxi
  | 3 => .maxf
  | 4 => .bcast
  | _ => .sumi

/-- Kinds of SHINFO (R266). -/
inductive ShKind where
  | item | bound
  deriving DecidableEq, Repr

/-- The code of a ShKind in its field. -/
def ShKind.toBits : ShKind → Nat
  | .item => 0
  | .bound => 1

/-- The ShKind of a code; a reserved code reads as the first value, and the decoder then refuses the field (R152). -/
def ShKind.ofBits : Nat → ShKind
  | 1 => .bound
  | _ => .item

/-- Map modes of MLD (R271). -/
inductive MapMode where
  | dense | nz | bm
  deriving DecidableEq, Repr

/-- The code of a MapMode in its field. -/
def MapMode.toBits : MapMode → Nat
  | .dense => 0
  | .nz => 1
  | .bm => 2

/-- The MapMode of a code; a reserved code reads as the first value, and the decoder then refuses the field (R152). -/
def MapMode.ofBits : Nat → MapMode
  | 1 => .nz
  | 2 => .bm
  | _ => .dense

/-- Formats of CVT (R220). -/
inductive CvtFmt where
  | bf16 | fp16 | e4m3 | e5m2 | int8 | fp32 | int32 | uint8 | int16 | uint16 | uint32 | int64 | uint64
  deriving DecidableEq, Repr

/-- The code of a CvtFmt in its field. -/
def CvtFmt.toBits : CvtFmt → Nat
  | .bf16 => 0
  | .fp16 => 1
  | .e4m3 => 2
  | .e5m2 => 3
  | .int8 => 4
  | .fp32 => 5
  | .int32 => 6
  | .uint8 => 7
  | .int16 => 8
  | .uint16 => 9
  | .uint32 => 10
  | .int64 => 11
  | .uint64 => 12

/-- The CvtFmt of a code; a reserved code reads as the first value, and the decoder then refuses the field (R152). -/
def CvtFmt.ofBits : Nat → CvtFmt
  | 1 => .fp16
  | 2 => .e4m3
  | 3 => .e5m2
  | 4 => .int8
  | 5 => .fp32
  | 6 => .int32
  | 7 => .uint8
  | 8 => .int16
  | 9 => .uint16
  | 10 => .uint32
  | 11 => .int64
  | 12 => .uint64
  | _ => .bf16

/-- Integer operations of the atomics (R242). -/
inductive IntAtom where
  | add | smin | smax | umin | umax | and_ | or_ | xor_ | exch | cas
  deriving DecidableEq, Repr

/-- The code of a IntAtom in its field. -/
def IntAtom.toBits : IntAtom → Nat
  | .add => 0
  | .smin => 1
  | .smax => 2
  | .umin => 3
  | .umax => 4
  | .and_ => 5
  | .or_ => 6
  | .xor_ => 7
  | .exch => 8
  | .cas => 9

/-- The IntAtom of a code; a reserved code reads as the first value, and the decoder then refuses the field (R152). -/
def IntAtom.ofBits : Nat → IntAtom
  | 1 => .smin
  | 2 => .smax
  | 3 => .umin
  | 4 => .umax
  | 5 => .and_
  | 6 => .or_
  | 7 => .xor_
  | 8 => .exch
  | 9 => .cas
  | _ => .add

/-- The rounding group [5:0] of an instruction that takes all of it (R96). -/
structure RMod where
  rnd : RndSel := .mode
  ftz : Bool := false
  sat : Bool := false
  nanp : Bool := false
  deriving DecidableEq, Repr

/-- One bit of a modifier field. -/
def bitAt (m i : Nat) : Bool := (m / 2 ^ i) % 2 == 1
/-- The value of a one-bit field. -/
def boolBit (b : Bool) : Nat := if b then 1 else 0

/-- The six bits of a rounding group (R96). -/
def RMod.toBits (r : RMod) : Nat := r.rnd.toBits + boolBit r.ftz * 8 + boolBit r.sat * 16 + boolBit r.nanp * 32
/-- The rounding group of six bits. -/
def RMod.ofBits (m : Nat) : RMod :=
  { rnd := .ofBits (m % 8), ftz := bitAt m 3, sat := bitAt m 4, nanp := bitAt m 5 }

/-- Operation of SCAN, WRED, SEGSCAN and SEGRED with the modifiers that it accepts (R227). -/
inductive RedMod where
  | add (sat : Bool) | min | max | umin | umax
  | fadd (rnd : RndSel) (ftz nanp : Bool) | fmin (ftz nanp : Bool) | fmax (ftz nanp : Bool)
  deriving DecidableEq, Repr

/-- The modifier field of a reduction (R227). -/
def RedMod.toBits : RedMod → Nat
  | .add sat => boolBit sat * 16
  | .min => 128
  | .max => 256
  | .umin => 384
  | .umax => 512
  | .fadd rnd ftz nanp => 640 + rnd.toBits + boolBit ftz * 8 + boolBit nanp * 32
  | .fmin ftz nanp => 768 + boolBit ftz * 8 + boolBit nanp * 32
  | .fmax ftz nanp => 896 + boolBit ftz * 8 + boolBit nanp * 32
/-- The reduction of a modifier field. -/
def RedMod.ofBits (m : Nat) : RedMod :=
  match (m / 128) % 8 with
  | 0 => .add (bitAt m 4)
  | 1 => .min
  | 2 => .max
  | 3 => .umin
  | 4 => .umax
  | 5 => .fadd (.ofBits (m % 8)) (bitAt m 3) (bitAt m 5)
  | 6 => .fmin (bitAt m 3) (bitAt m 5)
  | _ => .fmax (bitAt m 3) (bitAt m 5)

/-- Modifiers of TCOPY and TSTORE, bits [9:6] (R246). -/
structure CmdMods where
  n : Bool := false
  crc : Bool := false
  seq : Bool := false
  sh : Bool := false
  deriving DecidableEq, Repr
/-- The four bits of CmdMods, from bit 6 up. -/
def CmdMods.toBits (m : CmdMods) : Nat := boolBit m.n + boolBit m.crc * 2 + boolBit m.seq * 4 + boolBit m.sh * 8
/-- CmdMods of four bits. -/
def CmdMods.ofBits (m : Nat) : CmdMods := { n := bitAt m 0, crc := bitAt m 1, seq := bitAt m 2, sh := bitAt m 3 }

/-- Modifiers of the array instructions (R273): `q` is q − 1. Which of them an opcode accepts is the signature's. -/
structure ArrayMods where
  q : Fin 8 := 0
  p : Bool := false
  seg : Bool := false
  vs : Bool := false
  sparse : Bool := false
  more : Bool := false
  trap : Bool := false
  grouped : Bool := false
  deriving DecidableEq, Repr
/-- The ten bits of ArrayMods (R273). -/
def ArrayMods.toBits (m : ArrayMods) : Nat :=
  boolBit m.grouped + boolBit m.trap * 2 + boolBit m.more * 4 + boolBit m.sparse * 8 + boolBit m.vs * 16
    + boolBit m.seg * 32 + boolBit m.p * 64 + m.q.val * 128
/-- ArrayMods of a modifier field. -/
def ArrayMods.ofBits (m : Nat) : ArrayMods :=
  { grouped := bitAt m 0, trap := bitAt m 1, more := bitAt m 2, sparse := bitAt m 3, vs := bitAt m 4,
    seg := bitAt m 5, p := bitAt m 6, q := ⟨(m / 128) % 8, Nat.mod_lt _ (by decide)⟩ }
/-- The modifier bits [9:0] that are set, as a mask test: no bit outside `mask` (R273). -/
def ArrayMods.within (m : ArrayMods) (sparse trapGroup : Bool) : Bool :=
  (sparse || !m.sparse) && (trapGroup || (!m.trap && !m.grouped))

/-- The selector of CVT (R220). -/
structure CvtSel where
  df : CvtFmt := .bf16
  sf : CvtFmt := .bf16
  part : Fin 4 := 0
  spart : Fin 4 := 0
  deriving DecidableEq, Repr
/-- The 20 bits of a CVT selector. -/
def CvtSel.toBits (s : CvtSel) : Nat := s.df.toBits + s.sf.toBits * 16 + s.part.val * 256 + s.spart.val * 1024
/-- The CVT selector of 20 bits. -/
def CvtSel.ofBits (m : Nat) : CvtSel :=
  { df := .ofBits (m % 16), sf := .ofBits ((m / 16) % 16),
    part := ⟨(m / 256) % 4, Nat.mod_lt _ (by decide)⟩, spart := ⟨(m / 1024) % 4, Nat.mod_lt _ (by decide)⟩ }
/-- How wide a CVT format is, in bits (R220). -/
def CvtFmt.width : CvtFmt → Nat
  | .e4m3 | .e5m2 | .int8 | .uint8 => 8
  | .bf16 | .fp16 | .int16 | .uint16 => 16
  | .fp32 | .int32 | .uint32 => 32
  | .int64 | .uint64 => 64
/-- How many parts of a register a format has (R220). -/
def CvtFmt.parts (f : CvtFmt) : Nat :=
  if f.width = 8 then 4 else if f.width = 16 then 2 else 1

/-- An atomic's operation with its width (R242). -/
inductive AtomOp where
  | int (op : IntAtom) (w64 : Bool)
  | fadd | fmin | fmax
  deriving DecidableEq, Repr
/-- The selector of an atomic (R242). -/
structure AtomSel where
  op : AtomOp := .fadd
  rank : Fin 8 := 0
  deriving DecidableEq, Repr
/-- Is the atomic one of 64 bits? -/
def AtomSel.w64 (s : AtomSel) : Bool := match s.op with | .int _ w => w | _ => false
/-- Is the atomic a compare and swap? -/
def AtomSel.isCas (s : AtomSel) : Bool := match s.op with | .int .cas _ => true | _ => false
/-- The 20 bits of an atomic's selector (R242). -/
def AtomSel.toBits (s : AtomSel) : Nat :=
  (match s.op with | .int o w => o.toBits + boolBit w * 16 | .fadd => 10 | .fmin => 11 | .fmax => 12) + s.rank.val * 64
/-- The atomic's selector of 20 bits. -/
def AtomSel.ofBits (m : Nat) : AtomSel :=
  { op := match m % 16 with
      | 10 => .fadd
      | 11 => .fmin
      | 12 => .fmax
      | o => .int (.ofBits o) (bitAt m 4),
    rank := ⟨(m / 64) % 8, Nat.mod_lt _ (by decide)⟩ }

/-- The special registers of R158. -/
inductive SReg where
  | laneid | width | warpid | role | split | lanemask | core | die | wgid | clusterRank | clusterSize
  | arithMode | arithFlags | progress | time | prio
  deriving DecidableEq, Repr
/-- The 8-bit number of a special register (R158). -/
def SReg.toBits : SReg → Nat
  | .laneid => 0 | .width => 1 | .warpid => 2 | .role => 3 | .split => 4 | .lanemask => 5 | .core => 6 | .die => 7
  | .wgid => 8 | .clusterRank => 9 | .clusterSize => 10 | .arithMode => 16 | .arithFlags => 17 | .progress => 18
  | .time => 19 | .prio => 20
/-- The special register of a number; a number absent from the table reads as LANEID, and the decoder then refuses. -/
def SReg.ofBits : Nat → SReg
  | 1 => .width | 2 => .warpid | 3 => .role | 4 => .split | 5 => .lanemask | 6 => .core | 7 => .die
  | 8 => .wgid | 9 => .clusterRank | 10 => .clusterSize | 16 => .arithMode | 17 => .arithFlags | 18 => .progress
  | 19 => .time | 20 => .prio | _ => .laneid
/-- Is the register one of 64 bits (R158)? -/
def SReg.is64 : SReg → Bool
  | .lanemask | .progress | .time => true
  | _ => false
/-- May K2S write it (R158, R159)? -/
def SReg.writable : SReg → Bool
  | .arithMode | .arithFlags => true
  | _ => false

/-- A field of three bits. -/
def fin8 (m : Nat) : Fin 8 := ⟨m % 8, Nat.mod_lt _ (by decide)⟩

/-! ## What the events name -/

/-- The three masters of the headgate (R429). -/
inductive Master where
  | host | bmc | fabric
  deriving DecidableEq, Repr

/-- The 24-byte words of a retired opcode's slot and of the slot after it, kept whole: its operands are not checked
before emulation (R153, R326). -/
structure RawSlot where
  words : Slot
  carrier : Option Slot
  deriving DecidableEq, Repr

/-- A register of a warp whose result is pending in the scoreboard (R154). -/
inductive PendReg where
  | v (n : Nat) | k (n : Nat) | p (n : Nat) | kp (n : Nat) | m (n : Nat) | window (n : Nat) | tile (n : Nat)
  deriving DecidableEq, Repr

/-- An engine that writes global memory (R86): command `ix` of a core's copy engine, or
packet `n` of a queue's DMA. -/
inductive EngineRef where
  | copy (core ix : Nat)
  | dma (q n : Nat)
  deriving DecidableEq, Repr

/-- Where an uncorrectable error of data is found (R445). -/
inductive ErrorSite where
  | scratchpad (core off : Nat)
  | accumulator (core entry : Nat)
  | registers (wg warp : Nat)
  | streamBuffer (core wg : Nat)
  | l1 (line : Nat)
  | l2 (line : Nat)
  | hbm (line : Nat)
  | flit (line : Nat)
  | control (code : Nat)
  deriving DecidableEq, Repr

/-- What a UALink peer does at an address of this device (R91). -/
inductive PeerAct where
  | read
  | write (bytes : List Byte)
  | atomic (op : IntAtom) (w64 : Bool) (x y : DWord)
  deriving DecidableEq, Repr

/-- One constructor for each row of the opcode table: instruction forms (R160 to R165), retired opcodes (R166), and
the indivisible steps of the other agents (95_what_each_step_holds). -/
inductive Instr where
  /-- NOP (R179). -/
  | nop (o : Args)
  /-- BRA (R175, R176). -/
  | bra (o : Args)
  /-- BRX (R175, R176). -/
  | brx (o : Args)
  /-- CALL (R175, R176). -/
  | call (o : Args) (klink : Bool)
  /-- CALLX (R175, R176). -/
  | callx (o : Args) (klink : Bool)
  /-- RET (R175, R176). -/
  | ret (o : Args)
  /-- EXIT (R177). -/
  | exit (o : Args)
  /-- JOIN (R178). -/
  | join (o : Args)
  /-- LOOP (R180). -/
  | loop (o : Args)
  /-- BRK (R184). -/
  | brk (o : Args)
  /-- YIELD (R185). -/
  | yield (o : Args) (kind : WaitKind)
  /-- WAIT (R185). -/
  | wait (o : Args) (kind : WaitKind)
  /-- ELECT (R197). -/
  | elect (o : Args)
  /-- POLL (R197). -/
  | poll (o : Args) (mode : PollMode)
  /-- TRAP (R199). -/
  | trap (o : Args)
  /-- TRAPFENCE (R103, R199). -/
  | trapfence (o : Args)
  /-- BAR.INIT (R188). -/
  | barInit (o : Args) (scope : BarScope)
  /-- BAR.ARRIVE (R188). -/
  | barArrive (o : Args)
  /-- BAR.WAIT (R188). -/
  | barWait (o : Args)
  /-- BAR.SYNC (R188). -/
  | barSync (o : Args)
  /-- BAR.MASK (R188). -/
  | barMask (o : Args)
  /-- QINIT (R192). -/
  | qinit (o : Args)
  /-- QPUSH (R192). -/
  | qpush (o : Args)
  /-- QPOP (R192). -/
  | qpop (o : Args)
  /-- QTRY (R192). -/
  | qtry (o : Args) (kpd : Fin 8)
  /-- PHASE.REL (R195). -/
  | phaseRel (o : Args) (scope : Scope)
  /-- PHASE.ACQ (R195). -/
  | phaseAcq (o : Args) (scope : Scope)
  /-- FENCE (R195). -/
  | fence (o : Args) (scope : Scope)
  /-- TLSIG (R195). -/
  | tlsig (o : Args) (scope : Scope)
  /-- TLWAIT (R195). -/
  | tlwait (o : Args) (scope : Scope)
  /-- S2K (R197, R200). -/
  | s2k (o : Args) (sr : SReg) (vdst : Bool)
  /-- K2S (R197, R200). -/
  | k2s (o : Args) (sr : SReg)
  /-- SETMODE (R200). -/
  | setmode (o : Args) (wrnd : Bool) (rnd : RndMode) (wftz : Bool) (ftz : Bool) (wnanp : Bool) (nanp : Bool)
  /-- WSTAT (R204). -/
  | wstat (o : Args)
  /-- WREG.R (R204). -/
  | wregR (o : Args)
  /-- WREG.W (R204). -/
  | wregW (o : Args)
  /-- WRESUME (R204). -/
  | wresume (o : Args)
  /-- WKILL (R204). -/
  | wkill (o : Args)
  /-- ERET (R204). -/
  | eret (o : Args)
  /-- TLBINV.PAGE (R204). -/
  | tlbinvPage (o : Args)
  /-- TLBINV.ALL (R204). -/
  | tlbinvAll (o : Args)
  /-- EMUARGS (R204). -/
  | emuargs (o : Args)
  /-- EMUARGS.W (R204). -/
  | emuargsW (o : Args)
  /-- KADD (R202). -/
  | kadd (o : Args)
  /-- KADD.64 (R202). -/
  | kadd64 (o : Args)
  /-- KSUB (R202). -/
  | ksub (o : Args)
  /-- KSUB.64 (R202). -/
  | ksub64 (o : Args)
  /-- KMUL (R202). -/
  | kmul (o : Args)
  /-- KMUL.64 (R202). -/
  | kmul64 (o : Args)
  /-- KMULH (R202). -/
  | kmulh (o : Args) (u : Bool)
  /-- KMULH.64 (R202). -/
  | kmulh64 (o : Args) (u : Bool)
  /-- KMAD (R202). -/
  | kmad (o : Args)
  /-- KMAD.64 (R202). -/
  | kmad64 (o : Args)
  /-- KSHL (R202). -/
  | kshl (o : Args)
  /-- KSHL.64 (R202). -/
  | kshl64 (o : Args)
  /-- KSHR (R202). -/
  | kshr (o : Args)
  /-- KSHR.64 (R202). -/
  | kshr64 (o : Args)
  /-- KSAR (R202). -/
  | ksar (o : Args)
  /-- KSAR.64 (R202). -/
  | ksar64 (o : Args)
  /-- KAND (R202). -/
  | kand (o : Args)
  /-- KAND.64 (R202). -/
  | kand64 (o : Args)
  /-- KOR (R202). -/
  | kor (o : Args)
  /-- KOR.64 (R202). -/
  | kor64 (o : Args)
  /-- KXOR (R202). -/
  | kxor (o : Args)
  /-- KXOR.64 (R202). -/
  | kxor64 (o : Args)
  /-- KMIN (R202). -/
  | kmin (o : Args) (u : Bool)
  /-- KMIN.64 (R202). -/
  | kmin64 (o : Args) (u : Bool)
  /-- KMAX (R202). -/
  | kmax (o : Args) (u : Bool)
  /-- KMAX.64 (R202). -/
  | kmax64 (o : Args) (u : Bool)
  /-- KSEL (R202). -/
  | ksel (o : Args)
  /-- KSEL.64 (R202). -/
  | ksel64 (o : Args)
  /-- KMOV (R202). -/
  | kmov (o : Args)
  /-- KMOV.64 (R202). -/
  | kmov64 (o : Args)
  /-- KCMP (R202). -/
  | kcmp (o : Args) (u : Bool) (cond : Cond)
  /-- KCMP.64 (R202). -/
  | kcmp64 (o : Args) (u : Bool) (cond : Cond)
  /-- KCLZ (R202). -/
  | kclz (o : Args)
  /-- KCLZ.64 (R202). -/
  | kclz64 (o : Args)
  /-- KPOPC (R202). -/
  | kpopc (o : Args)
  /-- KPOPC.64 (R202). -/
  | kpopc64 (o : Args)
  /-- KBFE (R202). -/
  | kbfe (o : Args) (sgn : Bool)
  /-- KBFE.64 (R202). -/
  | kbfe64 (o : Args) (sgn : Bool)
  /-- KBFI (R202). -/
  | kbfi (o : Args)
  /-- KBFI.64 (R202). -/
  | kbfi64 (o : Args)
  /-- KLD.GLOBAL (R203). -/
  | kldGlobal (o : Args) (w64 : Bool)
  /-- KLD.BANK (R203). -/
  | kldBank (o : Args) (w64 : Bool)
  /-- IADD (R214, R215). -/
  | iadd (o : Args) (u : Bool) (sat : Bool)
  /-- ISUB (R214, R215). -/
  | isub (o : Args) (u : Bool) (sat : Bool)
  /-- IMUL (R214, R215). -/
  | imul (o : Args) (u : Bool) (sat : Bool)
  /-- IMULH (R214, R215). -/
  | imulh (o : Args) (u : Bool)
  /-- IMAD (R214, R215). -/
  | imad (o : Args) (u : Bool) (sat : Bool)
  /-- IMADW (R214, R215). -/
  | imadw (o : Args) (u : Bool) (sat : Bool)
  /-- ISHL (R214, R215). -/
  | ishl (o : Args)
  /-- ISHR (R214, R215). -/
  | ishr (o : Args)
  /-- ISAR (R214, R215). -/
  | isar (o : Args)
  /-- LAND (R214, R215). -/
  | land (o : Args)
  /-- LOR (R214, R215). -/
  | lor (o : Args)
  /-- LXOR (R214, R215). -/
  | lxor (o : Args)
  /-- LNOT (R214, R215). -/
  | lnot (o : Args)
  /-- IMIN (R214, R215). -/
  | imin (o : Args) (u : Bool)
  /-- IMAX (R214, R215). -/
  | imax (o : Args) (u : Bool)
  /-- IABS (R214, R215). -/
  | iabs (o : Args) (sat : Bool)
  /-- ISEL (R214, R215). -/
  | isel (o : Args)
  /-- ICMP (R214, R215). -/
  | icmp (o : Args) (u : Bool) (cond : Cond)
  /-- IBFE (R214, R215). -/
  | ibfe (o : Args) (sgn : Bool)
  /-- IBFI (R214, R215). -/
  | ibfi (o : Args)
  /-- IPOPC (R214, R215). -/
  | ipopc (o : Args)
  /-- ICLZ (R214, R215). -/
  | iclz (o : Args)
  /-- IBREV (R214, R215). -/
  | ibrev (o : Args)
  /-- BPICK (R214, R215). -/
  | bpick (o : Args)
  /-- IDP4 (R214, R215). -/
  | idp4 (o : Args) (ua : Bool) (ub : Bool) (sat : Bool)
  /-- IDP2 (R214, R215). -/
  | idp2 (o : Args) (hi : Bool) (ua : Bool) (ub : Bool) (sat : Bool)
  /-- IMOV (R214, R215). -/
  | imov (o : Args)
  /-- FADD (R216 to R221). -/
  | fadd (o : Args) (r : RMod)
  /-- FSUB (R216 to R221). -/
  | fsub (o : Args) (r : RMod)
  /-- FMUL (R216 to R221). -/
  | fmul (o : Args) (r : RMod)
  /-- FFMA (R216 to R221). -/
  | ffma (o : Args) (r : RMod)
  /-- FMIN (R216 to R221). -/
  | fmin (o : Args) (nanp : Bool) (ftz : Bool)
  /-- FMAX (R216 to R221). -/
  | fmax (o : Args) (nanp : Bool) (ftz : Bool)
  /-- FCMP (R216 to R221). -/
  | fcmp (o : Args) (cond : FCond) (ftz : Bool)
  /-- FCLASS (R216 to R221). -/
  | fclass (o : Args)
  /-- FRND (R216 to R221). -/
  | frnd (o : Args) (nanp : Bool) (ftz : Bool) (rnd : RndSel)
  /-- HADD2 (R216 to R221). -/
  | hadd2 (o : Args) (bf : Bool) (r : RMod)
  /-- HFMA2 (R216 to R221). -/
  | hfma2 (o : Args) (bf : Bool) (r : RMod)
  /-- FDOT2 (R216 to R221). -/
  | fdot2 (o : Args) (bf : Bool) (r : RMod)
  /-- CVT (R216 to R221). -/
  | cvt (o : Args) (r : RMod) (sel : CvtSel)
  /-- BFPACK (R216 to R221). -/
  | bfpack (o : Args) (m : BfpWidth) (sat : Bool) (ftz : Bool) (rnd : RndSel)
  /-- BFUNPACK (R216 to R221). -/
  | bfunpack (o : Args) (m : BfpWidth) (sat : Bool) (rnd : RndSel)
  /-- RCP (R224). -/
  | rcp (o : Args) (r : RMod)
  /-- RSQ (R224). -/
  | rsq (o : Args) (r : RMod)
  /-- SQRT (R224). -/
  | sqrt (o : Args) (r : RMod)
  /-- EX2 (R224). -/
  | ex2 (o : Args) (r : RMod)
  /-- LG2 (R224). -/
  | lg2 (o : Args) (r : RMod)
  /-- SIN (R224). -/
  | sin (o : Args) (r : RMod)
  /-- COS (R224). -/
  | cos (o : Args) (r : RMod)
  /-- TANH (R224). -/
  | tanh (o : Args) (r : RMod)
  /-- XLANE (R225, R226). -/
  | xlane (o : Args) (pd : Fin 8) (seg : Fin 8) (mode : XMode)
  /-- QSWAP (R225, R226). -/
  | qswap (o : Args) (pd : Fin 8) (mode : QMode)
  /-- SCAN (R227, R228). -/
  | scan (o : Args) (red : RedMod)
  /-- WRED (R227, R228). -/
  | wred (o : Args) (red : RedMod)
  /-- SEGSCAN (R230, R231). -/
  | segscan (o : Args) (red : RedMod)
  /-- SEGRED (R230, R231). -/
  | segred (o : Args) (red : RedMod)
  /-- LPEER.LEAD (R229). -/
  | lpeerLead (o : Args) (w64 : Bool)
  /-- LPEER.RANK (R229). -/
  | lpeerRank (o : Args) (w64 : Bool)
  /-- NSTAT (R232). -/
  | nstat (o : Args) (nanp : Bool) (ftz : Bool) (rnd : RndSel)
  /-- NAPPLY (R233). -/
  | napply (o : Args) (sh : Fin 8) (r : RMod)
  /-- SMAXSTEP (R234). -/
  | smaxstep (o : Args) (sh : Fin 8) (nanp : Bool) (ftz : Bool) (rnd : RndSel)
  /-- LD (R237, R238). -/
  | ld (o : Args) (size : LdSize) (space : LsSpace)
  /-- LD.CLUSTER (R237, R238). -/
  | ldCluster (o : Args) (size : LdSize)
  /-- ST (R237, R238). -/
  | st (o : Args) (size : StSize) (space : LsSpace)
  /-- ST.CLUSTER (R237, R238). -/
  | stCluster (o : Args) (size : StSize)
  /-- LDC (R239). -/
  | ldc (o : Args) (size : LdcSize)
  /-- LDA (R240, R241). -/
  | lda (o : Args) (view : View) (fol : Bool)
  /-- STA (R240, R241). -/
  | sta (o : Args) (view : View) (fol : Bool)
  /-- ATOM (R242). -/
  | atom (o : Args) (scope : Scope) (space : AtomSpace) (sel : AtomSel)
  /-- ATOM.RED (R242). -/
  | atomRed (o : Args) (scope : Scope) (space : AtomSpace) (sel : AtomSel)
  /-- LDSEQ (R244). -/
  | ldseq (o : Args) (size : SeqSize) (nocross : Bool) (space : SeqSpace)
  /-- PREFETCH (R245). -/
  | prefetch (o : Args) (lvl : PfLevel) (space : CacheSpace)
  /-- CCTL.EVICT (R245). -/
  | cctlEvict (o : Args) (space : CacheSpace)
  /-- CCTL.EVICTALL (R245). -/
  | cctlEvictall (o : Args)
  /-- TCOPY (R246, R256). -/
  | tcopy (o : Args) (m : CmdMods)
  /-- TSTORE (R246, R256). -/
  | tstore (o : Args) (m : CmdMods)
  /-- TGATHER (R256, R258). -/
  | tgather (o : Args) (gm : GatherMode) (sh : Bool) (n : Bool)
  /-- TSCATTER (R256, R258). -/
  | tscatter (o : Args) (gm : GatherMode) (sh : Bool) (n : Bool)
  /-- TXFORM (R260). -/
  | txform (o : Args) (n : Bool)
  /-- TFILL (R259). -/
  | tfill (o : Args) (n : Bool)
  /-- TFILL.TB (R259). -/
  | tfillTb (o : Args)
  /-- TFILL.TBINV (R259). -/
  | tfillTbinv (o : Args)
  /-- TCOLL (R262). -/
  | tcoll (o : Args) (op : CollOp) (root : Bool) (n : Bool)
  /-- TCANCEL (R263). -/
  | tcancel (o : Args)
  /-- SHLD (R266). -/
  | shld (o : Args) (space : SeqSpace)
  /-- SHSYNC (R266). -/
  | shsync (o : Args)
  /-- SHINFO (R266). -/
  | shinfo (o : Args) (bnd : ShKind)
  /-- MLD (R271). -/
  | mld (o : Args) (q : Fin 8) (map : MapMode)
  /-- MMA (R273). -/
  | mma (o : Args) (m : ArrayMods)
  /-- MMAI (R273). -/
  | mmai (o : Args) (m : ArrayMods)
  /-- MMAB (R273). -/
  | mmab (o : Args) (m : ArrayMods)
  /-- MDRAIN (R286). -/
  | mdrain (o : Args) (stall : Bool)
  /-- MZERO (R287). -/
  | mzero (o : Args) (p : Bool)
  /-- MPROMO.I2P (R288). -/
  | mpromoI2P (o : Args) (p : Bool)
  /-- MPROMO.P2I (R288). -/
  | mpromoP2I (o : Args) (p : Bool)
  /-- MCFG (R291). -/
  | mcfg (o : Args)
  /-- MSTAT (R292). -/
  | mstat (o : Args)
  /-- MREL (R289). -/
  | mrel (o : Args) (tb : Bool)
  /-- SYNCW, retired (R325). -/
  | syncw (raw : RawSlot)
  /-- IMAD24, retired (R325). -/
  | imad24 (raw : RawSlot)
  /-- FMAD16, retired (R325). -/
  | fmad16 (raw : RawSlot)
  /-- LOGE, retired (R325). -/
  | loge (raw : RawSlot)
  /-- LDV, retired (R325). -/
  | ldv (raw : RawSlot)
  /-- MMA4, retired (R325). -/
  | mma4 (raw : RawSlot)
  /-- ILLEGAL_OPCODE (R160, R23). -/
  | illegalOpcode (words : Slot)
  /-- ISSUE_SLOT (R412, R413). -/
  | issueSlot (core port : Nat)
  /-- ENGINE_GLOBAL_WRITE (R85, R86). -/
  | engineGlobalWrite (engine : EngineRef)
  /-- CLUSTER_BARRIER_CONVERSION (R191). -/
  | clusterBarrierConversion (cluster bar : Nat)
  /-- JOIN_RELEASE (R34 to R36: a warp whose parts have all arrived goes on). -/
  | joinRelease (wg warp : Nat)
  /-- AGING_STEP (R371). -/
  | agingStep (wg warp split : Nat)
  /-- LINE_FETCH_COMPLETE (R140, R142). -/
  | lineFetchComplete (wg warp split : Nat)
  /-- RESULT_DELIVERY (R154). -/
  | resultDelivery (wg warp : Nat) (reg : PendReg)
  /-- WAIT_WAKE (R186). -/
  | waitWake (wg warp split : Nat)
  /-- FLUME_WAITER_SERVED (R194). -/
  | flumeWaiterServed (wg flume : Nat)
  /-- TLWAIT_WAKE (R87, R196). -/
  | tlwaitWake (wg warp split : Nat)
  /-- COPY_QUEUE_ROOM (R246). -/
  | copyQueueRoom (core : Nat)
  /-- RELEASE_COMPLETION (R74). -/
  | releaseCompletion (core ix : Nat)
  /-- L1_EVICTION (R61, R63). -/
  | l1Eviction (core line : Nat)
  /-- PAGE_WALK_COMPLETE (R53, R57). -/
  | pageWalkComplete (ix : Nat)
  /-- TLB_INVALIDATION_COMPLETE (R58). -/
  | tlbInvalidationComplete (ix : Nat)
  /-- ARRAY_GRANT (R283). -/
  | arrayGrant (core : Nat)
  /-- ARRAY_CLOCK (R277, R278). -/
  | arrayClock (core : Nat)
  /-- ARRAY_RETIRE (R280). -/
  | arrayRetire (core : Nat)
  /-- COMMAND_ARRIVAL (R253). -/
  | commandArrival (core ix : Nat)
  /-- SECTOR_WRITE (R254). -/
  | sectorWrite (core ix : Nat)
  /-- COMMAND_COMPLETION (R84, R254). -/
  | commandCompletion (core ix : Nat)
  /-- COLLECTIVE_COMPLETION (R262). -/
  | collectiveCompletion (cluster : Nat)
  /-- SOURCE_FILL (R398). -/
  | sourceFill (core ix n : Nat)
  /-- ROUTINE_INREL (R399). -/
  | routineInrel (core ix n : Nat)
  /-- ROUTINE_INWAIT (R399). -/
  | routineInwait (core ix n : Nat)
  /-- ROUTINE_OUTCOMMIT (R397, R398): of the `bytes` of buffer 1 (or of the result of R403). -/
  | routineOutcommit (core ix n : Nat) (bytes : List Byte)
  /-- ROUTINE_DONE (R399). -/
  | routineDone (core ix : Nat) (status : Word)
  /-- ROUTINE_FAULT (R400), with the routine core's pc. -/
  | routineFault (core ix : Nat) (pc : DWord)
  /-- ROUTINE_BUDGET_EXPIRY (R400), with the routine core's pc. -/
  | routineBudgetExpiry (core ix : Nat) (pc : DWord)
  /-- HANDLER_ENTRY (R377). -/
  | handlerEntry (wg : Nat)
  /-- TRAP_RING_RECORD_WRITE (R380). -/
  | trapRingRecordWrite (ctx : Nat)
  /-- BREAKPOINT_MATCH (R423). -/
  | breakpointMatch (wg warp split : Nat)
  /-- CLUSTER_EXIT_BARRIER (R48). -/
  | clusterExitBarrier (cluster : Nat)
  /-- CLUSTER_ADMISSION (R368, R369). -/
  | clusterAdmission (cores : List Nat)
  /-- PREEMPTION (R387). -/
  | preemption (cluster : Nat)
  /-- READMISSION_LIMIT_EXPIRY (R388). -/
  | readmissionLimitExpiry (cluster : Nat)
  /-- CONTEXT_SAVE (R389). -/
  | contextSave (cluster : Nat)
  /-- CONTEXT_RESTORE (R390). -/
  | contextRestore (image : Nat) (cores : List Nat)
  /-- PKT_NOP (R361). -/
  | pktNop (q : Nat)
  /-- PKT_LAUNCH (R361, R362). -/
  | pktLaunch (q : Nat)
  /-- PKT_FENCE (R363). -/
  | pktFence (q : Nat)
  /-- PKT_SIGNAL (R364). -/
  | pktSignal (q : Nat)
  /-- PKT_FLUSH (R364). -/
  | pktFlush (q : Nat)
  /-- PKT_HOSTCOPY (R365). -/
  | pktHostcopy (q : Nat)
  /-- PKT_PRIO (R366). -/
  | pktPrio (q : Nat)
  /-- FENCE_COUNTER_READ (R363). -/
  | fenceCounterRead (q entry : Nat)
  /-- FENCE_POLL_TIMER (R363). -/
  | fencePollTimer (q entry : Nat)
  /-- SIGNAL_ATOMIC (R364). -/
  | signalAtomic (q : Nat)
  /-- PACKET_COMPLETION (R360). -/
  | packetCompletion (q n : Nat)
  /-- DOORBELL (R358, R431). -/
  | doorbell (master : Master) (q : Nat) (v : Word) (page : Nat)
  /-- CTX_CREATE (R354). -/
  | ctxCreate (master : Master) (ctx : Nat)
  /-- REGISTER_WRITE (R352, R429). -/
  | registerWrite (master : Master) (off width : Nat) (v : DWord)
  /-- HOST_HBM_ACCESS (R66, R352). -/
  | hostHbmAccess (off n : Nat) (w : Option (List Byte))
  /-- QCFG_WRITE (R357). -/
  | qcfgWrite (master : Master) (q : Nat) (v : Word)
  /-- QSTAT_STOP_CLEAR (R359). -/
  | qstatStopClear (master : Master) (q : Nat) (v : Word)
  /-- CTX_DESTROY (R354). -/
  | ctxDestroy (master : Master) (ctx : Nat)
  /-- CTX_SUSPEND (R354). -/
  | ctxSuspend (master : Master) (ctx : Nat)
  /-- CTX_RESUME (R354). -/
  | ctxResume (master : Master) (ctx : Nat)
  /-- TLBCMD_PAGE (R58, R352). -/
  | tlbcmdPage (master : Master) (ctx : Nat)
  /-- TLBCMD_ALL (R58, R352). -/
  | tlbcmdAll (master : Master) (ctx : Nat)
  /-- RCONS_WRITE (R379, R381). -/
  | rconsWrite (master : Master) (ctx : Nat) (v : Word)
  /-- WGCMD_RELEASE (R383). -/
  | wgcmdRelease (master : Master) (ctx : Nat)
  /-- WGCMD_KILL (R383). -/
  | wgcmdKill (master : Master) (ctx : Nat)
  /-- WGCMD_RESUME_COMMAND (R383). -/
  | wgcmdResumeCommand (master : Master) (ctx : Nat)
  /-- WGCMD_CANCEL_COMMAND (R383). -/
  | wgcmdCancelCommand (master : Master) (ctx : Nat)
  /-- RTCMD_LOAD (R392 to R394). -/
  | rtcmdLoad (master : Master) (index : Nat)
  /-- RTCMD_UNLOAD (R392 to R394). -/
  | rtcmdUnload (master : Master) (index : Nat)
  /-- COMPCTL_CLR (R404). -/
  | compctlClr (master : Master) (die : Nat)
  /-- DDCTL_ENABLE (R406). -/
  | ddctlEnable (master : Master) (die : Nat)
  /-- DDCTL_DISABLE (R406). -/
  | ddctlDisable (master : Master) (die : Nat)
  /-- DDCTL_CLR (R406). -/
  | ddctlClr (master : Master) (die : Nat)
  /-- DDPOOL_WRITE (R406). -/
  | ddpoolWrite (master : Master) (die : Nat) (v : DWord)
  /-- L2_WRITEBACK (R407 to R410). -/
  | l2Writeback (line : Nat)
  /-- HELD_WRITEBACK_RETRY (R409). -/
  | heldWritebackRetry (line : Nat)
  /-- PCCTL_CLR (R415). -/
  | pcctlClr (master : Master) (core : Nat)
  /-- PCCTL_FREEZE (R415). -/
  | pcctlFreeze (master : Master) (core : Nat)
  /-- DBGCMD_HOLD (R424, R425). -/
  | dbgcmdHold (master : Master) (core : Nat)
  /-- DBGCMD_RESUME (R424, R425). -/
  | dbgcmdResume (master : Master) (core : Nat)
  /-- DBGCMD_STEP (R424, R425). -/
  | dbgcmdStep (master : Master) (core : Nat)
  /-- DBGCMD_READ (R424). -/
  | dbgcmdRead (master : Master) (core : Nat)
  /-- DBGCMD_WRITE (R424). -/
  | dbgcmdWrite (master : Master) (core : Nat)
  /-- TRCTL_WRITE (R417). -/
  | trctlWrite (master : Master) (core : Nat) (v : Word)
  /-- TRACE_SAMPLE (R420). -/
  | traceSample (core port : Nat)
  /-- HGCMD_CLAIM (R430). -/
  | hgcmdClaim (master : Master)
  /-- HGCMD_RELEASE (R430). -/
  | hgcmdRelease (master : Master)
  /-- HGCMD_HAND_OVER (R430). -/
  | hgcmdHandOver (master target : Master)
  /-- HGMBOX_WRITE (R430). -/
  | hgmboxWrite (master : Master) (ix : Nat) (v : Word)
  /-- OWNER_PATH_LOSS (R431). -/
  | ownerPathLoss (master : Master)
  /-- DEVICE_RESET (R433). -/
  | deviceReset
  /-- RCVCMD_VERIFY_WRITE (R435). -/
  | rcvcmdVerifyWrite (master : Master)
  /-- ATTCMD_REPORT (R436, R437). -/
  | attcmdReport (master : Master)
  /-- KEYCMD_LOAD (R438). -/
  | keycmdLoad (master : Master) (slot : Nat)
  /-- KEYCMD_CLEAR (R438). -/
  | keycmdClear (master : Master) (slot : Nat)
  /-- PMTCMD_NEW_NONCE (R440). -/
  | pmtcmdNewNonce (master : Master)
  /-- PMTCMD_APPLY (R440, R441). -/
  | pmtcmdApply (master : Master)
  /-- PMTCMD_ADVANCE (R440, R442). -/
  | pmtcmdAdvance (master : Master)
  /-- PWRLIM_WRITE (R447). -/
  | pwrlimWrite (master : Master) (v : Word)
  /-- CLOCK_THROTTLE (R447). -/
  | clockThrottle (power temp mhz : Nat)
  /-- THERMAL_SHUTDOWN (R447). -/
  | thermalShutdown
  /-- CORRECTED_ERROR (R444). -/
  | correctedError (code : Nat)
  /-- UNCORRECTABLE_DATA_ERROR (R445). -/
  | uncorrectableDataError (at_ : ErrorSite)
  /-- HOST_WINDOW_ACCESS (R65, R352). -/
  | hostWindowAccess (off n : Nat) (w : Option (List Byte))
  /-- PEER_ACCESS (R91). -/
  | peerAccess (addr n : Nat) (act : PeerAct)
  deriving DecidableEq, Repr

/-- Is it a step of another agent, not an instruction that a split issues? -/
def Instr.isEvent : Instr → Bool
  | .nop .. => false
  | .bra .. => false
  | .brx .. => false
  | .call .. => false
  | .callx .. => false
  | .ret .. => false
  | .exit .. => false
  | .join .. => false
  | .loop .. => false
  | .brk .. => false
  | .yield .. => false
  | .wait .. => false
  | .elect .. => false
  | .poll .. => false
  | .trap .. => false
  | .trapfence .. => false
  | .barInit .. => false
  | .barArrive .. => false
  | .barWait .. => false
  | .barSync .. => false
  | .barMask .. => false
  | .qinit .. => false
  | .qpush .. => false
  | .qpop .. => false
  | .qtry .. => false
  | .phaseRel .. => false
  | .phaseAcq .. => false
  | .fence .. => false
  | .tlsig .. => false
  | .tlwait .. => false
  | .s2k .. => false
  | .k2s .. => false
  | .setmode .. => false
  | .wstat .. => false
  | .wregR .. => false
  | .wregW .. => false
  | .wresume .. => false
  | .wkill .. => false
  | .eret .. => false
  | .tlbinvPage .. => false
  | .tlbinvAll .. => false
  | .emuargs .. => false
  | .emuargsW .. => false
  | .kadd .. => false
  | .kadd64 .. => false
  | .ksub .. => false
  | .ksub64 .. => false
  | .kmul .. => false
  | .kmul64 .. => false
  | .kmulh .. => false
  | .kmulh64 .. => false
  | .kmad .. => false
  | .kmad64 .. => false
  | .kshl .. => false
  | .kshl64 .. => false
  | .kshr .. => false
  | .kshr64 .. => false
  | .ksar .. => false
  | .ksar64 .. => false
  | .kand .. => false
  | .kand64 .. => false
  | .kor .. => false
  | .kor64 .. => false
  | .kxor .. => false
  | .kxor64 .. => false
  | .kmin .. => false
  | .kmin64 .. => false
  | .kmax .. => false
  | .kmax64 .. => false
  | .ksel .. => false
  | .ksel64 .. => false
  | .kmov .. => false
  | .kmov64 .. => false
  | .kcmp .. => false
  | .kcmp64 .. => false
  | .kclz .. => false
  | .kclz64 .. => false
  | .kpopc .. => false
  | .kpopc64 .. => false
  | .kbfe .. => false
  | .kbfe64 .. => false
  | .kbfi .. => false
  | .kbfi64 .. => false
  | .kldGlobal .. => false
  | .kldBank .. => false
  | .iadd .. => false
  | .isub .. => false
  | .imul .. => false
  | .imulh .. => false
  | .imad .. => false
  | .imadw .. => false
  | .ishl .. => false
  | .ishr .. => false
  | .isar .. => false
  | .land .. => false
  | .lor .. => false
  | .lxor .. => false
  | .lnot .. => false
  | .imin .. => false
  | .imax .. => false
  | .iabs .. => false
  | .isel .. => false
  | .icmp .. => false
  | .ibfe .. => false
  | .ibfi .. => false
  | .ipopc .. => false
  | .iclz .. => false
  | .ibrev .. => false
  | .bpick .. => false
  | .idp4 .. => false
  | .idp2 .. => false
  | .imov .. => false
  | .fadd .. => false
  | .fsub .. => false
  | .fmul .. => false
  | .ffma .. => false
  | .fmin .. => false
  | .fmax .. => false
  | .fcmp .. => false
  | .fclass .. => false
  | .frnd .. => false
  | .hadd2 .. => false
  | .hfma2 .. => false
  | .fdot2 .. => false
  | .cvt .. => false
  | .bfpack .. => false
  | .bfunpack .. => false
  | .rcp .. => false
  | .rsq .. => false
  | .sqrt .. => false
  | .ex2 .. => false
  | .lg2 .. => false
  | .sin .. => false
  | .cos .. => false
  | .tanh .. => false
  | .xlane .. => false
  | .qswap .. => false
  | .scan .. => false
  | .wred .. => false
  | .segscan .. => false
  | .segred .. => false
  | .lpeerLead .. => false
  | .lpeerRank .. => false
  | .nstat .. => false
  | .napply .. => false
  | .smaxstep .. => false
  | .ld .. => false
  | .ldCluster .. => false
  | .st .. => false
  | .stCluster .. => false
  | .ldc .. => false
  | .lda .. => false
  | .sta .. => false
  | .atom .. => false
  | .atomRed .. => false
  | .ldseq .. => false
  | .prefetch .. => false
  | .cctlEvict .. => false
  | .cctlEvictall .. => false
  | .tcopy .. => false
  | .tstore .. => false
  | .tgather .. => false
  | .tscatter .. => false
  | .txform .. => false
  | .tfill .. => false
  | .tfillTb .. => false
  | .tfillTbinv .. => false
  | .tcoll .. => false
  | .tcancel .. => false
  | .shld .. => false
  | .shsync .. => false
  | .shinfo .. => false
  | .mld .. => false
  | .mma .. => false
  | .mmai .. => false
  | .mmab .. => false
  | .mdrain .. => false
  | .mzero .. => false
  | .mpromoI2P .. => false
  | .mpromoP2I .. => false
  | .mcfg .. => false
  | .mstat .. => false
  | .mrel .. => false
  | .syncw .. => false
  | .imad24 .. => false
  | .fmad16 .. => false
  | .loge .. => false
  | .ldv .. => false
  | .mma4 .. => false
  | .illegalOpcode .. => false
  | .issueSlot .. => true
  | .engineGlobalWrite .. => true
  | .clusterBarrierConversion .. => true
  | .joinRelease .. => true
  | .agingStep .. => true
  | .lineFetchComplete .. => true
  | .resultDelivery .. => true
  | .waitWake .. => true
  | .flumeWaiterServed .. => true
  | .tlwaitWake .. => true
  | .copyQueueRoom .. => true
  | .releaseCompletion .. => true
  | .l1Eviction .. => true
  | .pageWalkComplete .. => true
  | .tlbInvalidationComplete .. => true
  | .arrayGrant .. => true
  | .arrayClock .. => true
  | .arrayRetire .. => true
  | .commandArrival .. => true
  | .sectorWrite .. => true
  | .commandCompletion .. => true
  | .collectiveCompletion .. => true
  | .sourceFill .. => true
  | .routineInrel .. => true
  | .routineInwait .. => true
  | .routineOutcommit .. => true
  | .routineDone .. => true
  | .routineFault .. => true
  | .routineBudgetExpiry .. => true
  | .handlerEntry .. => true
  | .trapRingRecordWrite .. => true
  | .breakpointMatch .. => true
  | .clusterExitBarrier .. => true
  | .clusterAdmission .. => true
  | .preemption .. => true
  | .readmissionLimitExpiry .. => true
  | .contextSave .. => true
  | .contextRestore .. => true
  | .pktNop .. => true
  | .pktLaunch .. => true
  | .pktFence .. => true
  | .pktSignal .. => true
  | .pktFlush .. => true
  | .pktHostcopy .. => true
  | .pktPrio .. => true
  | .fenceCounterRead .. => true
  | .fencePollTimer .. => true
  | .signalAtomic .. => true
  | .packetCompletion .. => true
  | .doorbell .. => true
  | .ctxCreate .. => true
  | .registerWrite .. => true
  | .hostHbmAccess .. => true
  | .qcfgWrite .. => true
  | .qstatStopClear .. => true
  | .ctxDestroy .. => true
  | .ctxSuspend .. => true
  | .ctxResume .. => true
  | .tlbcmdPage .. => true
  | .tlbcmdAll .. => true
  | .rconsWrite .. => true
  | .wgcmdRelease .. => true
  | .wgcmdKill .. => true
  | .wgcmdResumeCommand .. => true
  | .wgcmdCancelCommand .. => true
  | .rtcmdLoad .. => true
  | .rtcmdUnload .. => true
  | .compctlClr .. => true
  | .ddctlEnable .. => true
  | .ddctlDisable .. => true
  | .ddctlClr .. => true
  | .ddpoolWrite .. => true
  | .l2Writeback .. => true
  | .heldWritebackRetry .. => true
  | .pcctlClr .. => true
  | .pcctlFreeze .. => true
  | .dbgcmdHold .. => true
  | .dbgcmdResume .. => true
  | .dbgcmdStep .. => true
  | .dbgcmdRead .. => true
  | .dbgcmdWrite .. => true
  | .trctlWrite .. => true
  | .traceSample .. => true
  | .hgcmdClaim .. => true
  | .hgcmdRelease .. => true
  | .hgcmdHandOver .. => true
  | .hgmboxWrite .. => true
  | .ownerPathLoss .. => true
  | .deviceReset => true
  | .rcvcmdVerifyWrite .. => true
  | .attcmdReport .. => true
  | .keycmdLoad .. => true
  | .keycmdClear .. => true
  | .pmtcmdNewNonce .. => true
  | .pmtcmdApply .. => true
  | .pmtcmdAdvance .. => true
  | .pwrlimWrite .. => true
  | .clockThrottle .. => true
  | .thermalShutdown => true
  | .correctedError .. => true
  | .uncorrectableDataError .. => true
  | .hostWindowAccess .. => true
  | .peerAccess .. => true

end Sys2Proof
end

