-- ==== Sys2Proof/Machine/Forms.lean ====
section
/-! DEFINITION. The forms of the instructions: what each opcode's fields are, from the forms tables of 07 to 11 and 14. -/
namespace Sys2Proof

/-! ## What a source field may hold -/

/-- What a source field accepts (R146 to R151). `v` and `k` are the alignment of a register of that file (0: refused);
`bank` is 1 for a word, 2 for a pair, 16 for a layout record (0: refused); `lo` and `hi` bound an object's number. -/
structure SrcFlags where
  v : Nat := 0
  k : Nat := 0
  m : Bool := false
  bank : Nat := 0
  imm : Bool := false
  trail : Bool := false
  inw : Bool := false
  lo : Nat := 1
  hi : Nat := 0
  neg : Bool := false
  abs : Bool := false
  oneg : Bool := false
  opt : Bool := false
  deriving DecidableEq, Repr

/-- The kind of a source field: it must be zero; it holds the selector value `x`; or it holds an operand. -/
inductive SrcKind where
  | zero
  | sel (x : Nat)
  | of (f : SrcFlags)
  deriving DecidableEq, Repr

/-- A source of R210, 32 bits. -/
def SrcKind.s (neg abs : Bool) : SrcKind :=
  .of { v := 1, k := 1, bank := 1, imm := true, trail := true, inw := true, neg := neg, abs := abs }
/-- A source of R210, 64 bits. -/
def SrcKind.s64 (neg abs : Bool) : SrcKind :=
  .of { v := 2, k := 2, bank := 2, imm := true, trail := true, inw := true, neg := neg, abs := abs }
/-- A source of R210 that takes no immediate (R148). -/
def SrcKind.sn (neg abs : Bool) : SrcKind :=
  .of { v := 1, k := 1, bank := 1, trail := true, inw := true, neg := neg, abs := abs }
/-- A source of class 001, 32 bits (R201), and row0 (R230). -/
def SrcKind.u (neg abs : Bool) : SrcKind :=
  .of { k := 1, bank := 1, imm := true, trail := true, inw := true, neg := neg, abs := abs }
/-- A source of class 001, 64 bits (R201). -/
def SrcKind.u64 (neg abs : Bool) : SrcKind :=
  .of { k := 2, bank := 2, imm := true, trail := true, inw := true, neg := neg, abs := abs }
/-- A displacement (R173). -/
def SrcKind.disp : SrcKind := .of { imm := true, trail := true }
/-- A target pair (R175). -/
def SrcKind.vk2 : SrcKind := .of { v := 2, k := 2 }
/-- A k register, constant-bank word or literal. -/
def SrcKind.kct : SrcKind := .of { k := 1, bank := 1, trail := true }
/-- A k register, constant-bank word, immediate or literal. -/
def SrcKind.kcit : SrcKind := .of { k := 1, bank := 1, imm := true, trail := true }
/-- A k register or an immediate. -/
def SrcKind.ki : SrcKind := .of { k := 1, imm := true }
/-- A k register, immediate or literal. -/
def SrcKind.kit : SrcKind := .of { k := 1, imm := true, trail := true }
/-- A k pair, immediate or literal. -/
def SrcKind.k2it : SrcKind := .of { k := 2, imm := true, trail := true }
/-- A k register at a multiple of `n`. -/
def SrcKind.kreg (n : Nat) : SrcKind := .of { k := n }
/-- A k register, or zero. -/
def SrcKind.kOr0 (on : Bool) : SrcKind := if on then .of { k := 1 } else .zero
/-- A flume object. -/
def SrcKind.flume : SrcKind := .of { lo := 0x80, hi := 0x8f }
/-- A named barrier. -/
def SrcKind.barrier : SrcKind := .of { lo := 0x20, hi := 0x7f }
/-- A shape register. -/
def SrcKind.shape : SrcKind := .of { lo := 0x10, hi := 0x17 }
/-- A predicate of either file (R197, R214). -/
def SrcKind.pred (neg : Bool) : SrcKind := .of { lo := 0, hi := 15, oneg := neg }
/-- A kp predicate (KSEL). -/
def SrcKind.predK : SrcKind := .of { lo := 8, hi := 15 }
/-- An immediate. -/
def SrcKind.immOnly : SrcKind := .of { imm := true }
/-- A constant-bank word. -/
def SrcKind.bankOnly : SrcKind := .of { bank := 1 }
/-- An offset, or zero for none (R237). -/
def SrcKind.offOpt : SrcKind := .of { imm := true, trail := true, opt := true }
/-- An offset of KLD (R203). DEDUCED (log entry 22): a field of zero is no offset, as in R237. -/
def SrcKind.off : SrcKind := .of { imm := true, trail := true, inw := true, opt := true }
/-- A v register at a multiple of `n`. -/
def SrcKind.vreg (n : Nat) (neg : Bool) : SrcKind := .of { v := n, neg := neg, abs := neg }
/-- A base: v or k, of 64 bits for global memory (R44). -/
def SrcKind.base (glob : Bool) : SrcKind := if glob then .of { v := 2, k := 2 } else .of { v := 1, k := 1 }
/-- A v or k register. -/
def SrcKind.vk1 : SrcKind := .of { v := 1, k := 1 }
/-- XLANE's B. -/
def SrcKind.xlaneB : SrcKind := .of { v := 1, k := 1, bank := 1, imm := true, trail := true, inw := true }
/-- A cluster rank (R237). -/
def SrcKind.rank : SrcKind := .of { v := 1, k := 1, imm := true }
/-- Data of `n` registers, v or k (R237, R240). DEDUCED (log entry 15): a k source of `n` words starts at a multiple of `n`. -/
def SrcKind.data (n : Nat) : SrcKind := .of { v := n, k := n }
/-- Data of an atomic (R242). -/
def SrcKind.atomData (s : AtomSel) : SrcKind :=
  if s.isCas then .of { v := if s.w64 then 4 else 2 } else .of { v := if s.w64 then 2 else 1, k := if s.w64 then 2 else 1 }
/-- The object of WAIT and YIELD (R185). -/
def SrcKind.waitObj : WaitKind → SrcKind
  | .tb => .kreg 1
  | .nempty => .flume
  | .nfull => .flume
  | .tl => .kreg 1
/-- The value of WAIT and YIELD (R185). -/
def SrcKind.waitVal : WaitKind → SrcKind
  | .tb => .of { k := 1, trail := true }
  | .nempty => .zero
  | .nfull => .zero
  | .tl => .of { k := 2, trail := true }
/-- The source of CVT (R216): no immediate. -/
def SrcKind.cvtSrc (f : CvtFmt) : SrcKind :=
  if f.width = 64 then .of { v := 2, k := 2, bank := 2, trail := true, neg := true, abs := true }
  else .of { v := 1, k := 1, bank := 1, trail := true, neg := true, abs := true }
/-- A layout record: a constant-bank word at a multiple of 16, or a k register with an sp offset (R256). -/
def SrcKind.layout : SrcKind := .of { k := 1, bank := 16 }
/-- The expected CRC (R256). -/
def SrcKind.crc (on : Bool) : SrcKind := .kOr0 on
/-- SHINFO's item (R266). -/
def SrcKind.shItem : ShKind → SrcKind
  | .item => .immOnly
  | .bound => .kreg 1
/-- An m register. -/
def SrcKind.mreg : SrcKind := .of { m := true }
/-- MREL's A (R289). -/
def SrcKind.mrel (tb : Bool) : SrcKind := if tb then .kreg 2 else .zero

/-- What a destination field names (R145). -/
inductive DstKind where
  | zero
  | v (align : Nat)
  | k (align : Nat)
  | pred
  | num (last : Nat)
  | sreg (r : SReg)
  deriving DecidableEq, Repr

/-- The signature of an instruction: its fields, whether it has GFILE, whether SLOT.CS may be 1, and whether it must be
unguarded (R178, R180). -/
structure Sig where
  d : DstKind := .zero
  a : SrcKind := .zero
  b : SrcKind := .zero
  c : SrcKind := .zero
  gf : Bool := false
  cs : Bool := true
  unguarded : Bool := false
  deriving DecidableEq, Repr

/-- Registers that a load size writes (R237). -/
def LdSize.regs : LdSize → Nat
  | .b64 => 2
  | .b128 => 4
  | _ => 1
/-- Registers that a store size reads. -/
def StSize.regs : StSize → Nat
  | .b64 => 2
  | .b128 => 4
  | _ => 1
/-- Registers that LDC writes. -/
def LdcSize.regs : LdcSize → Nat
  | .b32 => 1
  | .b64 => 2
  | .b128 => 4
/-- Registers that LDSEQ writes. -/
def SeqSize.regs : SeqSize → Nat
  | .b32 => 1
  | .b64 => 2
  | .b128 => 4

/-! ## Each instruction's modifier bits, opcode, operands and signature -/

/-- The modifier bits of an instruction, without IMMX and GFILE (R143, R152). -/
def Instr.modBits : Instr → Nat
  | .nop _ => 0
  | .bra _ => 0
  | .brx _ => 0
  | .call _ klink => boolBit klink * 128
  | .callx _ klink => boolBit klink * 128
  | .ret _ => 0
  | .exit _ => 0
  | .join _ => 0
  | .loop _ => 0
  | .brk _ => 0
  | .yield _ kind => kind.toBits * 128
  | .wait _ kind => kind.toBits * 128
  | .elect _ => 0
  | .poll _ mode => mode.toBits * 128
  | .trap _ => 0
  | .trapfence _ => 0
  | .barInit _ scope => scope.toBits * 8
  | .barArrive _ => 0
  | .barWait _ => 0
  | .barSync _ => 0
  | .barMask _ => 0
  | .qinit _ => 0
  | .qpush _ => 0
  | .qpop _ => 0
  | .qtry _ kpd => kpd.val * 128
  | .phaseRel _ scope => scope.toBits * 8
  | .phaseAcq _ scope => scope.toBits * 8
  | .fence _ scope => scope.toBits * 8
  | .tlsig _ scope => scope.toBits * 8
  | .tlwait _ scope => scope.toBits * 8
  | .s2k _ _ vdst => boolBit vdst * 128
  | .k2s _ _ => 0
  | .setmode _ wrnd rnd wftz ftz wnanp nanp => boolBit wrnd * 8 + rnd.toBits + boolBit wftz * 32 + boolBit ftz * 16 + boolBit wnanp * 256 + boolBit nanp * 128
  | .wstat _ => 0
  | .wregR _ => 0
  | .wregW _ => 128
  | .wresume _ => 0
  | .wkill _ => 0
  | .eret _ => 0
  | .tlbinvPage _ => 0
  | .tlbinvAll _ => 128
  | .emuargs _ => 0
  | .emuargsW _ => 128
  | .kadd _ => 0
  | .kadd64 _ => 0
  | .ksub _ => 0
  | .ksub64 _ => 0
  | .kmul _ => 0
  | .kmul64 _ => 0
  | .kmulh _ u => boolBit u * 64
  | .kmulh64 _ u => boolBit u * 64
  | .kmad _ => 0
  | .kmad64 _ => 0
  | .kshl _ => 0
  | .kshl64 _ => 0
  | .kshr _ => 0
  | .kshr64 _ => 0
  | .ksar _ => 0
  | .ksar64 _ => 0
  | .kand _ => 0
  | .kand64 _ => 0
  | .kor _ => 0
  | .kor64 _ => 0
  | .kxor _ => 0
  | .kxor64 _ => 0
  | .kmin _ u => boolBit u * 64
  | .kmin64 _ u => boolBit u * 64
  | .kmax _ u => boolBit u * 64
  | .kmax64 _ u => boolBit u * 64
  | .ksel _ => 0
  | .ksel64 _ => 0
  | .kmov _ => 0
  | .kmov64 _ => 0
  | .kcmp _ u cond => boolBit u * 64 + cond.toBits * 128
  | .kcmp64 _ u cond => boolBit u * 64 + cond.toBits * 128
  | .kclz _ => 0
  | .kclz64 _ => 0
  | .kpopc _ => 0
  | .kpopc64 _ => 0
  | .kbfe _ sgn => boolBit sgn * 64
  | .kbfe64 _ sgn => boolBit sgn * 64
  | .kbfi _ => 0
  | .kbfi64 _ => 0
  | .kldGlobal _ w64 => boolBit w64 * 128
  | .kldBank _ w64 => boolBit w64 * 128 + 6
  | .iadd _ u sat => boolBit u * 128 + boolBit sat * 16
  | .isub _ u sat => boolBit u * 128 + boolBit sat * 16
  | .imul _ u sat => boolBit u * 128 + boolBit sat * 16
  | .imulh _ u => boolBit u * 128
  | .imad _ u sat => boolBit u * 128 + boolBit sat * 16
  | .imadw _ u sat => boolBit u * 128 + boolBit sat * 16
  | .ishl _ => 0
  | .ishr _ => 0
  | .isar _ => 0
  | .land _ => 0
  | .lor _ => 0
  | .lxor _ => 0
  | .lnot _ => 0
  | .imin _ u => boolBit u * 128
  | .imax _ u => boolBit u * 128
  | .iabs _ sat => boolBit sat * 16
  | .isel _ => 0
  | .icmp _ u cond => boolBit u * 128 + cond.toBits
  | .ibfe _ sgn => boolBit sgn * 128
  | .ibfi _ => 0
  | .ipopc _ => 0
  | .iclz _ => 0
  | .ibrev _ => 0
  | .bpick _ => 0
  | .idp4 _ ua ub sat => boolBit ua * 256 + boolBit ub * 128 + boolBit sat * 16
  | .idp2 _ hi ua ub sat => boolBit hi * 512 + boolBit ua * 256 + boolBit ub * 128 + boolBit sat * 16
  | .imov _ => 0
  | .fadd _ r => r.toBits
  | .fsub _ r => r.toBits
  | .fmul _ r => r.toBits
  | .ffma _ r => r.toBits
  | .fmin _ nanp ftz => boolBit nanp * 32 + boolBit ftz * 8
  | .fmax _ nanp ftz => boolBit nanp * 32 + boolBit ftz * 8
  | .fcmp _ cond ftz => cond.toBits * 128 + boolBit ftz * 8
  | .fclass _ => 0
  | .frnd _ nanp ftz rnd => boolBit nanp * 32 + boolBit ftz * 8 + rnd.toBits
  | .hadd2 _ bf r => boolBit bf * 128 + r.toBits
  | .hfma2 _ bf r => boolBit bf * 128 + r.toBits
  | .fdot2 _ bf r => boolBit bf * 128 + r.toBits
  | .cvt _ r _ => r.toBits
  | .bfpack _ m sat ftz rnd => m.toBits * 128 + boolBit sat * 16 + boolBit ftz * 8 + rnd.toBits
  | .bfunpack _ m sat rnd => m.toBits * 128 + boolBit sat * 16 + rnd.toBits
  | .rcp _ r => r.toBits
  | .rsq _ r => r.toBits
  | .sqrt _ r => r.toBits
  | .ex2 _ r => r.toBits
  | .lg2 _ r => r.toBits
  | .sin _ r => r.toBits
  | .cos _ r => r.toBits
  | .tanh _ r => r.toBits
  | .xlane _ pd seg mode => pd.val * 128 + seg.val * 8 + mode.toBits
  | .qswap _ pd mode => pd.val * 128 + mode.toBits
  | .scan _ red => red.toBits
  | .wred _ red => red.toBits
  | .segscan _ red => red.toBits
  | .segred _ red => red.toBits
  | .lpeerLead _ w64 => boolBit w64 * 256
  | .lpeerRank _ w64 => boolBit w64 * 256 + 128
  | .nstat _ nanp ftz rnd => boolBit nanp * 32 + boolBit ftz * 8 + rnd.toBits
  | .napply _ sh r => sh.val * 128 + r.toBits
  | .smaxstep _ sh nanp ftz rnd => sh.val * 128 + boolBit nanp * 32 + boolBit ftz * 8 + rnd.toBits
  | .ld _ size space => size.toBits * 128 + space.toBits
  | .ldCluster _ size => size.toBits * 128 + 3
  | .st _ size space => size.toBits * 128 + space.toBits
  | .stCluster _ size => size.toBits * 128 + 3
  | .ldc _ size => size.toBits * 128 + 6
  | .lda _ view fol => view.toBits * 128 + boolBit fol * 8 + 5
  | .sta _ view fol => view.toBits * 128 + boolBit fol * 8 + 5
  | .atom _ scope space _ => scope.toBits * 8 + space.toBits
  | .atomRed _ scope space _ => scope.toBits * 8 + space.toBits
  | .ldseq _ size nocross space => size.toBits * 256 + boolBit nocross * 128 + space.toBits
  | .prefetch _ lvl space => lvl.toBits * 128 + space.toBits
  | .cctlEvict _ space => space.toBits
  | .cctlEvictall _ => 128
  | .tcopy _ m => m.toBits * 64
  | .tstore _ m => m.toBits * 64
  | .tgather _ gm sh n => gm.toBits * 8 + boolBit sh * 512 + boolBit n * 64
  | .tscatter _ gm sh n => gm.toBits * 8 + boolBit sh * 512 + boolBit n * 64
  | .txform _ n => boolBit n * 64
  | .tfill _ n => boolBit n * 64
  | .tfillTb _ => 8
  | .tfillTbinv _ => 16
  | .tcoll _ op root n => op.toBits * 8 + boolBit root * 256 + boolBit n * 64
  | .tcancel _ => 0
  | .shld _ space => space.toBits
  | .shsync _ => 0
  | .shinfo _ bnd => bnd.toBits * 8
  | .mld _ q map => q.val * 128 + map.toBits
  | .mma _ m => m.toBits
  | .mmai _ m => m.toBits
  | .mmab _ m => m.toBits
  | .mdrain _ stall => boolBit stall
  | .mzero _ p => boolBit p * 64
  | .mpromoI2P _ p => boolBit p * 64
  | .mpromoP2I _ p => boolBit p * 64 + 1
  | .mcfg _ => 0
  | .mstat _ => 0
  | .mrel _ tb => boolBit tb
  | _ => 0

/-- The opcode of an instruction (R160 to R166). -/
def Instr.op : Instr → Nat
  | .nop .. => 0x000
  | .bra .. => 0x001
  | .brx .. => 0x002
  | .call .. => 0x003
  | .callx .. => 0x004
  | .ret .. => 0x005
  | .exit .. => 0x006
  | .join .. => 0x007
  | .loop .. => 0x008
  | .brk .. => 0x009
  | .yield .. => 0x00a
  | .wait .. => 0x00b
  | .elect .. => 0x00c
  | .poll .. => 0x00d
  | .trap .. => 0x00e
  | .trapfence .. => 0x00f
  | .barInit .. => 0x010
  | .barArrive .. => 0x011
  | .barWait .. => 0x012
  | .barSync .. => 0x013
  | .barMask .. => 0x014
  | .qinit .. => 0x018
  | .qpush .. => 0x019
  | .qpop .. => 0x01a
  | .qtry .. => 0x01b
  | .phaseRel .. => 0x020
  | .phaseAcq .. => 0x021
  | .fence .. => 0x022
  | .tlsig .. => 0x023
  | .tlwait .. => 0x024
  | .s2k .. => 0x028
  | .k2s .. => 0x029
  | .setmode .. => 0x02a
  | .wstat .. => 0x070
  | .wregR .. => 0x071
  | .wregW .. => 0x071
  | .wresume .. => 0x072
  | .wkill .. => 0x073
  | .eret .. => 0x074
  | .tlbinvPage .. => 0x075
  | .tlbinvAll .. => 0x075
  | .emuargs .. => 0x076
  | .emuargsW .. => 0x076
  | .kadd .. => 0x080
  | .kadd64 .. => 0x0a0
  | .ksub .. => 0x081
  | .ksub64 .. => 0x0a1
  | .kmul .. => 0x082
  | .kmul64 .. => 0x0a2
  | .kmulh .. => 0x083
  | .kmulh64 .. => 0x0a3
  | .kmad .. => 0x084
  | .kmad64 .. => 0x0a4
  | .kshl .. => 0x085
  | .kshl64 .. => 0x0a5
  | .kshr .. => 0x086
  | .kshr64 .. => 0x0a6
  | .ksar .. => 0x087
  | .ksar64 .. => 0x0a7
  | .kand .. => 0x088
  | .kand64 .. => 0x0a8
  | .kor .. => 0x089
  | .kor64 .. => 0x0a9
  | .kxor .. => 0x08a
  | .kxor64 .. => 0x0aa
  | .kmin .. => 0x08b
  | .kmin64 .. => 0x0ab
  | .kmax .. => 0x08c
  | .kmax64 .. => 0x0ac
  | .ksel .. => 0x08d
  | .ksel64 .. => 0x0ad
  | .kmov .. => 0x08e
  | .kmov64 .. => 0x0ae
  | .kcmp .. => 0x08f
  | .kcmp64 .. => 0x0af
  | .kclz .. => 0x090
  | .kclz64 .. => 0x0b0
  | .kpopc .. => 0x091
  | .kpopc64 .. => 0x0b1
  | .kbfe .. => 0x092
  | .kbfe64 .. => 0x0b2
  | .kbfi .. => 0x093
  | .kbfi64 .. => 0x0b3
  | .kldGlobal .. => 0x0c0
  | .kldBank .. => 0x0c0
  | .iadd .. => 0x100
  | .isub .. => 0x101
  | .imul .. => 0x102
  | .imulh .. => 0x103
  | .imad .. => 0x104
  | .imadw .. => 0x105
  | .ishl .. => 0x106
  | .ishr .. => 0x107
  | .isar .. => 0x108
  | .land .. => 0x109
  | .lor .. => 0x10a
  | .lxor .. => 0x10b
  | .lnot .. => 0x10c
  | .imin .. => 0x10d
  | .imax .. => 0x10e
  | .iabs .. => 0x10f
  | .isel .. => 0x110
  | .icmp .. => 0x111
  | .ibfe .. => 0x112
  | .ibfi .. => 0x113
  | .ipopc .. => 0x114
  | .iclz .. => 0x115
  | .ibrev .. => 0x116
  | .bpick .. => 0x117
  | .idp4 .. => 0x118
  | .idp2 .. => 0x119
  | .imov .. => 0x11a
  | .fadd .. => 0x180
  | .fsub .. => 0x181
  | .fmul .. => 0x182
  | .ffma .. => 0x183
  | .fmin .. => 0x184
  | .fmax .. => 0x185
  | .fcmp .. => 0x186
  | .fclass .. => 0x187
  | .frnd .. => 0x188
  | .hadd2 .. => 0x189
  | .hfma2 .. => 0x18a
  | .fdot2 .. => 0x18b
  | .cvt .. => 0x18c
  | .bfpack .. => 0x18d
  | .bfunpack .. => 0x18e
  | .rcp .. => 0x200
  | .rsq .. => 0x201
  | .sqrt .. => 0x202
  | .ex2 .. => 0x203
  | .lg2 .. => 0x204
  | .sin .. => 0x205
  | .cos .. => 0x206
  | .tanh .. => 0x207
  | .xlane .. => 0x210
  | .qswap .. => 0x211
  | .scan .. => 0x212
  | .wred .. => 0x213
  | .segscan .. => 0x214
  | .segred .. => 0x215
  | .lpeerLead .. => 0x216
  | .lpeerRank .. => 0x216
  | .nstat .. => 0x220
  | .napply .. => 0x221
  | .smaxstep .. => 0x222
  | .ld .. => 0x280
  | .ldCluster .. => 0x280
  | .st .. => 0x281
  | .stCluster .. => 0x281
  | .ldc .. => 0x282
  | .lda .. => 0x283
  | .sta .. => 0x284
  | .atom .. => 0x285
  | .atomRed .. => 0x286
  | .ldseq .. => 0x287
  | .prefetch .. => 0x288
  | .cctlEvict .. => 0x289
  | .cctlEvictall .. => 0x289
  | .tcopy .. => 0x300
  | .tstore .. => 0x301
  | .tgather .. => 0x302
  | .tscatter .. => 0x303
  | .txform .. => 0x304
  | .tfill .. => 0x305
  | .tfillTb .. => 0x305
  | .tfillTbinv .. => 0x305
  | .tcoll .. => 0x306
  | .tcancel .. => 0x307
  | .shld .. => 0x310
  | .shsync .. => 0x311
  | .shinfo .. => 0x312
  | .mld .. => 0x380
  | .mma .. => 0x381
  | .mmai .. => 0x382
  | .mmab .. => 0x383
  | .mdrain .. => 0x384
  | .mzero .. => 0x385
  | .mpromoI2P .. => 0x386
  | .mpromoP2I .. => 0x386
  | .mcfg .. => 0x387
  | .mstat .. => 0x388
  | .mrel .. => 0x389
  | .syncw .. => 0x030
  | .imad24 .. => 0x140
  | .fmad16 .. => 0x1c0
  | .loge .. => 0x240
  | .ldv .. => 0x2c0
  | .mma4 .. => 0x3c0
  | _ => 0x3ff

/-- What an instruction carries beside its modifiers. -/
def Instr.args : Instr → Args
  | .nop o => o
  | .bra o => o
  | .brx o => o
  | .call o _ => o
  | .callx o _ => o
  | .ret o => o
  | .exit o => o
  | .join o => o
  | .loop o => o
  | .brk o => o
  | .yield o _ => o
  | .wait o _ => o
  | .elect o => o
  | .poll o _ => o
  | .trap o => o
  | .trapfence o => o
  | .barInit o _ => o
  | .barArrive o => o
  | .barWait o => o
  | .barSync o => o
  | .barMask o => o
  | .qinit o => o
  | .qpush o => o
  | .qpop o => o
  | .qtry o _ => o
  | .phaseRel o _ => o
  | .phaseAcq o _ => o
  | .fence o _ => o
  | .tlsig o _ => o
  | .tlwait o _ => o
  | .s2k o _ _ => o
  | .k2s o _ => o
  | .setmode o _ _ _ _ _ _ => o
  | .wstat o => o
  | .wregR o => o
  | .wregW o => o
  | .wresume o => o
  | .wkill o => o
  | .eret o => o
  | .tlbinvPage o => o
  | .tlbinvAll o => o
  | .emuargs o => o
  | .emuargsW o => o
  | .kadd o => o
  | .kadd64 o => o
  | .ksub o => o
  | .ksub64 o => o
  | .kmul o => o
  | .kmul64 o => o
  | .kmulh o _ => o
  | .kmulh64 o _ => o
  | .kmad o => o
  | .kmad64 o => o
  | .kshl o => o
  | .kshl64 o => o
  | .kshr o => o
  | .kshr64 o => o
  | .ksar o => o
  | .ksar64 o => o
  | .kand o => o
  | .kand64 o => o
  | .kor o => o
  | .kor64 o => o
  | .kxor o => o
  | .kxor64 o => o
  | .kmin o _ => o
  | .kmin64 o _ => o
  | .kmax o _ => o
  | .kmax64 o _ => o
  | .ksel o => o
  | .ksel64 o => o
  | .kmov o => o
  | .kmov64 o => o
  | .kcmp o _ _ => o
  | .kcmp64 o _ _ => o
  | .kclz o => o
  | .kclz64 o => o
  | .kpopc o => o
  | .kpopc64 o => o
  | .kbfe o _ => o
  | .kbfe64 o _ => o
  | .kbfi o => o
  | .kbfi64 o => o
  | .kldGlobal o _ => o
  | .kldBank o _ => o
  | .iadd o _ _ => o
  | .isub o _ _ => o
  | .imul o _ _ => o
  | .imulh o _ => o
  | .imad o _ _ => o
  | .imadw o _ _ => o
  | .ishl o => o
  | .ishr o => o
  | .isar o => o
  | .land o => o
  | .lor o => o
  | .lxor o => o
  | .lnot o => o
  | .imin o _ => o
  | .imax o _ => o
  | .iabs o _ => o
  | .isel o => o
  | .icmp o _ _ => o
  | .ibfe o _ => o
  | .ibfi o => o
  | .ipopc o => o
  | .iclz o => o
  | .ibrev o => o
  | .bpick o => o
  | .idp4 o _ _ _ => o
  | .idp2 o _ _ _ _ => o
  | .imov o => o
  | .fadd o _ => o
  | .fsub o _ => o
  | .fmul o _ => o
  | .ffma o _ => o
  | .fmin o _ _ => o
  | .fmax o _ _ => o
  | .fcmp o _ _ => o
  | .fclass o => o
  | .frnd o _ _ _ => o
  | .hadd2 o _ _ => o
  | .hfma2 o _ _ => o
  | .fdot2 o _ _ => o
  | .cvt o _ _ => o
  | .bfpack o _ _ _ _ => o
  | .bfunpack o _ _ _ => o
  | .rcp o _ => o
  | .rsq o _ => o
  | .sqrt o _ => o
  | .ex2 o _ => o
  | .lg2 o _ => o
  | .sin o _ => o
  | .cos o _ => o
  | .tanh o _ => o
  | .xlane o _ _ _ => o
  | .qswap o _ _ => o
  | .scan o _ => o
  | .wred o _ => o
  | .segscan o _ => o
  | .segred o _ => o
  | .lpeerLead o _ => o
  | .lpeerRank o _ => o
  | .nstat o _ _ _ => o
  | .napply o _ _ => o
  | .smaxstep o _ _ _ _ => o
  | .ld o _ _ => o
  | .ldCluster o _ => o
  | .st o _ _ => o
  | .stCluster o _ => o
  | .ldc o _ => o
  | .lda o _ _ => o
  | .sta o _ _ => o
  | .atom o _ _ _ => o
  | .atomRed o _ _ _ => o
  | .ldseq o _ _ _ => o
  | .prefetch o _ _ => o
  | .cctlEvict o _ => o
  | .cctlEvictall o => o
  | .tcopy o _ => o
  | .tstore o _ => o
  | .tgather o _ _ _ => o
  | .tscatter o _ _ _ => o
  | .txform o _ => o
  | .tfill o _ => o
  | .tfillTb o => o
  | .tfillTbinv o => o
  | .tcoll o _ _ _ => o
  | .tcancel o => o
  | .shld o _ => o
  | .shsync o => o
  | .shinfo o _ => o
  | .mld o _ _ => o
  | .mma o _ => o
  | .mmai o _ => o
  | .mmab o _ => o
  | .mdrain o _ => o
  | .mzero o _ => o
  | .mpromoI2P o _ => o
  | .mpromoP2I o _ => o
  | .mcfg o => o
  | .mstat o => o
  | .mrel o _ => o
  | _ => {}

/-- The signature of an instruction (the forms tables of 08 to 11): what its destination and its sources are. -/
def Instr.sig : Instr → Sig
  | .nop _ => { d := .zero, a := .zero, b := .zero, c := .zero }
  | .bra _ => { d := .zero, a := .disp, b := .zero, c := .zero, gf := true }
  | .brx _ => { d := .zero, a := .vk2, b := .zero, c := .zero, gf := true }
  | .call _ klink => { d := (if klink then .k 2 else .v 2), a := .disp, b := .zero, c := .zero, gf := true }
  | .callx _ klink => { d := (if klink then .k 2 else .v 2), a := .vk2, b := .zero, c := .zero, gf := true }
  | .ret _ => { d := .zero, a := .vk2, b := .zero, c := .zero, gf := true }
  | .exit _ => { d := .zero, a := .zero, b := .zero, c := .zero, gf := true }
  | .join _ => { d := .zero, a := .zero, b := .zero, c := .zero, unguarded := true }
  | .loop _ => { d := .zero, a := .kct, b := .disp, c := .zero, unguarded := true }
  | .brk _ => { d := .zero, a := .zero, b := .zero, c := .zero, gf := true }
  | .yield _ kind => { d := .num 7, a := .waitObj kind, b := .disp, c := .waitVal kind, gf := true }
  | .wait _ kind => { d := .num 7, a := .waitObj kind, b := .zero, c := .waitVal kind, gf := true }
  | .elect _ => { d := .pred, a := .zero, b := .zero, c := .zero, gf := true }
  | .poll _ mode => { d := (match mode with | .none_ => .num 7 | .every => .num 7 | .count => .k 1 | .map => .k 2), a := .pred true, b := .zero, c := .zero, gf := true }
  | .trap _ => { d := .zero, a := .ki, b := .zero, c := .zero, gf := true }
  | .trapfence _ => { d := .zero, a := .ki, b := .zero, c := .zero, gf := true }
  | .barInit _ _ => { d := .zero, a := .barrier, b := .ki, c := .k2it, gf := true }
  | .barArrive _ => { d := .k 1, a := .barrier, b := .zero, c := .zero, gf := true }
  | .barWait _ => { d := .zero, a := .barrier, b := .kreg 1, c := .zero, gf := true }
  | .barSync _ => { d := .zero, a := .barrier, b := .zero, c := .zero, gf := true }
  | .barMask _ => { d := .zero, a := .barrier, b := .ki, c := .k2it, gf := true }
  | .qinit _ => { d := .zero, a := .flume, b := .ki, c := .zero, gf := true }
  | .qpush _ => { d := .zero, a := .flume, b := .kreg 2, c := .zero, gf := true }
  | .qpop _ => { d := .k 2, a := .flume, b := .zero, c := .zero, gf := true }
  | .qtry _ _ => { d := .k 2, a := .flume, b := .zero, c := .zero, gf := true }
  | .phaseRel _ _ => { d := .zero, a := .zero, b := .zero, c := .zero, gf := true }
  | .phaseAcq _ _ => { d := .zero, a := .zero, b := .zero, c := .zero, gf := true }
  | .fence _ _ => { d := .zero, a := .zero, b := .zero, c := .zero, gf := true }
  | .tlsig _ _ => { d := .k 2, a := .zero, b := .zero, c := .zero, gf := true }
  | .tlwait _ _ => { d := .zero, a := .kct, b := .k2it, c := .zero, gf := true }
  | .s2k _ sr vdst => { d := (if vdst then .v (if sr.is64 then 2 else 1) else .k (if sr.is64 then 2 else 1)), a := .sel sr.toBits, b := .zero, c := .zero, gf := true }
  | .k2s _ sr => { d := .sreg sr, a := .ki, b := .zero, c := .zero, gf := true }
  | .setmode _ _ _ _ _ _ _ => { d := .zero, a := .zero, b := .zero, c := .zero, gf := true }
  | .wstat _ => { d := .k 4, a := .ki, b := .ki, c := .zero }
  | .wregR _ => { d := .k 1, a := .ki, b := .kreg 1, c := .zero }
  | .wregW _ => { d := .zero, a := .ki, b := .kreg 1, c := .ki }
  | .wresume _ => { d := .zero, a := .ki, b := .ki, c := .zero }
  | .wkill _ => { d := .zero, a := .ki, b := .zero, c := .zero }
  | .eret _ => { d := .zero, a := .zero, b := .zero, c := .zero }
  | .tlbinvPage _ => { d := .zero, a := .kreg 2, b := .zero, c := .zero }
  | .tlbinvAll _ => { d := .zero, a := .zero, b := .zero, c := .zero }
  | .emuargs _ => { d := .v 1, a := .immOnly, b := .zero, c := .zero }
  | .emuargsW _ => { d := .zero, a := .immOnly, b := .vreg 1 false, c := .zero }
  | .kadd _ => { d := .k 1, a := .u true true, b := .u true true, c := .zero }
  | .kadd64 _ => { d := .k 2, a := .u64 true true, b := .u64 true true, c := .zero }
  | .ksub _ => { d := .k 1, a := .u true true, b := .u true true, c := .zero }
  | .ksub64 _ => { d := .k 2, a := .u64 true true, b := .u64 true true, c := .zero }
  | .kmul _ => { d := .k 1, a := .u true true, b := .u true true, c := .zero }
  | .kmul64 _ => { d := .k 2, a := .u64 true true, b := .u64 true true, c := .zero }
  | .kmulh _ _ => { d := .k 1, a := .u true true, b := .u true true, c := .zero }
  | .kmulh64 _ _ => { d := .k 2, a := .u64 true true, b := .u64 true true, c := .zero }
  | .kmad _ => { d := .k 1, a := .u true true, b := .u true true, c := .u true true }
  | .kmad64 _ => { d := .k 2, a := .u64 true true, b := .u64 true true, c := .u64 true true }
  | .kshl _ => { d := .k 1, a := .u true true, b := .u true true, c := .zero }
  | .kshl64 _ => { d := .k 2, a := .u64 true true, b := .u true true, c := .zero }
  | .kshr _ => { d := .k 1, a := .u true true, b := .u true true, c := .zero }
  | .kshr64 _ => { d := .k 2, a := .u64 true true, b := .u true true, c := .zero }
  | .ksar _ => { d := .k 1, a := .u true true, b := .u true true, c := .zero }
  | .ksar64 _ => { d := .k 2, a := .u64 true true, b := .u true true, c := .zero }
  | .kand _ => { d := .k 1, a := .u true false, b := .u true false, c := .zero }
  | .kand64 _ => { d := .k 2, a := .u64 true false, b := .u64 true false, c := .zero }
  | .kor _ => { d := .k 1, a := .u true false, b := .u true false, c := .zero }
  | .kor64 _ => { d := .k 2, a := .u64 true false, b := .u64 true false, c := .zero }
  | .kxor _ => { d := .k 1, a := .u true false, b := .u true false, c := .zero }
  | .kxor64 _ => { d := .k 2, a := .u64 true false, b := .u64 true false, c := .zero }
  | .kmin _ _ => { d := .k 1, a := .u true true, b := .u true true, c := .zero }
  | .kmin64 _ _ => { d := .k 2, a := .u64 true true, b := .u64 true true, c := .zero }
  | .kmax _ _ => { d := .k 1, a := .u true true, b := .u true true, c := .zero }
  | .kmax64 _ _ => { d := .k 2, a := .u64 true true, b := .u64 true true, c := .zero }
  | .ksel _ => { d := .k 1, a := .u true true, b := .u true true, c := .predK }
  | .ksel64 _ => { d := .k 2, a := .u64 true true, b := .u64 true true, c := .predK }
  | .kmov _ => { d := .k 1, a := .u true true, b := .zero, c := .zero }
  | .kmov64 _ => { d := .k 2, a := .u64 true true, b := .zero, c := .zero }
  | .kcmp _ _ _ => { d := .num 7, a := .u true true, b := .u true true, c := .zero }
  | .kcmp64 _ _ _ => { d := .num 7, a := .u64 true true, b := .u64 true true, c := .zero }
  | .kclz _ => { d := .k 1, a := .u true false, b := .zero, c := .zero }
  | .kclz64 _ => { d := .k 1, a := .u64 true false, b := .zero, c := .zero }
  | .kpopc _ => { d := .k 1, a := .u true false, b := .zero, c := .zero }
  | .kpopc64 _ => { d := .k 1, a := .u64 true false, b := .zero, c := .zero }
  | .kbfe _ _ => { d := .k 1, a := .u true false, b := .u true false, c := .zero }
  | .kbfe64 _ _ => { d := .k 2, a := .u64 true false, b := .u true false, c := .zero }
  | .kbfi _ => { d := .k 1, a := .u true false, b := .u true false, c := .u true false }
  | .kbfi64 _ => { d := .k 2, a := .u64 true false, b := .u true false, c := .u64 true false }
  | .kldGlobal _ w64 => { d := .k (if w64 then 2 else 1), a := .of { k := 2, neg := true, abs := true }, b := .off, c := .zero }
  | .kldBank _ w64 => { d := .k (if w64 then 2 else 1), a := .of { k := 1, neg := true, abs := true }, b := .off, c := .bankOnly }
  | .iadd _ _ _ => { d := .v 1, a := .s true true, b := .s true true, c := .zero, gf := true }
  | .isub _ _ _ => { d := .v 1, a := .s true true, b := .s true true, c := .zero, gf := true }
  | .imul _ _ _ => { d := .v 1, a := .s true true, b := .s true true, c := .zero, gf := true }
  | .imulh _ _ => { d := .v 1, a := .s true true, b := .s true true, c := .zero, gf := true }
  | .imad _ _ _ => { d := .v 1, a := .s true true, b := .s true true, c := .s true true, gf := true }
  | .imadw _ _ _ => { d := .v 2, a := .s true true, b := .s true true, c := .s64 true true, gf := true }
  | .ishl _ => { d := .v 1, a := .s true true, b := .s true true, c := .zero, gf := true }
  | .ishr _ => { d := .v 1, a := .s true true, b := .s true true, c := .zero, gf := true }
  | .isar _ => { d := .v 1, a := .s true true, b := .s true true, c := .zero, gf := true }
  | .land _ => { d := .v 1, a := .s true false, b := .s true false, c := .zero, gf := true }
  | .lor _ => { d := .v 1, a := .s true false, b := .s true false, c := .zero, gf := true }
  | .lxor _ => { d := .v 1, a := .s true false, b := .s true false, c := .zero, gf := true }
  | .lnot _ => { d := .v 1, a := .s true false, b := .zero, c := .zero, gf := true }
  | .imin _ _ => { d := .v 1, a := .s true true, b := .s true true, c := .zero, gf := true }
  | .imax _ _ => { d := .v 1, a := .s true true, b := .s true true, c := .zero, gf := true }
  | .iabs _ _ => { d := .v 1, a := .s true true, b := .zero, c := .zero, gf := true }
  | .isel _ => { d := .v 1, a := .s true true, b := .s true true, c := .pred false, gf := true }
  | .icmp _ _ _ => { d := .pred, a := .s true true, b := .s true true, c := .zero, gf := true }
  | .ibfe _ _ => { d := .v 1, a := .s true false, b := .s true false, c := .zero, gf := true }
  | .ibfi _ => { d := .v 1, a := .s true false, b := .s true false, c := .s true false, gf := true }
  | .ipopc _ => { d := .v 1, a := .s true false, b := .zero, c := .zero, gf := true }
  | .iclz _ => { d := .v 1, a := .s true false, b := .zero, c := .zero, gf := true }
  | .ibrev _ => { d := .v 1, a := .s true false, b := .zero, c := .zero, gf := true }
  | .bpick _ => { d := .v 1, a := .s true false, b := .s true false, c := .s true false, gf := true }
  | .idp4 _ _ _ _ => { d := .v 1, a := .s false false, b := .s false false, c := .s false false, gf := true }
  | .idp2 _ _ _ _ _ => { d := .v 1, a := .s false false, b := .s false false, c := .s false false, gf := true }
  | .imov _ => { d := .v 1, a := .s true false, b := .zero, c := .zero, gf := true }
  | .fadd _ _ => { d := .v 1, a := .s true true, b := .s true true, c := .zero, gf := true }
  | .fsub _ _ => { d := .v 1, a := .s true true, b := .s true true, c := .zero, gf := true }
  | .fmul _ _ => { d := .v 1, a := .s true true, b := .s true true, c := .zero, gf := true }
  | .ffma _ _ => { d := .v 1, a := .s true true, b := .s true true, c := .s true true, gf := true }
  | .fmin _ _ _ => { d := .v 1, a := .s true true, b := .s true true, c := .zero, gf := true }
  | .fmax _ _ _ => { d := .v 1, a := .s true true, b := .s true true, c := .zero, gf := true }
  | .fcmp _ _ _ => { d := .pred, a := .s true true, b := .s true true, c := .zero, gf := true }
  | .fclass _ => { d := .v 1, a := .s true true, b := .zero, c := .zero, gf := true }
  | .frnd _ _ _ _ => { d := .v 1, a := .s true true, b := .zero, c := .zero, gf := true }
  | .hadd2 _ _ _ => { d := .v 1, a := .sn true true, b := .sn true true, c := .zero, gf := true }
  | .hfma2 _ _ _ => { d := .v 1, a := .sn true true, b := .sn true true, c := .sn true true, gf := true }
  | .fdot2 _ _ _ => { d := .v 1, a := .sn true true, b := .sn true true, c := .sn false false, gf := true }
  | .cvt _ _ sel => { d := .v (if sel.df.width == 64 then 2 else 1), a := .cvtSrc sel.sf, b := .sel sel.toBits, c := .zero, gf := true }
  | .bfpack _ _ _ _ _ => { d := .v 2, a := .s true true, b := .zero, c := .zero, gf := true }
  | .bfunpack _ _ _ _ => { d := .v 1, a := .s true true, b := .s true true, c := .zero, gf := true }
  | .rcp _ _ => { d := .v 1, a := .s true true, b := .zero, c := .zero, gf := true }
  | .rsq _ _ => { d := .v 1, a := .s true true, b := .zero, c := .zero, gf := true }
  | .sqrt _ _ => { d := .v 1, a := .s true true, b := .zero, c := .zero, gf := true }
  | .ex2 _ _ => { d := .v 1, a := .s true true, b := .zero, c := .zero, gf := true }
  | .lg2 _ _ => { d := .v 1, a := .s true true, b := .zero, c := .zero, gf := true }
  | .sin _ _ => { d := .v 1, a := .s true true, b := .zero, c := .zero, gf := true }
  | .cos _ _ => { d := .v 1, a := .s true true, b := .zero, c := .zero, gf := true }
  | .tanh _ _ => { d := .v 1, a := .s true true, b := .zero, c := .zero, gf := true }
  | .xlane _ _ _ _ => { d := .v 1, a := .vreg 1 false, b := .xlaneB, c := .zero, gf := true }
  | .qswap _ _ _ => { d := .v 1, a := .vreg 1 false, b := .zero, c := .zero, gf := true }
  | .scan _ _ => { d := .v 1, a := .vreg 1 false, b := .zero, c := .zero, gf := true }
  | .wred _ _ => { d := .v 1, a := .vreg 1 false, b := .zero, c := .zero, gf := true }
  | .segscan _ _ => { d := .v 1, a := .vreg 1 false, b := .shape, c := .u false false, gf := true }
  | .segred _ _ => { d := .v 1, a := .vreg 1 false, b := .shape, c := .u false false, gf := true }
  | .lpeerLead _ w64 => { d := .v 2, a := .vreg (if w64 then 2 else 1) false, b := .zero, c := .zero, gf := true }
  | .lpeerRank _ w64 => { d := .v 1, a := .vreg (if w64 then 2 else 1) false, b := .zero, c := .zero, gf := true }
  | .nstat _ _ _ _ => { d := .v 4, a := .vreg 1 true, b := .shape, c := .u true true, gf := true }
  | .napply _ _ _ => { d := .v 1, a := .s true true, b := .vreg 2 true, c := .u true true, gf := true }
  | .smaxstep _ _ _ _ _ => { d := .v 4, a := .s true true, b := .vreg 1 true, c := .u true true, gf := true }
  | .ld _ size space => { d := .v size.regs, a := .base (space == .global), b := .offOpt, c := .zero, gf := true }
  | .ldCluster _ size => { d := .v size.regs, a := .vk1, b := .rank, c := .zero, gf := true }
  | .st _ size space => { d := .zero, a := .base (space == .global), b := .offOpt, c := .data size.regs, gf := true }
  | .stCluster _ size => { d := .zero, a := .vk1, b := .rank, c := .data size.regs, gf := true }
  | .ldc _ size => { d := .v size.regs, a := .vk1, b := .offOpt, c := .bankOnly, gf := true }
  | .lda _ view _ => { d := .v (if view == .b64 then 2 else 1), a := .vk1, b := .offOpt, c := .zero, gf := true }
  | .sta _ view _ => { d := .zero, a := .vk1, b := .offOpt, c := .data (if view == .b64 then 2 else 1), gf := true }
  | .atom _ _ space sel => { d := .v (if sel.w64 then 2 else 1), a := .base (space == .global), b := .sel sel.toBits, c := .atomData sel, gf := true }
  | .atomRed _ _ space sel => { d := .zero, a := .base (space == .global), b := .sel sel.toBits, c := .atomData sel, gf := true }
  | .ldseq _ size _ space => { d := .v size.regs, a := .vreg (if space == .global then 2 else 1) false, b := .kcit, c := .shape, gf := true }
  | .prefetch _ _ space => { d := .zero, a := .base (space == .global), b := .offOpt, c := .zero, gf := true }
  | .cctlEvict _ space => { d := .zero, a := .base (space == .global), b := .offOpt, c := .zero, gf := true }
  | .cctlEvictall _ => { d := .zero, a := .zero, b := .zero, c := .zero, gf := true }
  | .tcopy _ m => { d := (if m.n then .k 2 else .zero), a := .layout, b := .kreg 8, c := .crc m.crc }
  | .tstore _ m => { d := (if m.n then .k 2 else .zero), a := .layout, b := .kreg 8, c := .crc m.crc }
  | .tgather _ gm _ n => { d := (if n then .k 2 else .zero), a := .layout, b := .kreg 8, c := .vreg (if gm == .addr then 2 else 1) false }
  | .tscatter _ gm _ n => { d := (if n then .k 2 else .zero), a := .layout, b := .kreg 8, c := .vreg (if gm == .addr then 2 else 1) false }
  | .txform _ n => { d := (if n then .k 2 else .zero), a := .ki, b := .kreg 8, c := .kreg 8 }
  | .tfill _ n => { d := (if n then .k 2 else .zero), a := .zero, b := .kreg 8, c := .kit }
  | .tfillTb _ => { d := .zero, a := .kreg 1, b := .kit, c := .zero }
  | .tfillTbinv _ => { d := .zero, a := .kreg 1, b := .zero, c := .zero }
  | .tcoll _ _ _ n => { d := (if n then .k 2 else .zero), a := .zero, b := .kreg 8, c := .zero }
  | .tcancel _ => { d := .zero, a := .kreg 2, b := .zero, c := .zero }
  | .shld _ space => { d := .num 7, a := .kreg (if space == .global then 2 else 1), b := .offOpt, c := .zero }
  | .shsync _ => { d := .num 7, a := .zero, b := .zero, c := .zero }
  | .shinfo _ bnd => { d := .k 1, a := .shape, b := .shItem bnd, c := .zero }
  | .mld _ _ map => { d := .num 7, a := .kreg 2, b := .kcit, c := .kOr0 (map == .bm), cs := false }
  | .mma _ _ => { d := .num 63, a := .mreg, b := .kreg 2, c := .kreg 4 }
  | .mmai _ _ => { d := .num 63, a := .mreg, b := .kreg 2, c := .kreg 4 }
  | .mmab _ _ => { d := .num 63, a := .mreg, b := .kreg 2, c := .kreg 4 }
  | .mdrain _ _ => { d := .zero, a := .zero, b := .zero, c := .zero, cs := false }
  | .mzero _ _ => { d := .num 63, a := .kit, b := .zero, c := .zero, cs := false }
  | .mpromoI2P _ _ => { d := .num 63, a := .kit, b := .zero, c := .zero, cs := false }
  | .mpromoP2I _ _ => { d := .num 63, a := .kit, b := .zero, c := .zero, cs := false }
  | .mcfg _ => { d := .zero, a := .kcit, b := .zero, c := .zero, cs := false }
  | .mstat _ => { d := .k 1, a := .ki, b := .zero, c := .zero, cs := false }
  | .mrel _ tb => { d := .zero, a := .mrel tb, b := .zero, c := .zero, cs := false }
  | _ => {}

/-- The form that an opcode and its modifier bits name (R160 to R165), around operands `o`. `sa` and `sb` are the values
of the selector immediates in A and B, `d` the destination field. A reserved modifier value gives some form of the
opcode, whose own bits then differ from `m`, and the decoder refuses it (R152). -/
def form (op m sa sb d : Nat) (o : Args) : Option Instr :=
  match op with
  | 0x000 => some (.nop o)
  | 0x001 => some (.bra o)
  | 0x002 => some (.brx o)
  | 0x003 => some (.call o (bitAt m 7))
  | 0x004 => some (.callx o (bitAt m 7))
  | 0x005 => some (.ret o)
  | 0x006 => some (.exit o)
  | 0x007 => some (.join o)
  | 0x008 => some (.loop o)
  | 0x009 => some (.brk o)
  | 0x00a => some (.yield o (.ofBits ((m / 128) % 4)))
  | 0x00b => some (.wait o (.ofBits ((m / 128) % 4)))
  | 0x00c => some (.elect o)
  | 0x00d => some (.poll o (.ofBits ((m / 128) % 4)))
  | 0x00e => some (.trap o)
  | 0x00f => some (.trapfence o)
  | 0x010 => some (.barInit o (.ofBits ((m / 8) % 8)))
  | 0x011 => some (.barArrive o)
  | 0x012 => some (.barWait o)
  | 0x013 => some (.barSync o)
  | 0x014 => some (.barMask o)
  | 0x018 => some (.qinit o)
  | 0x019 => some (.qpush o)
  | 0x01a => some (.qpop o)
  | 0x01b => some (.qtry o (fin8 (m / 128)))
  | 0x020 => some (.phaseRel o (.ofBits ((m / 8) % 8)))
  | 0x021 => some (.phaseAcq o (.ofBits ((m / 8) % 8)))
  | 0x022 => some (.fence o (.ofBits ((m / 8) % 8)))
  | 0x023 => some (.tlsig o (.ofBits ((m / 8) % 8)))
  | 0x024 => some (.tlwait o (.ofBits ((m / 8) % 8)))
  | 0x028 => some (.s2k o (.ofBits sa) (bitAt m 7))
  | 0x029 => some (.k2s o (.ofBits d))
  | 0x02a => some (.setmode o (bitAt m 3) (.ofBits (m % 8)) (bitAt m 5) (bitAt m 4) (bitAt m 8) (bitAt m 7))
  | 0x070 => some (.wstat o)
  | 0x071 => some (if bitAt m 7 then .wregW o else .wregR o)
  | 0x072 => some (.wresume o)
  | 0x073 => some (.wkill o)
  | 0x074 => some (.eret o)
  | 0x075 => some (if bitAt m 7 then .tlbinvAll o else .tlbinvPage o)
  | 0x076 => some (if bitAt m 7 then .emuargsW o else .emuargs o)
  | 0x080 => some (.kadd o)
  | 0x0a0 => some (.kadd64 o)
  | 0x081 => some (.ksub o)
  | 0x0a1 => some (.ksub64 o)
  | 0x082 => some (.kmul o)
  | 0x0a2 => some (.kmul64 o)
  | 0x083 => some (.kmulh o (bitAt m 6))
  | 0x0a3 => some (.kmulh64 o (bitAt m 6))
  | 0x084 => some (.kmad o)
  | 0x0a4 => some (.kmad64 o)
  | 0x085 => some (.kshl o)
  | 0x0a5 => some (.kshl64 o)
  | 0x086 => some (.kshr o)
  | 0x0a6 => some (.kshr64 o)
  | 0x087 => some (.ksar o)
  | 0x0a7 => some (.ksar64 o)
  | 0x088 => some (.kand o)
  | 0x0a8 => some (.kand64 o)
  | 0x089 => some (.kor o)
  | 0x0a9 => some (.kor64 o)
  | 0x08a => some (.kxor o)
  | 0x0aa => some (.kxor64 o)
  | 0x08b => some (.kmin o (bitAt m 6))
  | 0x0ab => some (.kmin64 o (bitAt m 6))
  | 0x08c => some (.kmax o (bitAt m 6))
  | 0x0ac => some (.kmax64 o (bitAt m 6))
  | 0x08d => some (.ksel o)
  | 0x0ad => some (.ksel64 o)
  | 0x08e => some (.kmov o)
  | 0x0ae => some (.kmov64 o)
  | 0x08f => some (.kcmp o (bitAt m 6) (.ofBits ((m / 128) % 8)))
  | 0x0af => some (.kcmp64 o (bitAt m 6) (.ofBits ((m / 128) % 8)))
  | 0x090 => some (.kclz o)
  | 0x0b0 => some (.kclz64 o)
  | 0x091 => some (.kpopc o)
  | 0x0b1 => some (.kpopc64 o)
  | 0x092 => some (.kbfe o (bitAt m 6))
  | 0x0b2 => some (.kbfe64 o (bitAt m 6))
  | 0x093 => some (.kbfi o)
  | 0x0b3 => some (.kbfi64 o)
  | 0x0c0 => some (if m % 8 = 6 then .kldBank o (bitAt m 7) else .kldGlobal o (bitAt m 7))
  | 0x100 => some (.iadd o (bitAt m 7) (bitAt m 4))
  | 0x101 => some (.isub o (bitAt m 7) (bitAt m 4))
  | 0x102 => some (.imul o (bitAt m 7) (bitAt m 4))
  | 0x103 => some (.imulh o (bitAt m 7))
  | 0x104 => some (.imad o (bitAt m 7) (bitAt m 4))
  | 0x105 => some (.imadw o (bitAt m 7) (bitAt m 4))
  | 0x106 => some (.ishl o)
  | 0x107 => some (.ishr o)
  | 0x108 => some (.isar o)
  | 0x109 => some (.land o)
  | 0x10a => some (.lor o)
  | 0x10b => some (.lxor o)
  | 0x10c => some (.lnot o)
  | 0x10d => some (.imin o (bitAt m 7))
  | 0x10e => some (.imax o (bitAt m 7))
  | 0x10f => some (.iabs o (bitAt m 4))
  | 0x110 => some (.isel o)
  | 0x111 => some (.icmp o (bitAt m 7) (.ofBits (m % 8)))
  | 0x112 => some (.ibfe o (bitAt m 7))
  | 0x113 => some (.ibfi o)
  | 0x114 => some (.ipopc o)
  | 0x115 => some (.iclz o)
  | 0x116 => some (.ibrev o)
  | 0x117 => some (.bpick o)
  | 0x118 => some (.idp4 o (bitAt m 8) (bitAt m 7) (bitAt m 4))
  | 0x119 => some (.idp2 o (bitAt m 9) (bitAt m 8) (bitAt m 7) (bitAt m 4))
  | 0x11a => some (.imov o)
  | 0x180 => some (.fadd o (.ofBits m))
  | 0x181 => some (.fsub o (.ofBits m))
  | 0x182 => some (.fmul o (.ofBits m))
  | 0x183 => some (.ffma o (.ofBits m))
  | 0x184 => some (.fmin o (bitAt m 5) (bitAt m 3))
  | 0x185 => some (.fmax o (bitAt m 5) (bitAt m 3))
  | 0x186 => some (.fcmp o (.ofBits ((m / 128) % 8)) (bitAt m 3))
  | 0x187 => some (.fclass o)
  | 0x188 => some (.frnd o (bitAt m 5) (bitAt m 3) (.ofBits (m % 8)))
  | 0x189 => some (.hadd2 o (bitAt m 7) (.ofBits m))
  | 0x18a => some (.hfma2 o (bitAt m 7) (.ofBits m))
  | 0x18b => some (.fdot2 o (bitAt m 7) (.ofBits m))
  | 0x18c => some (.cvt o (.ofBits m) (.ofBits sb))
  | 0x18d => some (.bfpack o (.ofBits ((m / 128) % 8)) (bitAt m 4) (bitAt m 3) (.ofBits (m % 8)))
  | 0x18e => some (.bfunpack o (.ofBits ((m / 128) % 8)) (bitAt m 4) (.ofBits (m % 8)))
  | 0x200 => some (.rcp o (.ofBits m))
  | 0x201 => some (.rsq o (.ofBits m))
  | 0x202 => some (.sqrt o (.ofBits m))
  | 0x203 => some (.ex2 o (.ofBits m))
  | 0x204 => some (.lg2 o (.ofBits m))
  | 0x205 => some (.sin o (.ofBits m))
  | 0x206 => some (.cos o (.ofBits m))
  | 0x207 => some (.tanh o (.ofBits m))
  | 0x210 => some (.xlane o (fin8 (m / 128)) (fin8 (m / 8)) (.ofBits (m % 4)))
  | 0x211 => some (.qswap o (fin8 (m / 128)) (.ofBits (m % 4)))
  | 0x212 => some (.scan o (.ofBits m))
  | 0x213 => some (.wred o (.ofBits m))
  | 0x214 => some (.segscan o (.ofBits m))
  | 0x215 => some (.segred o (.ofBits m))
  | 0x216 => some (if bitAt m 7 then .lpeerRank o (bitAt m 8) else .lpeerLead o (bitAt m 8))
  | 0x220 => some (.nstat o (bitAt m 5) (bitAt m 3) (.ofBits (m % 8)))
  | 0x221 => some (.napply o (fin8 (m / 128)) (.ofBits m))
  | 0x222 => some (.smaxstep o (fin8 (m / 128)) (bitAt m 5) (bitAt m 3) (.ofBits (m % 8)))
  | 0x280 => some (if m % 8 = 3 then .ldCluster o (.ofBits ((m / 128) % 8)) else .ld o (.ofBits ((m / 128) % 8)) (.ofBits (m % 8)))
  | 0x281 => some (if m % 8 = 3 then .stCluster o (.ofBits ((m / 128) % 8)) else .st o (.ofBits ((m / 128) % 8)) (.ofBits (m % 8)))
  | 0x282 => some (.ldc o (.ofBits ((m / 128) % 8)))
  | 0x283 => some (.lda o (.ofBits ((m / 128) % 8)) (bitAt m 3))
  | 0x284 => some (.sta o (.ofBits ((m / 128) % 8)) (bitAt m 3))
  | 0x285 => some (.atom o (.ofBits ((m / 8) % 8)) (.ofBits (m % 8)) (.ofBits sb))
  | 0x286 => some (.atomRed o (.ofBits ((m / 8) % 8)) (.ofBits (m % 8)) (.ofBits sb))
  | 0x287 => some (.ldseq o (.ofBits ((m / 256) % 4)) (bitAt m 7) (.ofBits (m % 8)))
  | 0x288 => some (.prefetch o (.ofBits ((m / 128) % 8)) (.ofBits (m % 8)))
  | 0x289 => some (if (m / 128) % 8 = 1 then .cctlEvictall o else .cctlEvict o (.ofBits (m % 8)))
  | 0x300 => some (.tcopy o (.ofBits (m / 64)))
  | 0x301 => some (.tstore o (.ofBits (m / 64)))
  | 0x302 => some (.tgather o (.ofBits ((m / 8) % 8)) (bitAt m 9) (bitAt m 6))
  | 0x303 => some (.tscatter o (.ofBits ((m / 8) % 8)) (bitAt m 9) (bitAt m 6))
  | 0x304 => some (.txform o (bitAt m 6))
  | 0x305 => some (if (m / 8) % 8 = 1 then .tfillTb o else if (m / 8) % 8 = 2 then .tfillTbinv o else .tfill o (bitAt m 6))
  | 0x306 => some (.tcoll o (.ofBits ((m / 8) % 8)) (bitAt m 8) (bitAt m 6))
  | 0x307 => some (.tcancel o)
  | 0x310 => some (.shld o (.ofBits (m % 8)))
  | 0x311 => some (.shsync o)
  | 0x312 => some (.shinfo o (.ofBits ((m / 8) % 8)))
  | 0x380 => some (.mld o (fin8 (m / 128)) (.ofBits (m % 4)))
  | 0x381 => some (.mma o (.ofBits m))
  | 0x382 => some (.mmai o (.ofBits m))
  | 0x383 => some (.mmab o (.ofBits m))
  | 0x384 => some (.mdrain o (bitAt m 0))
  | 0x385 => some (.mzero o (bitAt m 6))
  | 0x386 => some (if m % 4 = 1 then .mpromoP2I o (bitAt m 6) else .mpromoI2P o (bitAt m 6))
  | 0x387 => some (.mcfg o)
  | 0x388 => some (.mstat o)
  | 0x389 => some (.mrel o (bitAt m 0))
  | _ => none

/-- The six retired opcodes (R166), whose slot goes to emulation as it is (R326). -/
def retiredForm (op : Nat) (r : RawSlot) : Option Instr :=
  match op with
  | 0x030 => some (.syncw r)
  | 0x140 => some (.imad24 r)
  | 0x1c0 => some (.fmad16 r)
  | 0x240 => some (.loge r)
  | 0x2c0 => some (.ldv r)
  | 0x3c0 => some (.mma4 r)
  | _ => none

/-- The signature that check 4 of R23 uses for a retired opcode: the forms of R325. -/
def retiredSig : Nat → Sig
  | 0x140 => { d := .v 1, a := .s true true, b := .s true true, c := .s true true, gf := true }
  | 0x1c0 => { d := .v 1, a := .sn true true, b := .sn true true, c := .sn true true, gf := true }
  | 0x240 => { d := .v 1, a := .s true true, b := .zero, c := .zero, gf := true }
  | 0x2c0 => { d := .v 4, a := .vreg 2 false, b := .offOpt, c := .zero, gf := true }
  | 0x3c0 => { d := .num 63, a := .mreg, b := .kreg 2, c := .kreg 4 }
  | _ => { gf := true }

/-- The level of first definition of an opcode (R308). -/
def firstLevel (op : Nat) : Nat :=
  if op = 0x214 ∨ op = 0x215 ∨ op = 0x220 ∨ op = 0x221 ∨ op = 0x222 ∨ op = 0x287 ∨ op = 0x302 ∨ op = 0x303 ∨ op = 0x310 ∨ op = 0x311 ∨ op = 0x312 ∨ op = 0x3c0 then 2
  else if op = 0x105 ∨ op = 0x18b ∨ op = 0x18d ∨ op = 0x18e ∨ op = 0x304 ∨ op = 0x306 ∨ op = 0x307 ∨ op = 0x383 ∨ op = 0x386 then 3
  else 1

/-! ## Acceptance of decoded operands -/

/-- Is the field's kind one whose zero field means no operand? -/
def SrcKind.zeroOk : SrcKind → Bool
  | .zero => true
  | .sel _ => false
  | .of f => f.opt

/-- Does a field of this kind accept the operand (R146 to R151)? -/
def SrcKind.accepts : SrcKind → Src → Bool
  | .zero, s => s == .none
  | .sel _, s => s == .none
  | .of f, s =>
    match s with
    | .none => f.opt
    | .v n neg abs => f.v != 0 && n < 256 && n % f.v == 0 && (f.neg || !neg) && (f.abs || !abs)
    | .k n neg abs => f.k != 0 && n < 64 && n % f.k == 0 && (f.neg || !neg) && (f.abs || !abs)
    | .m n => f.m && n < 8
    | .obj n neg => f.lo ≤ n && n ≤ f.hi && (f.oneg || !neg)
    | .imm _ => f.imm
    | .bank _ off =>
      match f.bank with
      | 0 => false
      | 2 => off.toNat != 0x3fff
      | 16 => off.toNat % 16 == 0
      | _ => true
    | .inlit x => f.inw && x.toNat / 2 ^ 30 != 3
    | .trail _ _ => f.trail

/-- Is the operand an immediate? -/
def Src.isImm : Src → Bool
  | .imm _ => true
  | _ => false
/-- Is the operand an in-word literal? -/
def Src.isInw : Src → Bool
  | .inlit _ => true
  | _ => false
/-- Is the operand an immediate or a literal? -/
def Src.isConst : Src → Bool
  | .imm _ => true
  | .inlit _ => true
  | .trail _ _ => true
  | _ => false
/-- May two operands not stand in one instruction (R148, R150)? `selY`: the second field is a selector immediate. -/
def Src.conflict (x y : Src) : Bool :=
  (x.isImm && y.isImm) || (x.isInw && y.isConst) || (x.isConst && y.isInw)

/-- Does the destination number fit (R145)? -/
def DstKind.accepts : DstKind → Nat → Bool
  | .zero, d => d == 0
  | .v al, d => d < 256 && d % al == 0
  | .k al, d => d < 64 && d % al == 0
  | .pred, d => d < 8
  | .num last, d => d ≤ last
  | .sreg r, d => d == 0 && r.writable

/-! ## The issuing warp, as the decoder sees it -/

/-- Roles of warps (R22), coded as the special register ROLE (R158). -/
inductive Role where
  | copy | maths | epi
  deriving DecidableEq, Repr
/-- The code of a role (R158). -/
def Role.toBits : Role → Nat
  | .copy => 0
  | .maths => 1
  | .epi => 2

/-- What decoding depends on beside the slot: the issuing warp's role, width, register budget and handler status, the
kernel's level (R309, R310), and what the workgroup declares. -/
structure DecodeCtx where
  role : Role
  width : Nat
  regs : Nat
  inHandler : Bool
  level : Nat
  transl : Bool
  barriers : Nat
  flumes : List (Option (Role × Role))
  shapes : List Bool
  deriving DecidableEq, Repr

/-- The v registers that the role may name (R22, R23). -/
def DecodeCtx.vBudget (cx : DecodeCtx) : Nat :=
  match cx.role with
  | .copy => 32
  | .maths => 0
  | .epi => cx.regs

/-- The shape register that the instruction names by its modifiers or destination, or by its source (R125). -/
def Instr.shapeReg : Instr → Option Nat
  | .napply _ sh _ => some sh.val
  | .smaxstep _ sh _ _ _ => some sh.val
  | .shld o _ => some o.d
  | .shsync o => some o.d
  | .segscan o _ => objShape o.b
  | .segred o _ => objShape o.b
  | .nstat o _ _ _ => objShape o.b
  | .ldseq o _ _ _ => objShape o.c
  | .shinfo o _ => objShape o.a
  | _ => none
where
  objShape : Src → Option Nat
    | .obj n _ => some (n - 16)
    | _ => none

/-- The field that R373 reports for an undeclared shape register: 0 DST, 2 B, 3 C, 4 MOD, 1 A. -/
def Instr.shapeField : Instr → Nat
  | .napply .. => 4
  | .smaxstep .. => 4
  | .shld .. => 0
  | .shsync .. => 0
  | .ldseq .. => 3
  | .shinfo .. => 1
  | _ => 2

/-- A check of the instruction's own entry that its flume is declared, and that the warp's role may use it so
(R187, R192): field 1, or 7 for a check on the issuing warp (R373). -/
def DecodeCtx.flumeCheck (cx : DecodeCtx) (s : Src) (prod cons : Bool) : Option Nat :=
  match s with
  | .obj n _ =>
    match cx.flumes.getD (n - 0x80) none with
    | none => some 1
    | some (p, c) => if (prod && p == cx.role) || (cons && c == cx.role) then none else some 7
  | _ => none

/-- A check that the flume is declared (R192). -/
def DecodeCtx.flumeDecl (cx : DecodeCtx) : Src → Option Nat
  | .obj n _ => if (cx.flumes.getD (n - 0x80) none).isSome then none else some 1
  | _ => none

/-- The value of an immediate operand as an integer, if it is one. -/
def Src.immVal : Src → Option Int
  | .imm i => some i.toInt
  | _ => Option.none

/-- The checks at decode that an instruction's own entry adds, beyond its signature: the first failing field, by the
numbers of R373. -/
def Instr.entryCheck (cx : DecodeCtx) (i : Instr) : Option Nat :=
  let shape : Option Nat :=
    match i.shapeReg with
    | some n => if cx.shapes.getD n false then none else some i.shapeField
    | none => none
  match shape with
  | some f => some f
  | none =>
    match i with
    | .trap o => match o.a.immVal with | some x => if x < 0 then some 1 else if x > 65535 then some 1 else none | none => none
    | .barInit o _ => barCheck o.a
    | .barArrive o => barCheck o.a
    | .barWait o => barCheck o.a
    | .barSync o => barCheck o.a
    | .barMask o => barCheck o.a
    | .qinit o => cx.flumeDecl o.a
    | .qpush o => cx.flumeCheck o.a true false
    | .qpop o => cx.flumeCheck o.a false true
    | .qtry o _ => cx.flumeCheck o.a false true
    | .wait o kind => waitCheck o.a kind
    | .yield o kind => waitCheck o.a kind
    | .wresume o => match o.b.immVal with | some x => if 0 ≤ x ∧ x ≤ 3 then none else some 2 | none => none
    | .emuargs o => match o.b, o.a.immVal with | _, some x => if 0 ≤ x ∧ x ≤ 3 then none else some 1 | _, none => none
    | .emuargsW o => match o.a.immVal with | some x => if x = 3 then none else some 1 | none => none
    | .ldCluster o _ => rankCheck o.b
    | .stCluster o _ => rankCheck o.b
    | .atom _ _ space sel => if space != .cluster && sel.rank != 0 then some 2 else none
    | .atomRed _ _ space sel => if space != .cluster && sel.rank != 0 then some 2 else none
    | .cvt _ _ sel => if sel.part.val < sel.df.parts && sel.spart.val < sel.sf.parts then none else some 2
    | .bfpack .. => if cx.width = 16 then some 7 else none
    | .xlane _ _ seg _ =>
      if cx.level < 3 then (if seg = 0 then none else some 4)
      else if seg = 7 ∨ 2 ^ seg.val ≤ cx.width then none else some 4
    | .shinfo o bnd =>
      match bnd, o.b.immVal with
      | .item, some x => if 0 ≤ x ∧ x ≤ 5 then none else some 2
      | _, _ => none
    | .mld o q _ => if o.d + q.val ≤ 7 then none else some 0
    | .mzero o _ => countCheck o.a
    | .mpromoI2P o _ => countCheck o.a
    | .mpromoP2I o _ => countCheck o.a
    | .mma o m => arrayCheck o m true false
    | .mmai o m => arrayCheck o m true true
    | .mmab o m => arrayCheck o m false false
    | _ => none
where
  barCheck : Src → Option Nat
    | .obj n _ => if n - 0x20 < cx.barriers then none else some 1
    | _ => none
  rankCheck (s : Src) : Option Nat :=
    match s.immVal with
    | some x => if 0 ≤ x ∧ x ≤ 7 then none else some 2
    | none => none
  countCheck (s : Src) : Option Nat :=
    match s.immVal with
    | some x => if 1 ≤ x ∧ x ≤ 64 then none else some 1
    | none => none
  waitCheck (s : Src) : WaitKind → Option Nat
    | .nempty => cx.flumeCheck s true true
    | .nfull => cx.flumeCheck s true true
    | _ => none
  arrayCheck (o : Args) (m : ArrayMods) (sparse trapGroup : Bool) : Option Nat :=
    let rows := (if m.p then 2 else 1) * (m.q.val + 1)
    match o.a with
    | .m a =>
      if a + rows > 8 then some 1
      else if !m.within sparse trapGroup || (m.p && m.q.val ≥ 4) || (m.vs && !m.seg) || (m.seg && m.more) then some 4
      else none
    | _ => none

end Sys2Proof
end

