-- ==== Sys2Proof/WellFormed.lean ====
section
/-! DEFINITION. Which instructions a warp may hold: the checks of R23 and R153 on a decoded instruction. -/
namespace Sys2Proof

/-- Does the role issue the opcode (R23, check 2)? -/
def Role.issues (r : Role) (op : Nat) : Bool :=
  match r, op / 128 with
  | _, 0 => true
  | _, 1 => true
  | .copy, 2 => true
  | .copy, 4 => op = 0x210 || op = 0x211
  | .copy, 6 => true
  | .copy, _ => false
  | .maths, 7 => true
  | .maths, _ => false
  | .epi, c => c ≤ 5

/-- Is the opcode privileged (R161)? -/
def privileged (op : Nat) : Bool := 0x070 ≤ op && op ≤ 0x076

/-- Does the kernel's level define the opcode (R309)? -/
def DecodeCtx.defines (cx : DecodeCtx) (op : Nat) : Bool := cx.transl || firstLevel op ≤ cx.level

/-- Is the class one whose guard file GFILE selects (R144)? -/
def gfileClass (op : Nat) : Bool :=
  match op / 128 with
  | 0 => true
  | 2 => true
  | 3 => true
  | 4 => true
  | 5 => true
  | _ => false

/-- Does the operand lie within the warp's registers (R23, check 4)? -/
def Src.inBudget (cx : DecodeCtx) : Src → Bool
  | .v n _ _ => n < cx.vBudget
  | .obj n _ => !(cx.role == .maths && n < 8)
  | _ => true

/-- Does the destination lie within the warp's registers (R23, check 4)? -/
def DstKind.inBudget (cx : DecodeCtx) : DstKind → Nat → Bool
  | .v _, d => d < cx.vBudget
  | .pred, _ => cx.role != .maths
  | _, _ => true

/-- Do two operands name one carrier word with one value (R151)? -/
def Src.agrees : Src → Src → Bool
  | .trail i x, .trail j y => i != j || x == y
  | _, _ => true

/-- Do the operands fit the instruction's signature (R145 to R151)? -/
def Instr.operandsOk (i : Instr) : Bool :=
  let o := i.args
  let s := i.sig
  s.d.accepts o.d && s.a.accepts o.a && s.b.accepts o.b && s.c.accepts o.c
    && !o.a.isInw && !o.a.conflict o.b && !o.a.conflict o.c && !o.b.conflict o.c
    && o.a.agrees o.b && o.a.agrees o.c && o.b.agrees o.c

/-- Do guard, hint and modifiers fit (R144, R150, R152, R178)? -/
def Instr.modifiersOk (cx : DecodeCtx) (i : Instr) : Bool :=
  let o := i.args
  let s := i.sig
  (!o.g.gfile || (s.gf && cx.role != .maths)) && (!o.cs || s.cs)
    && (!s.unguarded || (o.g.idx == 7 && !o.g.neg))
    && (!(o.b.isInw || o.c.isInw) || (i.modBits == 0 && !o.g.gfile && !o.cs))

/-- Is the instruction one that the warp `cx` may issue, with every field legal (R23, R153)? The events of the other
agents, the retired opcodes and the undefined ones have no fields of their own and are not well-formed in this sense. -/
def Instr.wellFormed (cx : DecodeCtx) (i : Instr) : Bool :=
  (form i.op 0 0 0 0 {}).isSome && cx.defines i.op && cx.role.issues i.op && (!privileged i.op || cx.inHandler)
    && i.sig.d.inBudget cx i.args.d && i.args.a.inBudget cx && i.args.b.inBudget cx && i.args.c.inBudget cx
    && i.operandsOk && i.modifiersOk cx && (i.entryCheck cx).isNone

end Sys2Proof
end

