-- ==== Sys2Proof/Decode.lean ====
section
/-! DEFINITION. Fetch lines, decoding and encoding (R138 to R153). -/
namespace Sys2Proof

/-! ## The fetch line (R138 to R141) -/

/-- Slot `i` of a line (R138). -/
def Line.slot (l : Line) (i : Nat) : Slot := l.extractLsb' (32 + 96 * i) 96
/-- The line word (R138). -/
def Line.word (l : Line) : Word := l.extractLsb' 0 32
/-- LINE.TGT of slot `i`. -/
def Line.tgt (l : Line) (i : Nat) : Bool := l.getLsbD (27 + i)
/-- LINE.PAIR of slots `i` and `i + 1`. -/
def Line.pair (l : Line) (i : Nat) : Bool := i < 4 && l.getLsbD (23 + i)
/-- LINE.LIT of slot `i`. -/
def Line.lit (l : Line) (i : Nat) : Bool := l.getLsbD (18 + i)

/-- Whether a number has an odd count of ones among its low `n` bits. -/
def oddOnes (x : Nat) : Nat → Bool
  | 0 => false
  | n + 1 => (x.testBit n) != oddOnes x n

/-- The parity bit that stripe `j` needs (R140). -/
def Line.stripe (l : Line) (j : Nat) : Bool :=
  oddOnes (l.extractLsb' (32 + 60 * j) 60).toNat 60 != (j == 0 && oddOnes (l.extractLsb' 8 24).toNat 24)

/-- The stripes whose parity is odd, one bit each (R140, R373). -/
def Line.badStripes (l : Line) : Nat :=
  ((List.range 8).map fun j => if l.stripe j == l.getLsbD j then 0 else 2 ^ j).foldl (· + ·) 0

/-- The second check of R140. -/
def Line.illegal (l : Line) : Bool :=
  l.extractLsb' 8 10 != 0 || (List.range 5).any fun i => l.lit i && l.tgt i

/-- A line with its parity bits set over the rest (R140). -/
def Line.withParity (l : Line) : Line :=
  let body : Line := l &&& ~~~(0xff : Line)
  (List.range 8).foldl (fun a j => if body.stripe j then a ||| ((1 : Line) <<< j) else a) body

/-- The address of a PC's line (R139). -/
def PC.line (pc : PC) : Nat := pc.toNat / 64 * 64
/-- The slot of a PC (R139). -/
def PC.slot (pc : PC) : Nat := pc.toNat % 8
/-- Are bits [5:3] of a PC zero, and its slot one of the five (R139, R141)? -/
def PC.named (pc : PC) : Bool := pc.toNat / 8 % 8 == 0 && pc.toNat % 8 < 5
/-- The PC of a slot of a line. -/
def PC.make (line slot : Nat) : PC := BitVec.ofNat 57 (line + slot)

/-- The first slot at or after `i` of the line that is not a carrier (R139). -/
def Line.slotFrom (l : Line) (i : Nat) : Option Nat := (List.range 5).find? fun j => i ≤ j && !l.lit j

/-- The carrier that slot `i` may name: the next slot, if it is a literal carrier (R151). -/
def Line.carrier (l : Line) (i : Nat) : Option Slot :=
  if i < 4 && l.lit (i + 1) then some (l.slot (i + 1)) else none

/-- Word `n` of a carrier (R143). -/
def carrierWord (c : Slot) (n : Nat) : Word := c.extractLsb' (32 * n) 32

/-! ## The fields of a slot (R143) -/

/-- The fields of a slot as numbers. -/
structure Raw where
  op : Nat
  gidx : Nat
  gneg : Nat
  dst : Nat
  a : Nat
  b : Nat
  c : Nat
  mod : Nat
  cs : Nat
  deriving DecidableEq, Repr

/-- The fields of a slot (R143). -/
def Raw.ofSlot (w : Slot) : Raw :=
  let x := w.toNat
  { op := x / 2 ^ 86, gidx := x / 2 ^ 83 % 8, gneg := x / 2 ^ 82 % 2, dst := x / 2 ^ 74 % 256,
    a := x / 2 ^ 54 % 2 ^ 20, b := x / 2 ^ 34 % 2 ^ 20, c := x / 2 ^ 14 % 2 ^ 20, mod := x / 4 % 4096, cs := x % 4 }

/-- A slot of its fields (R143). -/
def Raw.toSlot (r : Raw) : Slot :=
  BitVec.ofNat 96 (r.cs + r.mod * 4 + r.c * 2 ^ 14 + r.b * 2 ^ 34 + r.a * 2 ^ 54 + r.dst * 2 ^ 74 + r.gneg * 2 ^ 82
    + r.gidx * 2 ^ 83 + r.op * 2 ^ 86)

/-! ## Sources -/

/-- The operand that a field states, whatever the instruction accepts (R146 to R151). `lit` is MOD and CS read as one
number, `which` is 0 for source A. -/
def parseSrc (which f immx lit : Nat) (carrier : Option Slot) : Option Src :=
  let n := f % 256
  let neg := bitAt f 15
  let abs := bitAt f 14
  match f / 2 ^ 18 with
  | 0 =>
    if f / 2 ^ 8 % 2 ^ 6 ≠ 0 then none
    else
      match f / 2 ^ 16 % 4 with
      | 0 => some (.v n neg abs)
      | 1 => some (.k n neg abs)
      | 2 => if neg || abs then none else some (.m n)
      | _ => if abs then none else some (.obj n neg)
  | 1 => some (.imm (BitVec.ofNat 20 (f % 2 ^ 18 * 4 + immx)))
  | 2 => some (.bank ⟨f / 2 ^ 14 % 16, Nat.mod_lt _ (by decide)⟩ (BitVec.ofNat 14 (f % 2 ^ 14)))
  | _ =>
    if f / 2 ^ 16 % 4 = 3 then
      if h : f % 4 < 3 then
        if f / 4 % 2 ^ 14 = 0 then
          match carrier with
          | some c => some (.trail ⟨f % 4, h⟩ (carrierWord c (f % 4)))
          | none => none
        else none
      else none
    else if which = 0 then none
    else some (.inlit (BitVec.ofNat 32 (f % 2 ^ 18 * 2 ^ 14 + lit)))

/-- The operand of a field of the given kind, or none where the kind does not accept it. -/
def readSrc (k : SrcKind) (which f immx lit : Nat) (carrier : Option Slot) : Option Src :=
  if f = 0 && k.zeroOk then some Src.none
  else
    match k with
    | .zero => none
    | .sel x => if f / 2 ^ 18 = 1 && f % 2 ^ 18 * 4 + immx = x then some Src.none else none
    | .of _ =>
      match parseSrc which f immx lit carrier with
      | some s => if k.accepts s then some s else none
      | none => none

/-- Is the field an in-word literal (R150)? -/
def isInwField (f : Nat) : Bool := f / 2 ^ 18 = 3 && f / 2 ^ 16 % 4 ≠ 3

/-- Does the field name a register outside the budget (R23, check 4)? File, by R146, and number. A field that its opcode does not use is
read as a register field all the same (DESIGN CHOICE, log entry 80). -/
def srcBudget (cx : DecodeCtx) (k : SrcKind) (f : Nat) : Option (Nat × Nat) :=
  if f = 0 && k.zeroOk then none
  else if f / 2 ^ 18 ≠ 0 then none
  else if f / 2 ^ 16 % 4 = 0 && cx.vBudget ≤ f % 256 then some (0, f % 256)
  else if f / 2 ^ 16 % 4 = 3 && cx.role == .maths && f % 256 < 8 then some (3, f % 256)
  else none

/-- How many v registers a destination of a kind has: NSTAT and SMAXSTEP write three, from a multiple of 4 on (R230). -/
def dstCount (op al : Nat) : Nat := if op = 0x220 || op = 0x222 then 3 else al

/-- Does the destination name a register outside the budget (R23, check 4; R211)? The first one is reported. -/
def dstBudget (cx : DecodeCtx) (op : Nat) (k : DstKind) (d : Nat) : Option (Nat × Nat) :=
  match k with
  | .v al => if cx.vBudget < d + dstCount op al then some (0, max d cx.vBudget) else none
  | .pred => if cx.role == .maths then some (3, d) else none
  | _ => none

/-- The first register field outside the budget, in the order DST, A, B, C. -/
def budgetFail (cx : DecodeCtx) (s : Sig) (r : Raw) : Option (Nat × Nat) :=
  (dstBudget cx r.op s.d r.dst).orElse fun _ => (srcBudget cx s.a r.a).orElse fun _ =>
    (srcBudget cx s.b r.b).orElse fun _ => srcBudget cx s.c r.c

/-- The destination number, or none where the field does not fit (R145). -/
def readDst (k : DstKind) (d : Nat) : Option Nat :=
  match k with
  | .sreg r => if d = r.toBits && r.writable then some 0 else none
  | _ => if k.accepts d then some d else none

/-! ## Decoding -/

/-- Why an instruction does not decode (R23, R153): the trap of R373 that it raises. -/
inductive DecodeError where
  /-- Check 2 of R23. -/
  | role
  /-- Check 3 of R23. -/
  | privilege
  /-- Check 4 of R23, with the register's file and number. -/
  | budget (file number : Nat)
  /-- Step 4 of R153, with the first failing field by R373. -/
  | operand (field : Nat)
  deriving DecidableEq, Repr

/-- What decoding gives. -/
inductive Decoded where
  | ok (i : Instr)
  | err (e : DecodeError)
  deriving DecidableEq, Repr

/-- The least of the failing fields. -/
def firstField : List (Option Nat) → Option Nat
  | [] => none
  | none :: r => firstField r
  | some x :: r => match firstField r with | some y => some (min x y) | none => some x

/-- A failing field `n` where the condition is false. -/
def needs (c : Bool) (n : Nat) : Option Nat := if c then none else some n

/-- Step 4 of R153 on a defined opcode: every field against the signature of its form, then the entry's own checks. -/
def decodeFields (cx : DecodeCtx) (r : Raw) (carrier : Option Slot) : Decoded :=
  let inw := isInwField r.a || isInwField r.b || isInwField r.c
  let lit := r.mod * 4 + r.cs
  let mod := if inw then 0 else r.mod
  let immx := mod / 1024
  let gbit := gfileClass r.op && bitAt mod 6
  let m := if gbit then mod % 1024 - 64 else mod % 1024
  let build : Args → Option Instr := form r.op m (r.a % 2 ^ 18 * 4 + immx) (r.b % 2 ^ 18 * 4 + immx) r.dst
  match build {} with
  | none => .err (.operand 4)
  | some i0 =>
    let s := i0.sig
    let d := readDst s.d r.dst
    let a := readSrc s.a 0 r.a immx lit carrier
    let b := readSrc s.b 1 r.b immx lit carrier
    let c := readSrc s.c 2 r.c immx lit carrier
    let av := a.getD Src.none
    let bv := b.getD Src.none
    let cv := c.getD Src.none
    let hasImm := r.a / 2 ^ 18 = 1 || r.b / 2 ^ 18 = 1 || r.c / 2 ^ 18 = 1
    let o : Args :=
      { g := { gfile := gbit, idx := fin8 r.gidx, neg := r.gneg == 1 }, d := d.getD 0, a := av, b := bv, c := cv,
        cs := !inw && r.cs == 1 }
    match build o with
    | none => .err (.operand 4)
    | some i =>
      match firstField
          [needs d.isSome 0, needs a.isSome 1, needs (b.isSome && !av.conflict bv) 2,
           needs (c.isSome && !av.conflict cv && !bv.conflict cv) 3,
           needs (i0.modBits == m && (!gbit || (s.gf && cx.role != .maths)) && (hasImm || immx == 0)) 4,
           needs (inw || r.cs == 0 || (r.cs == 1 && s.cs)) 5,
           needs (!s.unguarded || (r.gidx == 7 && r.gneg == 0)) 6, i.entryCheck cx] with
      | some f => .err (.operand f)
      | none => .ok i

/-- Decoding of a slot with the carrier that follows it, for a warp `cx`: the checks of R153, steps 2 to 4, in their
order. An undefined opcode is the instruction `illegalOpcode`, whose meaning is its trap (R160). -/
def decode (cx : DecodeCtx) (w : Slot) (carrier : Option Slot) : Decoded :=
  let r := Raw.ofSlot w
  let retired := retiredForm r.op { words := w, carrier := carrier }
  match form r.op (r.mod % 1024) 0 0 0 {}, retired with
  | none, none => .ok (.illegalOpcode w)
  | f, _ =>
    if !cx.defines r.op then .ok (.illegalOpcode w)
    else if !cx.role.issues r.op then .err .role
    else if privileged r.op && !cx.inHandler then .err .privilege
    else
      let mod := if isInwField r.a || isInwField r.b || isInwField r.c then 0 else r.mod
      let gbit := gfileClass r.op && bitAt mod 6
      let m := if gbit then mod % 1024 - 64 else mod % 1024
      let immx := mod / 1024
      let s : Sig :=
        match f with
        | none => retiredSig r.op
        | some _ =>
          match form r.op m (r.a % 2 ^ 18 * 4 + immx) (r.b % 2 ^ 18 * 4 + immx) r.dst {} with
          | some i0 => i0.sig
          | none => {}
      match budgetFail cx s r with
      | some (file, n) => .err (.budget file n)
      | none =>
        match retired with
        | some i => .ok i
        | none => decodeFields cx r carrier

/-! ## Encoding -/

/-- The 20 bits of an operand in a field of a kind (R146 to R151). -/
def encodeSrc (k : SrcKind) : Src → Nat
  | .none => match k with | .sel x => 2 ^ 18 + x / 4 | _ => 0
  | .v n neg abs => n + boolBit abs * 2 ^ 14 + boolBit neg * 2 ^ 15
  | .k n neg abs => n + boolBit abs * 2 ^ 14 + boolBit neg * 2 ^ 15 + 2 ^ 16
  | .m n => n + 2 * 2 ^ 16
  | .obj n neg => n + boolBit neg * 2 ^ 15 + 3 * 2 ^ 16
  | .imm i => i.toNat / 4 + 2 ^ 18
  | .bank c off => off.toNat + c.val * 2 ^ 14 + 2 * 2 ^ 18
  | .inlit x => x.toNat / 2 ^ 14 + 3 * 2 ^ 18
  | .trail ix _ => ix.val + 3 * 2 ^ 16 + 3 * 2 ^ 18

/-- What an operand puts into IMMX (R148). -/
def encodeImmx (k : SrcKind) : Src → Nat
  | .none => match k with | .sel x => x % 4 | _ => 0
  | .imm i => i.toNat % 4
  | _ => 0

/-- What an in-word literal puts into MOD and CS (R150). -/
def encodeLit : Src → Nat
  | .inlit x => x.toNat % 2 ^ 14
  | _ => 0

/-- The fields of a well-formed instruction. -/
def Instr.raw (i : Instr) : Raw :=
  let o := i.args
  let s := i.sig
  let inw := o.b.isInw || o.c.isInw
  let lit := encodeLit o.b + encodeLit o.c
  { op := i.op, gidx := o.g.idx.val, gneg := boolBit o.g.neg,
    dst := match s.d with | .sreg r => r.toBits | _ => o.d,
    a := encodeSrc s.a o.a, b := encodeSrc s.b o.b, c := encodeSrc s.c o.c,
    mod := if inw then lit / 4
      else i.modBits + boolBit o.g.gfile * 64
        + (encodeImmx s.a o.a + encodeImmx s.b o.b + encodeImmx s.c o.c) * 1024,
    cs := if inw then lit % 4 else boolBit o.cs }

/-- The slot of an instruction (R143); a retired or an undefined opcode keeps its own words. -/
def encode : Instr → Slot
  | .syncw r => r.words
  | .imad24 r => r.words
  | .fmad16 r => r.words
  | .loge r => r.words
  | .ldv r => r.words
  | .mma4 r => r.words
  | .illegalOpcode w => w
  | i => i.raw.toSlot

/-- The value that an instruction's sources give word `n` of its carrier. -/
def Args.carried (o : Args) (n : Nat) : Option Word :=
  (pick o.a).orElse fun _ => (pick o.b).orElse fun _ => pick o.c
where
  pick : Src → Option Word
    | .trail ix x => if ix.val = n then some x else Option.none
    | _ => Option.none

/-- The carrier that an instruction needs after it (R151). -/
def Instr.carrier (i : Instr) : Option Slot :=
  let w := i.args.carried
  if (w 0).isSome || (w 1).isSome || (w 2).isSome then
    some (BitVec.ofNat 96 (((w 0).getD 0).toNat + ((w 1).getD 0).toNat * 2 ^ 32 + ((w 2).getD 0).toNat * 2 ^ 64))
  else none

/-! ## The host's question -/

/-- A warp that may issue the opcode: an epilogue warp but for classes 110 and 111, in the handler, of a level-3 kernel
that declares everything. -/
def DecodeCtx.forOp (op : Nat) : DecodeCtx :=
  { role := if op / 128 = 6 then .copy else if op / 128 = 7 then .maths else .epi, width := 32, regs := 256,
    inHandler := true, level := 3, transl := false, barriers := 96,
    flumes := List.replicate 16 (some (.epi, .epi)), shapes := List.replicate 8 true }

/-- The instruction that the decoder reads from the table's bits: the slot is the low 96 bits, and a carrier of the
bits above it follows. -/
def decodeTableWord (_nbits w : Nat) : Option Instr :=
  let slot : Slot := BitVec.ofNat 96 w
  match decode (.forOp (slot.toNat / 2 ^ 86)) slot (some (BitVec.ofNat 96 (w / 2 ^ 96))) with
  | .ok i => some i
  | .err _ => none

end Sys2Proof
end

