-- ==== Sys2Proof/Machine/Sparse.lean ====
section
/-! DEFINITION. Data held by number, listed only where it differs from what an unlisted number holds. -/
namespace Sys2Proof

/-- Values by key. In the canonical form (`Sparse.wf`) the keys rise and no entry equals what an unlisted key reads as. -/
abbrev Sparse (α : Type) := List (Nat × α)

namespace Machine

/-- The value at a key; `d` is what unlisted keys hold. -/
def sget {α : Type} (d : Nat → α) : Sparse α → Nat → α
  | [], k => d k
  | (a, x) :: r, k => if a = k then x else sget d r k

/-- The list without a key. -/
def serase {α : Type} : Sparse α → Nat → Sparse α
  | [], _ => []
  | (a, x) :: r, k => if a = k then serase r k else (a, x) :: serase r k

/-- A new entry before the first greater key. -/
def sinsert {α : Type} : Sparse α → Nat → α → Sparse α
  | [], k, x => [(k, x)]
  | (a, y) :: r, k, x => if k < a then (k, x) :: (a, y) :: r else (a, y) :: sinsert r k x

/-- The list with value `x` at key `k`: an entry, or none where `x` is what unlisted keys hold. -/
def sset {α : Type} [DecidableEq α] (d : Nat → α) (m : Sparse α) (k : Nat) (x : α) : Sparse α :=
  if x = d k then serase m k else sinsert (serase m k) k x

/-- Do the keys rise from `lo`, with no entry that an unlisted key would hold? -/
def swfFrom {α : Type} [DecidableEq α] (d : Nat → α) : Nat → Sparse α → Bool
  | _, [] => true
  | lo, (a, x) :: r => lo ≤ a && x != d a && swfFrom d (a + 1) r

/-- The canonical form. -/
def swf {α : Type} [DecidableEq α] (d : Nat → α) (m : Sparse α) : Bool := swfFrom d 0 m

end Machine
end Sys2Proof
end

