-- ==== Sys2Proof/RvCore.lean ====
section
/-! DEFINITION. The RV64GCV core of a copy engine, which runs routines (R13, R396): its registers, and what one of its instructions
does, as data. The instructions themselves are RISC-V's, which the manual names and does not define (log entry 5). -/
namespace Sys2Proof

/-- The state of the core (R396): VLEN is 512 and ELEN 64. Unlisted registers hold zero. -/
structure RvCore where
  pc : DWord := 0
  x : Sparse DWord := []
  f : Sparse DWord := []
  v : Sparse (BitVec 512) := []
  fcsr : Word := 0
  /-- vtype, whose top bit is vill; vl, vstart and vcsr. -/
  vtype : DWord := 0x8000000000000000
  vl : DWord := 0
  vstart : DWord := 0
  vcsr : DWord := 0
  /-- The address that a load-reserved holds. -/
  reserved : Option Nat := none
  deriving DecidableEq, Repr

/-- What an instruction of the core does to memory, in its order. -/
inductive RvAct where
  /-- A byte is stored. -/
  | store (addr : Nat) (b : Byte)
  /-- A field of the control block is written (R397): its offset and the word. -/
  | control (off : Nat) (value : Word)
  /-- The core traps, or leaves its window (R400). -/
  | fault
  deriving DecidableEq, Repr

end Sys2Proof
end

