-- ==== Sys2Proof/Config.lean ====
section
/-! DEFINITION. What the Xepen X3 fixes (R2, R11 to R16), and the values that the manual leaves open. -/
namespace Sys2Proof.Config

/-- Cores of the package, 40 on each die (R11, R16). -/
def cores : Nat := 80
/-- Cores of one die (R11). -/
def coresPerDie : Nat := 40
/-- Bytes of a core's scratchpad, 1 MiB (R13). -/
def scratchpadBytes : Nat := 0x100000
/-- Entries of one accumulator window (R50). -/
def windowEntries : Nat := 16384
/-- Accumulator windows of a core (R50). -/
def windows : Nat := 64
/-- Entries of the spillway (R13). -/
def spillEntries : Nat := 2048
/-- Warp slots of a core (R13). -/
def warpSlots : Nat := 64
/-- Bytes of the vector register file, 512 KiB (R13). -/
def registerBytes : Nat := 0x80000
/-- Named barriers of a core (R13). -/
def namedBarriers : Nat := 96
/-- Workgroup places of a core (R368). -/
def places : Nat := 16
/-- Commands that a copy engine's queue holds (R246). -/
def copyQueue : Nat := 32
/-- Host queues (R16). -/
def queues : Nat := 4096
/-- Contexts (R353). -/
def contexts : Nat := 256
/-- The architecture level (DEVID, R352). -/
def level : Nat := 3
/-- Bytes of HBM, 768 GiB (R16, R52). -/
def hbmBytes : Nat := 0xC000000000
/-- Bytes of HBM of one die (R52). -/
def dieHbmBytes : Nat := 0x6000000000
/-- First physical address of the cistern (R52). -/
def cisternBase : Nat := 0x10000000000
/-- Bytes of the cistern of both dies (R52). -/
def cisternBytes : Nat := 0x4000000
/-- First physical address of the host coherent window (R52). -/
def windowBase : Nat := 0x10004000000
/-- Bytes of the host coherent window (R52). -/
def windowBytes : Nat := 0x100000
/-- First physical address of peer memory (R52). -/
def peerBase : Nat := 0x8000000000000
/-- First physical address of host memory (R52). -/
def hostBase : Nat := 0xC000000000000
/-- One past the last physical address (R52). -/
def physEnd : Nat := 0x10000000000000

/-- What a byte of memory that nothing has written reads as.
DESIGN CHOICE (log entry 1, unsafe): the manual gives HBM and host memory no contents at power-on. -/
def memDefault : BitVec 8 := 0

/-- SHA-256 of a byte string (R434, R437): a published standard that the manual names and does not define.
Free value (log entry 6): nothing constrains it. -/
opaque sha256 : List (BitVec 8) → BitVec 256
/-- Does an HSS signature of RFC 8554 verify under a public key (R394, R434, R441): the key, what is signed, the signature?
Free value (log entry 6). -/
opaque hssVerify : List (BitVec 8) → List (BitVec 8) → List (BitVec 8) → Bool
/-- The HSS signature of 3,284 bytes that a one-time leaf of the attestation key makes over a report (R434, R437).
Free value (log entry 6). -/
opaque hssSign : Nat → List (BitVec 8) → BitVec (8 * 3284)
/-- The n-th value that the device's random source draws (R440). Free value (log entry 6). -/
opaque random : Nat → BitVec 256
/-- The fused device identifier (R436). Free value (log entry 6). -/
opaque devuid : BitVec 128
/-- AES-256-XTS decryption under one key of what another key encrypted (R60): key written with, key read with,
address, data. Free value (log entry 6), used only where the two keys differ. -/
opaque xtsGarble : Option (BitVec 512) → Option (BitVec 512) → Nat → BitVec 8 → BitVec 8
/-- The 64-bit hash of a line in the deduplication window (R408), which the manual does not define.
Free value (log entry 6). -/
opaque lineHash : BitVec 1024 → BitVec 64
/-- Into how many flits a compression pattern (0 zero-run, 1 base-delta, 2 BFP-plane) brings a line (R405), less one, modulo 4:
the manual names the patterns and does not define them. Free value (log entry 16). -/
opaque flits : Nat → BitVec 1024 → Nat
/-- The home slice of a line among the package's 128, by a hash that the manual calls fixed and does not define (R14, R52).
Free value (log entry 66). -/
opaque homeSlice : Nat → Fin 128
/-- A choice between two outcomes that the manual allows (R5), for the n-th draw. Free value (log entry 63). -/
opaque freeBit : Nat → Bool
/-- What the serial flash holds at manufacture (R433), and the digest that the boot ROM compares (R434). Free values (log entry 6). -/
opaque flash0 : List (BitVec 8)
/-- The image public key that an image's body carries, at a place that the manual does not give (R434). Free value (log entry 6). -/
opaque imageKey : List (BitVec 8) → List (BitVec 8)
/-- The fused digest of the image public key (R434). Free value (log entry 6). -/
opaque fusedDigest : BitVec 256
/-- The order in which lanes whose addresses coincide perform their atomics (R243): a key of each lane for the
n-th such instruction. Free value (log entry 11). -/
opaque laneKey : Nat → Nat → Nat
/-- Exponent bytes of a BFP tile that TGATHER.ADDR fills: the manual gives a row named by address no place in the scale plane
(R249, R258). Free value (log entry 17). -/
opaque freeByte : Nat → BitVec 8
/-- The width code of a block of 32 tile rows of which a command with a band table fetches none by a row index (R251), from the seven BFP
codes. Free value (log entry 17). -/
opaque freeBand : Nat → Fin 7
/-- Does a copy engine's RV64GCV core complete a misaligned load or store of an element, which RISC-V leaves to it (R400)? Free value
(log entry 5). -/
opaque rvMisaligned : Bool
/-- Where the vector extension allows an element to be set to ones or left as it was: the outcome for the n-th draw and an element.
Free value (log entry 5). -/
opaque rvAgnostic : Nat → Nat → Bool
/-- The vector length that vset{i}vl{i} chooses where it may: from the application's length and VLMAX. Free value (log entry 5). -/
opaque rvLength : Nat → Nat → Nat
/-- What an unordered float sum of the vector extension gives and the flags that it raises, for the n-th draw: the extension fixes neither
the tree of its additions nor their precision. Free value (log entry 5). -/
opaque rvSum : Nat → BitVec 64 × BitVec 5
/-- Core cycles that an instruction takes beyond its first, for the n-th draw (R400). Free value (log entry 5). -/
opaque rvCycles : Nat → Nat
/-- The image of a saved workgroup has no stated layout (R389): byte i of the n-th image. Free value (log entry 14). -/
opaque imageByte : Nat → Nat → BitVec 8

end Sys2Proof.Config
end

