-- ==== Sys2Proof/Machine/State.lean ====
section
/-! DEFINITION. The state of the Xepen X3: everything that the manual gives the machine, as plain data. -/
namespace Sys2Proof.Machine

/-- Why the machine would stop. The manual leaves no instruction without an effect (R5), so no meaning raises one; the
type has a member only because an outcome names it. -/
inductive Fault where
  /-- Raised by nothing. Safe: it never occurs. -/
  | none
  deriving DecidableEq, Repr

/-- Why a step has no meaning. -/
inductive Refusal where
  /-- Raised by an arm of `exec` whose instruction has no meaning yet. Safe: no effect is claimed. -/
  | notModelled (mnemonic : String)
  deriving DecidableEq, Repr

/-! ## Splits and warps (R20 to R37) -/

/-- SPLIT.STATE (R31). A free entry is one that is not live. -/
inductive SplitState where
  | run | wait | joinWait | held | inTrap
  deriving DecidableEq, Repr

/-- A deferral record (R31): `arrived` is DEFER.KIND. -/
structure DeferRec where
  arrived : Bool
  pc : PC
  mask : LaneMask
  /-- The PC is yet to be settled with its line's word (R139). -/
  seq : Bool := false
  deriving DecidableEq, Repr

/-- A loop record (R181). -/
structure LoopRec where
  first : PC
  endLine : Nat
  endSlot : Nat
  count : Word
  deriving DecidableEq, Repr

/-- A trap record (R375), before it is written out. `slot` holds the slot words of kind 0, or the number and progress of
kinds 1 and 2. -/
structure TrapRec where
  code : Nat := 0
  kind : Nat := 0
  addr : DWord := 0
  data : DWord := 0
  pc : PC := 0
  mask : LaneMask := 0
  time : DWord := 0
  wgid : Word := 0
  ctx : Nat := 0
  core : Nat := 0
  split : Nat := 0
  warp : Nat := 0
  held : Bool := false
  nested : Bool := false
  slot : Slot := 0
  /-- The model's own: the key of the workgroup, or the queue, that the subject belongs to, and the engine whose number it is. -/
  subj : Nat := 0
  engine : Nat := 0
  deriving DecidableEq, Repr

/-- What a split in state wait waits for, with the operands that it read at issue. -/
inductive Wait where
  /-- Nothing. -/
  | nothing
  /-- A transaction barrier's phase to differ (R185). -/
  | tb (off phase : Nat)
  /-- A flume to hold a handle, or room (R185). -/
  | nempty (f : Nat)
  | nfull (f : Nat)
  /-- A timeline's counter (R185, R196). -/
  | counter (id n : Nat)
  /-- A handle to pop, or room for a handle to push (R193). -/
  | pop (f : Nat)
  | push (f : Nat) (handle : DWord)
  /-- Generation `g` of a named barrier (R190). -/
  | barrier (b : Nat) (g : Word)
  /-- Room in the copy engine's queue (R246). -/
  | copyRoom
  /-- A release (R74). -/
  | release
  /-- Page walks (R57). -/
  | walk
  /-- An invalidation (R208). -/
  | inval
  /-- The retirement of earlier array instructions (R74, R103, R154, R286, R289). -/
  | array
  /-- The array for this array instruction, or its performance (R117, R283). -/
  | perform
  /-- Cancelled commands, from a number on (R263). -/
  | cancel (n : Nat)
  /-- The conversion of a barrier to CLUSTER scope (R191). -/
  | convert
  /-- To issue its instruction again: what it waited for was dropped by a hold (R424, R425), or came while its warp stood still (R377). -/
  | again
  /-- To go on: what it waited for is complete, and came while its warp stood still (R377). -/
  | done
  deriving DecidableEq, Repr

/-- The retired instruction that a split emulates (R326): the instruction, its PC, its ACTIVE set and helper lanes,
ARITH.MODE and the loop records at its issue. -/
structure Emu where
  instr : Instr
  pc : PC
  active : LaneMask
  helpers : LaneMask
  mode : Word
  loops : List LoopRec
  deriving DecidableEq, Repr

/-- An entry of a split table (R31), with what the device holds for its split. -/
structure Split where
  live : Bool := false
  st : SplitState := .run
  pc : PC := 0
  /-- The PC was reached by sequential flow past the end of a line, and its slot is not settled yet (R139). -/
  seq : Bool := false
  mask : LaneMask := 0
  /-- The deferral stack, top first (R32). -/
  defer : List DeferRec := []
  /-- The loop records, innermost first (R181). -/
  loops : List LoopRec := []
  /-- The line that the split issues from (R140). -/
  line : Option (Nat × Line) := none
  /-- The instruction that a waiting split waits in, and what for. -/
  pend : Option Instr := none
  wait : Wait := .nothing
  /-- The condition of a WAIT or YIELD has held since it waits, with what kpd reports (R186). -/
  met : Option Bool := none
  /-- The split issues its instruction again after a wait; this is no new issue (R412). -/
  replay : Bool := false
  /-- An instruction of the split is stopped part-way, and WRESUME, ERET or release continues it (R293). -/
  stopped : Bool := false
  /-- The trap that the split is in, with its resume PC; `handler` once it runs its handler (R377). -/
  trap : Option TrapRec := none
  resume : PC := 0
  resumeSeq : Bool := false
  handler : Bool := false
  /-- k48 to k63 as they were at handler entry (R377). -/
  bank : List Word := []
  emu : Option Emu := none
  /-- The state before a debug hold (R425). -/
  before : SplitState := .run
  /-- One instruction may issue although a breakpoint names it (R423). -/
  pass : Bool := false
  /-- The split is held at its next instruction boundary outside a handler (R424, R425): the breakpoint, 15 for a hold command, 16 for
  a step; and the same of a stop whose record is not written yet (R419). -/
  holdNext : Option Nat := none
  stopRec : Option Nat := none
  /-- Aging steps, the clocks that the split has been ready and passed over since the last one, and the yield hint (R371). -/
  age : Nat := 0
  waited : Nat := 0
  hint : Bool := false
  /-- When the split became ready (R371). -/
  since : Nat := 0
  deriving DecidableEq, Repr

/-- A row of an m register (R270). -/
structure MRow where
  exp : BitVec 16 := 0
  map : BitVec 64 := 0
  data : BitVec 512 := 0
  deriving DecidableEq, Repr

/-- An m register (R270); `gen` is its load generation (R289). -/
structure MReg where
  bands : BitVec 16 := 0xFFFF
  rows : Sparse MRow := []
  gen : Nat := 0
  deriving DecidableEq, Repr

/-- A warp (R20 to R24). -/
structure Warp where
  live : Bool := false
  role : Role := .copy
  /-- Lanes; 0 for a maths warp. -/
  width : Nat := 0
  /-- v registers of the budget (R22). -/
  regs : Nat := 0
  /-- First slot on the core, and the upper half of it for a width-16 warp (R27). -/
  slot : Nat := 0
  half : Bool := false
  /-- The warp has exited (R36). -/
  exited : Bool := false
  splits : Sparse Split := []
  /-- v registers by lane × 256 + number (R157). -/
  v : Sparse Word := []
  k : Sparse Word := []
  /-- p0 to p6, one lane mask each. -/
  p : Sparse LaneMask := []
  kp : BitVec 8 := 0
  /-- ARITH.MODE, ARITH.FLAGS, PROGRESS (R158). -/
  mode : Word := 0
  flags : Word := 0
  progress : DWord := 0
  m : Sparse MReg := []
  /-- The matrix configuration (R290). -/
  mcfg : Word := 0x80010400
  /-- Registers whose results are pending (R154), and whether the memory leaf of R413 counts a wait for them. -/
  score : List (PendReg × Bool) := []
  deriving DecidableEq, Repr

/-! ## Workgroups (R20, R45 to R50) -/

/-- A flume (R193): its roles, declared and set depth, handles oldest first, waiting splits longest first. -/
structure Flume where
  declared : Bool := false
  prod : Role := .copy
  cons : Role := .copy
  max : Nat := 0
  depth : Nat := 0
  items : List DWord := []
  waiters : List (Nat × Nat) := []
  deriving DecidableEq, Repr

/-- A named barrier (R189). `cluster`: it refers to the node of its number. -/
structure Barrier where
  cluster : Bool := false
  count : Nat := 0
  mask : LaneMask := 0
  gen : Word := 0
  arrivals : Nat := 0
  pending : Option (Nat × LaneMask) := none
  deriving DecidableEq, Repr

/-- A tile slot (R247). -/
structure TileSlot where
  fmt : Nat := 0
  bands : BitVec 32 := 0
  cols : Nat := 0
  rows : Nat := 0
  mask : BitVec 256 := 0
  deriving DecidableEq, Repr

/-- The header and table that a shape image holds (R122, R123, R125). -/
structure ShapeImage where
  fill : Word := 0
  gen : Word := 0
  rows : Nat := 0
  nseq : Nat := 0
  maskv : Nat := 0
  cross : Nat := 0
  bounds : List Nat := []
  deriving DecidableEq, Repr

/-- A shape register (R125). -/
structure ShapeReg where
  declared : Bool := false
  max : Nat := 0
  bound : Bool := false
  addr : DWord := 0
  space : Nat := 0
  image : ShapeImage := {}
  deriving DecidableEq, Repr

/-- A workgroup that is resident (R20). -/
structure Workgroup where
  live : Bool := false
  core : Nat := 0
  wgid : Nat := 0
  /-- The grid (R362), by its key in `State.grids`. -/
  grid : Nat := 0
  /-- The cluster, by its key in `State.clusters`; rank and size (R20). -/
  cluster : Nat := 0
  rank : Nat := 0
  size : Nat := 1
  ctx : Nat := 0
  /-- Context priority (R356). -/
  prio : Nat := 0
  /-- The kernel descriptor (R312) and the code section base (R361). -/
  kdesc : BitVec 1024 := 0
  code : Nat := 0
  warps : Sparse Warp := []
  flumes : Sparse Flume := []
  bars : Sparse Barrier := []
  tiles : Sparse TileSlot := []
  shapes : Sparse ShapeReg := []
  /-- The split that runs the handler, and those that wait for it in order (R377). -/
  handler : Option (Nat × Nat) := none
  trapQueue : List (Nat × Nat) := []
  /-- First byte of the scratchpad allocation, of the lane slices, and the first accumulator window. -/
  user : Nat := 0
  slices : Nat := 0
  window : Nat := 0
  /-- Bytes of the whole scratchpad allocation, with the flume rings (R46). -/
  bytes : Nat := 0
  /-- All its warps have exited (R48). -/
  exited : Bool := false
  deriving DecidableEq, Repr

/-! ## Cores -/

/-- The attributes of a page that an access carries: encryption key, STREAM, DEDUP, COMPRESS (R59). -/
structure PageAttr where
  key : Option (BitVec 512) := none
  stream : Bool := false
  dedup : Bool := false
  compress : Bool := false
  deriving DecidableEq, Repr

/-- A store that no release has published (R63): address, byte, storing workgroup. -/
structure HeldStore where
  addr : Nat
  byte : Byte
  wg : Nat
  attr : PageAttr := {}
  /-- It has left L1 as part of an unpublished version. -/
  evicted : Bool := false
  deriving DecidableEq, Repr

/-- Where an access is performed (R43 to R49): the scratchpad of a core, or a physical address with its page's attributes. -/
inductive Place where
  | sp (core off : Nat)
  | mem (pa : Nat) (attr : PageAttr)
  deriving DecidableEq, Repr

/-- A store that its instruction has issued and that is not performed yet (R71 to R73): its warp, its place, its bytes. -/
structure LateStore where
  wg : Nat
  warp : Nat
  place : Place
  bytes : List Byte
  /-- The splits, by warp and index, whose next instruction it precedes in program order (R70). -/
  own : List (Nat × Nat) := []
  /-- A release that leaves it unperformed has handed it on, and the splits that have acquired it since (R75). -/
  handed : Bool := false
  seen : List (Nat × Nat) := []
  deriving DecidableEq, Repr

/-- A byte that a release at CLUSTER or DIE scope of a core has published and that the agents of die `die` still read as it was
before (R77), with the key that it was written under then. -/
structure Behind where
  die : Nat
  core : Nat
  addr : Nat
  byte : Byte
  key : Option (BitVec 512) := none
  deriving DecidableEq, Repr

/-- A line that the core holds (R61, R62): its data, whether an invalidation is pending on it, whether it is in L1 or
kept for the core at its home slice. -/
structure LineCopy where
  live : Bool := false
  data : CacheLine := 0
  /-- The key under which its data were written (R60). -/
  key : Option (BitVec 512) := none
  pending : Bool := false
  inL1 : Bool := true
  deriving DecidableEq, Repr

/-- A release that is not complete (R74): its workgroup, and the split that waits for it, if any. -/
structure Release where
  wg : Nat
  who : Option (Nat × Nat)
  scope : Scope
  /-- The timeline number that the release completes (TLSIG), if any. -/
  number : Option Nat := none
  deriving DecidableEq, Repr

/-- Which kind of access an address is for (R55, R373). -/
inductive Access where
  | read | write | atomic | fetch
  deriving DecidableEq, Repr

/-- A translation held in a core's TLB (R53, R57). -/
structure TlbEntry where
  ctx : Nat
  va : Nat
  bits : Nat
  pte : DWord
  deriving DecidableEq, Repr

/-- A byte of a copy command's work (R85, R86): where it comes from. -/
inductive Cell where
  /-- A constant byte, or one already read. -/
  | lit (b : Byte)
  /-- A fill byte (R131), which a CRC leaves out (R264). -/
  | fill (b : Byte)
  /-- A byte at an address of a space (R43): global, scratchpad or cistern. -/
  | mem (space addr : Nat)
  /-- Byte `k` of a block of 32 copies of the `m`-bit code of element `e` of the BFP block at an address (R136). -/
  | copies (space addr m e k : Nat)
  /-- A byte that the manual leaves open (log entry 17). -/
  | free (n : Nat)
  deriving DecidableEq, Repr

/-- A byte that a command writes: its tile row (or byte, for TXFORM), its address, its source. -/
structure Put where
  row : Nat
  addr : Nat
  cell : Cell
  deriving DecidableEq, Repr

/-- A write that a command still has to make: destination space (R43) and bytes, in rising order. -/
structure Work where
  space : Nat
  puts : List Put
  /-- The write counts as a scratchpad sector on the barrier (R253). -/
  sector : Bool := false
  deriving DecidableEq, Repr

/-- The kinds of copy command (R246). -/
inductive CmdKind where
  | tcopy | tstore | tgather | tscatter | tfill | txform | tcoll
  deriving DecidableEq, Repr

/-- The state of a routine that a TXFORM runs (R396 to R401). -/
structure Routine where
  index : Nat := 0
  id : Nat := 0
  ver : Nat := 0
  /-- The image that the command latched at acceptance (R395). -/
  image : List Byte := []
  args : List Word := []
  /-- Source space and address, source bytes; destination space and address, most bytes. -/
  src : Nat × Nat := (0, 0)
  srcLen : Nat := 0
  dst : Nat × Nat := (0, 0)
  dstLen : Nat := 0
  /-- Source bytes filled and released, destination bytes committed. -/
  filled : Nat := 0
  released : Nat := 0
  committed : Nat := 0
  /-- The source bytes that were filled: buffer 0 holds the last 65,536 of them. -/
  window : List Byte := []
  /-- Bytes of the source's next word that the engine has read and not yet filled (R88). -/
  ahead : List Byte := []
  /-- The data, where the routine has run; buffer 1; committed bytes of a destination word that is not whole yet (R88). -/
  data : List Byte := []
  buf1 : Sparse Byte := []
  partWord : List Put := []
  /-- The core, the pc of its instruction, what that still has to do to memory, and the core cycles so far (R400). -/
  rv : RvCore := {}
  rvPc : DWord := 0
  acts : List RvAct := []
  cycles : Nat := 0
  /-- Bytes that an INWAIT waits for (R397), and the status of a DONE. -/
  waits : Option Nat := none
  done : Option Word := none
  deriving DecidableEq, Repr

/-- A command of a copy engine, with the operands it latched at acceptance (R246, R255, R388). -/
structure Cmd where
  kind : CmdKind
  wg : Nat
  warp : Nat
  pc : PC
  ctx : Nat
  number : Nat
  /-- The engine whose timeline the number is of (R174). -/
  engine : Nat := 0
  handle : DWord := 0
  block : List Word := []
  /-- Offset of its barrier, if it names one, and the phase that it latched (R253). -/
  bar : Option Nat := none
  phase : Nat := 0
  arrived : Bool := false
  sectors : Nat := 0
  /-- Sectors counted, by their number in the scratchpad's user area (R253, R401). -/
  counted : List Nat := []
  todo : List Work := []
  started : Bool := false
  /-- Expected CRC, if any, and the bytes that it covers so far (R264). -/
  crc : Option Word := none
  crcNow : Word := 0xFFFFFFFF
  /-- Scratchpad offsets that a TSTORE reads, in rising order (R264). -/
  reads : List Nat := []
  /-- Suspended by an engine fault (R265); by a fault of its routine, which no resume follows (R400). -/
  suspended : Bool := false
  dead : Bool := false
  /-- Its check has failed, and it completes once its record is written (R386). -/
  failed : Bool := false
  /-- Cancelled by the driver while its cluster was saved (R383): the restore cancels it. -/
  cancelled : Bool := false
  routine : Option Routine := none
  coll : Option (CollOp × Bool) := none
  /-- Lines that a TSTORE has written and whose write-through was held for want of a pool line (R86, R409). -/
  heldBack : List Nat := []
  deriving DecidableEq, Repr

/-- One array instruction of a chain (R273, R276): its operands as they stood at issue (R289), but for the bytes of the
B tile, which its clocks read (R277). -/
structure ArrayInstr where
  pc : PC
  split : Nat := 0
  /-- The m registers that it names, in order. -/
  a : List MReg := []
  /-- The B tile: its slot, its first byte in the user area, the first column. -/
  slot : TileSlot := {}
  base : Nat := 0
  kb : Nat := 0
  mods : ArrayMods := {}
  /-- Valid rows and columns, and the origins under .SEG. -/
  rows : Nat := 0
  cols : Nat := 0
  rowOrg : Nat := 0
  colOrg : Nat := 0
  /-- The snapshot under .SEG (R280). -/
  image : Option ShapeImage := none
  /-- k-steps of the instruction, and those performed. -/
  steps : Nat := 0
  done : Nat := 0
  /-- Its split waits until it has performed (R117). -/
  waits : Bool := false
  deriving DecidableEq, Repr

/-- The kinds of array operation (R274). -/
inductive ArrayPath where
  | float | integer | bfp
  deriving DecidableEq, Repr

/-- A chain of array instructions (R269, R276): its warp, what its first instruction latched, its instructions in order,
and the processing elements. -/
structure Chain where
  wg : Nat
  warp : Nat
  path : ArrayPath := .float
  op : Nat := 0
  cfg : Word := 0
  window : Nat := 0
  /-- P, SPARSE, TRAP and GROUPED, k4n, and the formats of A's bands and of B, which a continuation shares (R276). -/
  mods : ArrayMods := {}
  counts : Word := 0
  fmtA : List (List Nat) := []
  fmtB : List Nat := []
  /-- The spill mode is .TRAP (R117). -/
  trapMode : Bool := false
  /-- Its last clock was the early drain of a spillway stall (R117). -/
  draining : Bool := false
  todo : List ArrayInstr := []
  /-- k-steps performed. -/
  steps : Nat := 0
  /-- The chain still accepts a continuation (its last instruction carried .MORE). -/
  openMore : Bool := false
  suspended : Bool := false
  /-- Stopped because its split is debug-held (R425). -/
  held : Bool := false
  /-- Flags raised by clocks of the instruction that is performed (R112). -/
  flags : BitVec 8 := 0
  /-- The spillway entries of a restored chain that waits for the array (R390). -/
  stash : Sparse (BitVec 24) := []
  /-- PE registers by row × 128 + column: 0 where the output was never admitted, else the register plus 1. -/
  pe : Sparse (BitVec 32) := []
  /-- Outputs that R132 gives the masked value at the end, and SHAPE.MASKV. -/
  masked : List Nat := []
  maskv : Nat := 1
  deriving DecidableEq, Repr

/-- The reuse latch of an array (R289): workgroup, warp, first m register, slabs, load generations. -/
structure ReuseTag where
  wg : Nat
  warp : Nat
  a : Nat
  q : Nat
  gens : List Nat
  deriving DecidableEq, Repr

/-- A port's last issue slot (R412 to R414, R420): the leaf charged, and whether the counters hold it; the split that issued or was
charged; the record fields of its sample; whether the second of a pair is to issue in the same clock (R155), and whether a sample of the
slot is to be written. -/
structure PortSlot where
  leaf : Nat := 13
  counted : Bool := false
  who : Option (Nat × Nat × Nat) := none
  fields : Nat := 0
  pair : Bool := false
  due : Bool := false
  deriving DecidableEq, Repr

/-- A core's debug block (R415 to R424). -/
structure Debug where
  freeze : Bool := false
  cmd : Word := 0
  tgt : DWord := 0
  sel : Word := 0
  addr : DWord := 0
  data : BitVec 128 := 0
  /-- Breakpoints 0 to 7: BPPC and BPCFG. -/
  bppc : Sparse DWord := []
  bpcfg : Sparse Word := []
  trbase : DWord := 0
  trctl : Word := 0
  trprod : Word := 0
  trcons : Word := 0
  trlost : Word := 0
  /-- Records dropped since the last records-lost record (R421). -/
  trdrop : Nat := 0
  /-- Counters by port × 16 + leaf (R413, R415). -/
  counters : Sparse DWord := []
  /-- Clocks of each port since tracing was enabled (R420). -/
  clocks : Sparse Nat := []
  slots : Sparse PortSlot := []
  deriving DecidableEq, Repr

/-- A core (R12, R13). -/
structure Core where
  scratch : Sparse Byte := []
  acc : Sparse Entry := []
  /-- Who used which bytes and windows last: first, one past the last, context (R25). -/
  userOf : List (Nat × Nat × Nat) := []
  windowOf : List (Nat × Nat × Nat) := []
  copies : Sparse LineCopy := []
  unpub : List HeldStore := []
  /-- Stores of the core's warps that are not performed yet, oldest first (R71, R72). -/
  late : List LateStore := []
  releases : List Release := []
  tlb : List TlbEntry := []
  /-- Lines that the copy engine has read ahead of its commands, as they were published then (R85, R92). -/
  ahead : Sparse LineCopy := []
  cmds : List Cmd := []
  /-- Splits that wait for room in the copy queue, longest first: workgroup, warp, split. -/
  copyWait : List (Nat × Nat × Nat) := []
  /-- The chain that holds the array, and those that wait for it, in order (R283). -/
  chain : Option Chain := none
  queue : List Chain := []
  /-- The follower's array and spillway are held by its leader's paired chain (R285). -/
  lent : Bool := false
  latch : Option ReuseTag := none
  /-- Spillway entries, 24 bits each (R115). -/
  spill : Sparse (BitVec 24) := []
  dbg : Debug := {}
  deriving DecidableEq, Repr

/-! ## Contexts, queues, grids (R353 to R368) -/

/-- A context (R353, R379). -/
structure Context where
  created : Bool := false
  suspended : Bool := false
  suspending : Bool := false
  ptroot : Nat := 0
  shape : Nat := 0
  shapeLen : Nat := 0
  ring : Nat := 0
  ringSize : Nat := 0
  readmit : Nat := 0
  csBase : Nat := 0
  csLen : Nat := 0
  asn : Nat := 0
  rprod : Word := 0
  rcons : Word := 0
  lost : Bool := false
  lostCnt : Nat := 0
  rcfg : Word := 0
  wgcmd : Word := 0
  wgarg : Word := 0
  svbase : DWord := 0
  svlen : DWord := 0
  svused : DWord := 0
  /-- Records that wait to be written, in order; written records with a held subject by ring index (R380 to R382). -/
  pending : List TrapRec := []
  held : List (Nat × TrapRec) := []
  deriving DecidableEq, Repr

/-- A timeline (R84): its counter, the last number given out, completed numbers above the counter. -/
structure Timeline where
  count : Nat := 0
  last : Nat := 0
  done : List Nat := []
  deriving DecidableEq, Repr

/-- A wait-list entry of a FENCE (R363). -/
structure FenceEntry where
  addr : Nat
  value : DWord
  satisfied : Bool := false
  deriving DecidableEq, Repr

/-- An aligned double-word of device memory as a write to it left it, with the key of its line (R60). -/
structure Noted where
  addr : Nat
  word : DWord
  key : Option (BitVec 512)
  deriving DecidableEq, Repr

/-- A parsed packet that is in progress (R360). -/
structure Packet where
  type : Nat
  number : Nat
  words : BitVec 512
  /-- Bytes done (HOSTCOPY, FLUSH), or 1 once a SIGNAL's atomic is performed. -/
  progress : Nat := 0
  suspended : Bool := false
  cancelled : Bool := false
  /-- The source bytes of a HOSTCOPY as they are read for memmove (R365). -/
  latched : List Byte := []
  deriving DecidableEq, Repr

/-- A queue (R357). -/
structure Queue where
  base : DWord := 0
  cfg : Word := 0x00000100
  wptr : Word := 0
  rptr : Word := 0
  stop : Bool := false
  fwait : Bool := false
  err : Nat := 0
  /-- Round-robin credit (R367), and the queue's wait list. -/
  credit : Option Nat := none
  fence : List FenceEntry := []
  packets : List Packet := []
  deriving DecidableEq, Repr

/-- A grid in progress (R362): the LAUNCH of a queue, its banks, and how many workgroups have been admitted and have
exited. -/
structure Grid where
  live : Bool := false
  queue : Nat := 0
  number : Nat := 0
  ctx : Nat := 0
  prio : Nat := 0
  kdesc : BitVec 1024 := 0
  code : Nat := 0
  count : Nat := 0
  size : Nat := 1
  admitted : Nat := 0
  exited : Nat := 0
  /-- Bank words by bank × 16384 + offset (R51). -/
  banks : Sparse Word := []
  deriving DecidableEq, Repr

/-- A resident cluster (R48, R368): its members by rank, order of admission, time of readmission. -/
structure Cluster where
  live : Bool := false
  grid : Nat := 0
  ctx : Nat := 0
  prio : Nat := 0
  die : Nat := 0
  wgs : List Nat := []
  order : Nat := 0
  readmitted : Option Nat := none
  preempting : Bool := false
  /-- The place of the images of a cluster that is being pre-empted (R387). -/
  place : Nat := 0
  /-- Nodes of CLUSTER barriers by number (R189), and barriers being converted (R191). -/
  nodes : Sparse Barrier := []
  converting : List (Nat × Nat × LaneMask) := []
  deriving DecidableEq, Repr

/-- What a save holds of one workgroup beside the workgroup itself (R389). -/
structure Image where
  wg : Nat
  wgState : Workgroup
  scratch : List Byte
  acc : Sparse Entry
  accF : Sparse Entry
  chain : Option Chain
  queue : List Chain
  spill : Sparse (BitVec 24)
  cmds : List Cmd
  deriving DecidableEq, Repr

/-- A saved cluster (R387 to R390). -/
structure Saved where
  cluster : Cluster
  images : List Image
  time : Nat
  /-- Its place in the save area (R387), and the draw that names its bytes (log entry 14). -/
  base : Nat
  bytes : Nat
  draw : Nat := 0
  overstays : Bool := false
  deriving DecidableEq, Repr

/-- An access that waits for a walk: the split, the kind of access, the lane and the address. -/
structure WalkRef where
  core : Nat
  wg : Nat
  warp : Nat
  split : Nat
  access : Access
  lane : Nat
  va : Nat
  deriving DecidableEq, Repr

/-- A walk for the translation of one page (R57): the context, die and address, whether it is for a write, the
accesses that wait, and the copy engines that wait with them, by core and kind of access. -/
structure Walk where
  ctx : Nat
  die : Nat
  va : Nat
  write : Bool
  who : List WalkRef
  ports : List (Nat × Access) := []
  deriving DecidableEq, Repr

/-- An invalidation in progress (R58): context, page or everything, and the split that waits or the driver. -/
structure Inval where
  ctx : Nat
  page : Option Nat
  who : Option (Nat × Nat × Nat)
  deriving DecidableEq, Repr

/-! ## Memory of the package, fleet state -/

/-- A line held in L2 (R14, R61, R66). -/
structure L2Line where
  live : Bool := false
  data : CacheLine := 0
  dirty : Bool := false
  /-- The key that encrypts the line on its way to HBM (R59, R60). -/
  key : Option (BitVec 512) := none
  /-- The page's DEDUP and COMPRESS attributes at its last write (R405, R408). -/
  dedup : Bool := false
  compress : Bool := false
  deriving DecidableEq, Repr

/-- A loaded routine (R392). -/
structure RoutineEntry where
  valid : Bool := false
  id : Nat := 0
  ver : Nat := 0
  bytes : List Byte := []
  deriving DecidableEq, Repr

/-- The deduplication window of a die (R406 to R409). -/
structure Dedup where
  ctl : Word := 0
  irq : Word := 0
  win : DWord := 0
  wlen : DWord := 0
  area : DWord := 0
  pool : DWord := 0
  low : DWord := 0
  free : DWord := 0
  shared : DWord := 0
  mapped : DWord := 0
  sat : DWord := 0
  miss : DWord := 0
  /-- Window line: pool line plus 1, or 0 for an empty line. -/
  map : Sparse Nat := []
  /-- The key under which a window line was written, if any (R60). -/
  keys : Sparse (Option (BitVec 512)) := []
  /-- The pool line that became a candidate last, and TIME then (R410). -/
  fresh : Option (Nat × DWord) := none
  /-- Pool lines: reference count and content. -/
  refs : Sparse Nat := []
  content : Sparse CacheLine := []
  /-- Hash: candidate pool line plus 1, or 0. -/
  cand : Sparse Nat := []
  /-- The low-water interrupt has been signalled (R409). -/
  signalled : Bool := false
  /-- Write-backs that wait for a pool line (R409). -/
  heldLines : List Nat := []
  deriving DecidableEq, Repr

/-- Life-cycle states (R427, R439). -/
inductive Life where
  | develop | production | returned
  deriving DecidableEq, Repr

/-- The fleet-facing registers, and what is fused or kept in flash (R429 to R447). -/
structure Fleet where
  /-- The headgate: owner, target of a pending hand-over, HGOWN.EPOCH, each master's HGRES, HGMBOX and HGMSRC (R430). -/
  owner : Option Master := none
  pendTo : Option Master := none
  epoch : BitVec 16 := 0
  results : Sparse Word := []
  mbox : Sparse Word := []
  mboxSrc : Word := 0
  /-- The step of the boot that failed (R434, R435); 0 while the firmware runs. -/
  recovery : Nat := 0
  /-- FW.SVN of the running image, and the fused floor (R433). -/
  svn : Nat := 0
  floor : Nat := 0
  flash : List Byte := Config.flash0
  rcvAddr : DWord := 0
  rcvLen : Word := 0
  rcvCmd : Word := 0
  attNonce : BitVec 256 := 0
  attAddr : DWord := 0
  attCmd : Word := 0
  meas : Sparse (BitVec 256) := []
  /-- The next one-time leaf of the attestation key, and how many leaves flash holds as reserved (R437). -/
  signatures : Nat := 0
  reserved : Nat := 0
  /-- Values drawn from the random source, since manufacture. -/
  drawn : Nat := 0
  /-- The key slots (R438), none where cleared. -/
  keyAddr : DWord := 0
  keyCmd : Word := 0
  keys : Sparse (Option (BitVec 512)) := []
  /-- The fused life-cycle state, the features that permits have opened, the nonce (R427, R439 to R442). -/
  life : Life := .production
  features : BitVec 4 := 0
  pmtNonce : Option (BitVec 256) := none
  pmtAddr : DWord := 0
  pmtCmd : Word := 0
  /-- The header of a permit whose apply is in progress, and whether the state is to advance (R442). -/
  permit : Option (BitVec 512 × Bool) := none
  pwrlim : Word := 1800
  locked : Bool := false
  pwrnow : Word := 0
  clknow : Word := 1500
  thrcnt : DWord := 0
  tempmax : Word := 0
  /-- Corrected errors by structure (R444), and UALink stations in use (R445). -/
  corrected : Sparse DWord := []
  stations : Nat := 16
  /-- The device has stopped, and only a reset recovers it (R445, R447). -/
  stopped : Bool := false
  deriving DecidableEq, Repr

/-- How a host or peer access completed (R351, R445). -/
inductive AccessEnd where
  | done | poisoned | unsupported
  deriving DecidableEq, Repr

/-! ## The model's own fields -/

/-- The split that issues, by workgroup, warp and split. -/
structure Cur where
  wg : Nat := 0
  warp : Nat := 0
  split : Nat := 0
  /-- Its effective priority at issue (R371). -/
  prio : Nat := 0
  deriving DecidableEq, Repr

/-- What happens next (log entry 2): a port of a core picks a split and it issues; another agent makes a step; time
passes. -/
inductive Action where
  | pick (core port : Nat)
  | event (i : Instr)
  | elapse (ns : Nat)
  /-- The lanes of a set leave the accesses of the next store instruction unperformed; a late store of a core is performed; the
  stores that a core's narrow releases have published reach the other die, all of them or those of one line; a copy engine reads a line
  ahead; a master reads a register of BAR0 (R352). -/
  | delay (lanes : LaneMask)
  | perform (core ix : Nat)
  | reach (core : Nat)
  | reachLine (core line : Nat)
  | engineHold (core line : Nat)
  | registerRead (m : Master) (off n : Nat)
  /-- The core of a routine runs an instruction, or stalls for a cycle (R396). -/
  | routine (core ix : Nat)
  /-- A copy engine reads one word of the scratchpad that a command stores, before the rest (R88). -/
  | engineRead (core ix word : Nat)
  deriving DecidableEq, Repr

/-- The whole machine. -/
structure State where
  /-- Physical memory (R52): bytes at addresses, canonical (`Mem.wf`). -/
  mem : List Host.Cell := []
  /-- The key under which a line of HBM was written (R60), if any. -/
  enc : Sparse (Option (BitVec 512)) := []
  /-- Poisoned lines (R445), with the code of the structure that was struck (R444). -/
  poison : List (Nat × Nat) := []
  l2 : Sparse L2Line := []
  cores : Sparse Core := []
  wgs : Sparse Workgroup := []
  grids : Sparse Grid := []
  clusters : Sparse Cluster := []
  saved : List Saved := []
  ctxs : Sparse Context := []
  queues : Sparse Queue := []
  /-- Timelines by context and engine identifier (R174): context × 2^32 + identifier. -/
  timelines : Sparse Timeline := []
  walks : List Walk := []
  invals : List Inval := []
  /-- Published bytes that one die does not see yet (R77), in the order of their publications. -/
  behind : List Behind := []
  /-- What the writes of the act under way left, where some FENCE waits (R363); empty between steps. -/
  noted : List Noted := []
  /-- Queue served last (R367); 0 after reset, so that queue 1 comes before queue 0 (DESIGN CHOICE, log entry 88). -/
  served : Nat := 0
  ctxtab : DWord := 0
  ctxcmd : Word := 0
  tlbcmd : Word := 0
  tlbva : DWord := 0
  rtcmd : Word := 0
  rtaddr : DWord := 0
  routines : Sparse RoutineEntry := []
  /-- COMPCTL of each die, and the crossings of slice interfaces (R404) by line × 5 + counter: a die's counter is their sum over the
  lines whose home slice is on the die. -/
  compctl : Sparse Word := []
  compcnt : Sparse DWord := []
  dedup : Sparse Dedup := []
  fleet : Fleet := {}
  /-- MSI-X (R351, R352): the vectors whose messages were sent, newest first; the table, whose entries are masked where nothing is
  listed; the pending bits. -/
  msix : List Nat := []
  msixTable : Sparse (BitVec 128) := []
  msixPending : Sparse Bool := []
  time : DWord := 0
  /-- The model's own (log entries 2 and 3): what happens next, turn of the default schedule, issuing split, number of
  the next workgroup, grid and cluster, counters for free values and for time of readiness, data and end of the last access from outside. -/
  agenda : List Action := []
  turn : Nat := 0
  /-- The lanes whose accesses the next store instruction leaves unperformed (log entry 69). -/
  lag : LaneMask := 0
  cur : Cur := {}
  nextId : Nat := 0
  tick : Nat := 0
  draws : Nat := 0
  readData : List Byte := []
  readEnd : AccessEnd := .done
  deriving DecidableEq, Repr

/-- What an unlisted address of memory reads as (log entry 1). -/
def memDefault (_ : Nat) : Byte := Config.memDefault

/-- Memory is in its one canonical form: addresses rise, and no entry equals what an unlisted address reads as. -/
abbrev Mem.wf (m : List Host.Cell) : Bool := swf memDefault m

/-- The machine right after reset (R433 and the reset columns of the register tables): every field at its default above.
Routine 0 is the device's plain copy (R260, R392), and the compression control of each die is 0x0000000F (R404). -/
def State.reset : State :=
  { routines := [(0, { valid := true })], compctl := [] }

end Sys2Proof.Machine
end

