-- ==== Sys2Proof/Machine/Mem.lean ====
section
/-! DEFINITION. Access to the parts of the state, and memory: HBM, L2, copies in the cores, unpublished stores (R52, R59 to R66). -/
namespace Sys2Proof.Machine

/-! ## Parts of the state -/

/-- A workgroup by its number. -/
def State.wg (s : State) (w : Nat) : Workgroup := sget (fun _ => {}) s.wgs w
/-- The state with a workgroup replaced. -/
def State.setWg (s : State) (w : Nat) (x : Workgroup) : State := { s with wgs := sset (fun _ => {}) s.wgs w x }
/-- The state with a workgroup changed. -/
def State.updWg (s : State) (w : Nat) (f : Workgroup → Workgroup) : State := s.setWg w (f (s.wg w))
/-- A warp of a workgroup. -/
def Workgroup.warp (g : Workgroup) (n : Nat) : Warp := sget (fun _ => {}) g.warps n
/-- The workgroup with a warp replaced. -/
def Workgroup.setWarp (g : Workgroup) (n : Nat) (x : Warp) : Workgroup := { g with warps := sset (fun _ => {}) g.warps n x }
/-- A split of a warp. -/
def Warp.split (w : Warp) (n : Nat) : Split := sget (fun _ => {}) w.splits n
/-- The warp with a split replaced. -/
def Warp.setSplit (w : Warp) (n : Nat) (x : Split) : Warp := { w with splits := sset (fun _ => {}) w.splits n x }
/-- A warp by workgroup and WARPID. -/
def State.warp (s : State) (g w : Nat) : Warp := (s.wg g).warp w
/-- The state with a warp changed. -/
def State.updWarp (s : State) (g w : Nat) (f : Warp → Warp) : State := s.updWg g fun x => x.setWarp w (f (x.warp w))
/-- A split by workgroup, WARPID and index. -/
def State.split (s : State) (g w n : Nat) : Split := (s.warp g w).split n
/-- The state with a split changed. -/
def State.updSplit (s : State) (g w n : Nat) (f : Split → Split) : State :=
  s.updWarp g w fun x => x.setSplit n (f (x.split n))
/-- Does another split of the warp run its handler, so that this one keeps its state (R377)? -/
def Warp.siblingHandler (w : Warp) (n : Nat) : Bool := [0, 1, 2, 3].any fun m => m != n && (w.split m).live && (w.split m).handler
/-- The same for a split of the state. -/
def State.frozen (s : State) (g w n : Nat) : Bool := (s.warp g w).siblingHandler n
/-- A core. -/
def State.core (s : State) (c : Nat) : Core := sget (fun _ => {}) s.cores c
/-- The state with a core changed. -/
def State.updCore (s : State) (c : Nat) (f : Core → Core) : State :=
  { s with cores := sset (fun _ => {}) s.cores c (f (s.core c)) }
/-- A context. -/
def State.ctx (s : State) (n : Nat) : Context := sget (fun _ => {}) s.ctxs n
/-- The state with a context changed. -/
def State.updCtx (s : State) (n : Nat) (f : Context → Context) : State :=
  { s with ctxs := sset (fun _ => {}) s.ctxs n (f (s.ctx n)) }
/-- A queue. -/
def State.queue (s : State) (n : Nat) : Queue := sget (fun _ => {}) s.queues n
/-- The state with a queue changed. -/
def State.updQueue (s : State) (n : Nat) (f : Queue → Queue) : State :=
  { s with queues := sset (fun _ => {}) s.queues n (f (s.queue n)) }
/-- A grid in progress. -/
def State.grid (s : State) (n : Nat) : Grid := sget (fun _ => {}) s.grids n
/-- The state with a grid changed. -/
def State.updGrid (s : State) (n : Nat) (f : Grid → Grid) : State :=
  { s with grids := sset (fun _ => {}) s.grids n (f (s.grid n)) }
/-- A resident cluster. -/
def State.cluster (s : State) (n : Nat) : Cluster := sget (fun _ => {}) s.clusters n
/-- The state with a cluster changed. -/
def State.updCluster (s : State) (n : Nat) (f : Cluster → Cluster) : State :=
  { s with clusters := sset (fun _ => {}) s.clusters n (f (s.cluster n)) }
/-- The timeline of engine `id` (R174) in a context. -/
def State.timeline (s : State) (ctx id : Nat) : Timeline := sget (fun _ => {}) s.timelines (ctx * 2 ^ 32 + id)
/-- The state with a timeline changed. -/
def State.updTimeline (s : State) (ctx id : Nat) (f : Timeline → Timeline) : State :=
  { s with timelines := sset (fun _ => {}) s.timelines (ctx * 2 ^ 32 + id) (f (s.timeline ctx id)) }
/-- The deduplication logic of a die. -/
def State.dd (s : State) (die : Nat) : Dedup := sget (fun _ => {}) s.dedup die
/-- The state with the deduplication logic of a die changed. -/
def State.updDd (s : State) (die : Nat) (f : Dedup → Dedup) : State :=
  { s with dedup := sset (fun _ => {}) s.dedup die (f (s.dd die)) }

/-! ## The physical map (R52) -/

/-- Is the address in HBM? -/
def isHbm (pa : Nat) : Bool := pa < Config.hbmBytes
/-- Is it in the cistern? -/
def isCistern (pa : Nat) : Bool := Config.cisternBase ≤ pa && pa < Config.cisternBase + Config.cisternBytes
/-- Is it in the host coherent window? -/
def isWindow (pa : Nat) : Bool := Config.windowBase ≤ pa && pa < Config.windowBase + Config.windowBytes
/-- Is it peer memory? -/
def isPeer (pa : Nat) : Bool := Config.peerBase ≤ pa && pa < Config.hostBase
/-- Is it host memory? -/
def isHost (pa : Nat) : Bool := Config.hostBase ≤ pa && pa < Config.physEnd
/-- Does it lie in a row of R52? -/
def isMapped (pa : Nat) : Bool := isHbm pa || isCistern pa || isWindow pa || isPeer pa || isHost pa
/-- May L1 hold it (R52)? -/
def isCached (pa : Nat) : Bool := isHbm pa || isCistern pa
/-- The die whose HBM or cistern half an address is in. -/
def dieOf (pa : Nat) : Nat :=
  if isHbm pa then (if pa < Config.dieHbmBytes then 0 else 1)
  else if isCistern pa then (if pa < Config.cisternBase + Config.cisternBytes / 2 then 0 else 1) else 0
/-- The line of an address. -/
def lineOf (pa : Nat) : Nat := pa / 128

/-! ## Bytes and lines -/

/-- A byte of a number, by rising significance (R7). -/
def byteAt (x n : Nat) : Byte := BitVec.ofNat 8 (x / 2 ^ (8 * n))
/-- The bytes of an `n`-byte number, low first (R7). -/
def toBytes (n x : Nat) : List Byte := (List.range n).map (byteAt x)
/-- The number that bytes hold, low first (R7). -/
def ofBytes : List Byte → Nat
  | [] => 0
  | b :: r => b.toNat + 256 * ofBytes r
/-- Byte `i` of a cache line. -/
def lineByte (l : CacheLine) (i : Nat) : Byte := l.extractLsb' (8 * i) 8
/-- A cache line with byte `i` replaced. -/
def setLineByte (l : CacheLine) (i : Nat) (b : Byte) : CacheLine :=
  (l &&& ~~~((0xff : CacheLine) <<< (8 * i))) ||| ((b.setWidth 1024) <<< (8 * i))

/-- What memory holds at an address, beneath every cache. -/
def State.memByte (s : State) (pa : Nat) : Byte := sget memDefault s.mem pa
/-- Memory with one byte written. -/
def State.setMemByte (s : State) (pa : Nat) (b : Byte) : State := { s with mem := sset memDefault s.mem pa b }

/-- The die whose deduplication window holds the line, if one does (R406, R407). -/
def State.windowDie (s : State) (pa : Nat) : Option Nat :=
  [0, 1].find? fun die =>
    let d := s.dd die
    d.ctl.getLsbD 0 && d.win.toNat ≤ pa && pa < d.win.toNat + d.wlen.toNat

/-- Is the address in an area that only deduplication may access (R407)? -/
def State.inDedupArea (s : State) (pa : Nat) : Bool :=
  [0, 1].any fun die =>
    let d := s.dd die
    d.ctl.getLsbD 0 && d.area.toNat ≤ pa && pa < d.area.toNat + d.pool.toNat * 144 + d.wlen.toNat / 16

/-- Does a range of addresses meet such an area? -/
def State.meetsArea (s : State) (pa n : Nat) : Bool :=
  [0, 1].any fun die =>
    let d := s.dd die
    d.ctl.getLsbD 0 && d.area.toNat < pa + n && pa < d.area.toNat + d.pool.toNat * 144 + d.wlen.toNat / 16

/-- A byte of HBM itself. Where a saved image lies, the manual gives it no layout (R389, log entry 14). -/
def State.dramByte (s : State) (pa : Nat) : Byte :=
  match s.saved.find? fun x => x.base ≤ pa && pa < x.base + x.bytes with
  | some x => Config.imageByte x.draw (pa - x.base)
  | none => s.memByte pa

/-- What HBM holds at an address, through the deduplication map (R407). -/
def State.hbmByte (s : State) (pa : Nat) : Byte :=
  match s.windowDie pa with
  | none => s.dramByte pa
  | some die =>
    let d := s.dd die
    match sget (fun _ => 0) d.map (lineOf pa) with
    | 0 => 0
    | n + 1 => lineByte (sget (fun _ => 0) d.content n) (pa % 128)

/-- The bytes of a line of HBM, as one number. -/
def lineOfBytes (f : Nat → Byte) : CacheLine :=
  BitVec.ofNat 1024 (ofBytes ((List.range 128).map f))

/-- A line as the home slice holds it: L2 first, then HBM; the cistern in its SRAM. Its bytes are as they were
written: a reader with another key sees them through `decrypt`. -/
def State.slicePlain (s : State) (line : Nat) : CacheLine :=
  if isHbm (line * 128) then
    let c := sget (fun _ => ({} : L2Line)) s.l2 line
    if c.live then c.data else lineOfBytes fun i => s.hbmByte (line * 128 + i)
  else lineOfBytes fun i => s.memByte (line * 128 + i)

/-- The published byte at an address (R61, R64). -/
def State.homePlain (s : State) (pa : Nat) : Byte :=
  if isHbm pa then
    let c := sget (fun _ => ({} : L2Line)) s.l2 (lineOf pa)
    if c.live then lineByte c.data (pa % 128) else s.hbmByte pa
  else s.memByte pa

/-- The key under which the content that HBM holds of a line was written, if any (R59, R60). -/
def State.hbmKey (s : State) (line : Nat) : Option (BitVec 512) :=
  match s.windowDie (line * 128) with
  | some die => sget (fun _ => none) (s.dd die).keys line
  | none => sget (fun _ => none) s.enc line

/-- The state with another key as the one of a line's content in HBM. -/
def State.setHbmKey (s : State) (line : Nat) (key : Option (BitVec 512)) : State :=
  match s.windowDie (line * 128) with
  | some die => s.updDd die fun d => { d with keys := sset (fun _ => none) d.keys line key }
  | none => { s with enc := sset (fun _ => none) s.enc line key }

/-- The key under which a line's published content was written, if any (R60): that of the L2 line, or of HBM. Encryption is on
the way to HBM only (R59), so no line elsewhere has one. -/
def State.lineKey (s : State) (line : Nat) : Option (BitVec 512) :=
  if isHbm (line * 128) then
    let c := sget (fun _ => ({} : L2Line)) s.l2 line
    if c.live then c.key else s.hbmKey line
  else none

/-- A byte written under key `k` as a reader with key `key` sees it (R60): the ciphertext of the one, decrypted with the other. -/
def reKey (k key : Option (BitVec 512)) (pa : Nat) (b : Byte) : Byte := if k = key then b else Config.xtsGarble k key pa b

/-- A line written under key `k` as a reader with key `key` sees it. -/
def reKeyLine (k key : Option (BitVec 512)) (line : Nat) (d : CacheLine) : CacheLine :=
  if k = key then d else lineOfBytes fun i => reKey k key (line * 128 + i) (lineByte d i)

/-- The published byte at an address, read with a key. -/
def State.homeByte (s : State) (key : Option (BitVec 512)) (pa : Nat) : Byte := reKey (s.lineKey (lineOf pa)) key pa (s.homePlain pa)

/-- The published line, read with a key. -/
def State.homeLine (s : State) (key : Option (BitVec 512)) (line : Nat) : CacheLine :=
  reKeyLine (s.lineKey line) key line (s.slicePlain line)

/-! ## Reads of what HBM holds beneath L2 (R66, R358, log entry 72) -/

/-- Does L2 hold a device's store to the line that HBM does not hold? -/
def State.dirtyLine (s : State) (line : Nat) : Bool :=
  let c := sget (fun _ => ({} : L2Line)) s.l2 line
  isHbm (line * 128) && c.live && c.dirty

/-- A byte as it was written last, by the device or by the host, as the command processor, the firmware and the walkers read it. -/
def State.rawByte (s : State) (pa : Nat) : Byte :=
  if isHbm pa && !s.dirtyLine (lineOf pa) then s.hbmByte pa else s.homePlain pa

/-- The key under which it was written. -/
def State.rawKey (s : State) (line : Nat) : Option (BitVec 512) :=
  if isHbm (line * 128) && !s.dirtyLine line then s.hbmKey line else s.lineKey line

/-- Such bytes, read without a key. -/
def State.rawRead (s : State) (pa n : Nat) : List Byte :=
  (List.range n).map fun i => reKey (s.rawKey (lineOf (pa + i))) none (pa + i) (s.rawByte (pa + i))

/-- May firmware or the command processor access a range: it lies in rows of R52, and not where only deduplication may access (R407)? -/
def State.firmMay (s : State) (a n : Nat) : Bool := isMapped a && isMapped (a + (n - 1)) && !s.meetsArea a n

/-- A line that L2 holds clean is read from HBM anew. -/
def State.refetch (s : State) (line : Nat) : State :=
  let c := sget (fun _ => ({} : L2Line)) s.l2 line
  if isHbm (line * 128) && c.live && !c.dirty then { s with l2 := sset (fun _ => {}) s.l2 line {} } else s

/-- Every core's copy of the line marked pending, but for one core (R61). -/
def State.markPending (s : State) (line : Nat) (except : Option Nat) : State :=
  { s with cores := s.cores.map fun (n, c) =>
      let l := sget (fun _ => ({} : LineCopy)) c.copies line
      if l.live && some n != except then (n, { c with copies := sset (fun _ => {}) c.copies line { l with pending := true } })
      else (n, c) }

/-- One byte written at the home slice (R61, R63, R86), without marking copies: into L2 for HBM, where it is dirty until
a write-back; directly elsewhere. Where the line was written under another key, all of it is the line under the writer's key
from then on, and its other bytes stay as that key reads them (log entry 67). -/
def State.setHomeByte (s : State) (a : PageAttr) (pa : Nat) (b : Byte) : State :=
  if isHbm pa then
    let line := lineOf pa
    let data := s.homeLine a.key line
    let c : L2Line :=
      { live := true, data := setLineByte data (pa % 128) b, dirty := true, key := a.key, dedup := a.dedup, compress := a.compress }
    { s with l2 := sset (fun _ => {}) s.l2 line c }
  else s.setMemByte pa b

/-- Bytes written from an address on, each where it lives. -/
def State.setHomeBytes (s : State) (a : PageAttr) (pa : Nat) : List Byte → State
  | [] => s
  | b :: r => State.setHomeBytes (s.setHomeByte a pa b) a (pa + 1) r

/-- The states that a directory gives a line (R61). -/
inductive DirState where
  | modified | exclusive | shared
  deriving DecidableEq, Repr

/-- The holders that the directory of a line's home slice knows (R61): the cores with a copy, in L1 or retained (R62), or with a
store to it that no release has published (R63). -/
def State.holders (s : State) (line : Nat) : List Nat :=
  (s.cores.filter fun p =>
    (sget (fun _ => ({} : LineCopy)) p.2.copies line).live || p.2.unpub.any fun h => lineOf h.addr == line).map (·.1)

/-- The directory's state of a line (R61), none where no core holds it: Modified for a single holder with stores of its own to it,
Exclusive for a single holder without, else Shared (log entry 70). -/
def State.directory (s : State) (line : Nat) : Option DirState :=
  match s.holders line with
  | [] => none
  | [c] => some (if (s.core c).unpub.any fun h => lineOf h.addr == line then .modified else .exclusive)
  | _ => some .shared

/-- A write that becomes visible at the home slice (R61): every copy but that of core `except` becomes pending, for each
line of the range. -/
def State.publish (s0 : State) (a : PageAttr) (except : Option Nat) (pa : Nat) (bs : List Byte) : State :=
  let s := { s0 with behind := s0.behind.filter fun b => !(pa ≤ b.addr && b.addr < pa + bs.length) }
  let s1 := s.setHomeBytes a pa bs
  if isCached pa then
    (List.range ((pa % 128 + bs.length + 127) / 128)).foldl (fun t i => t.markPending (lineOf pa + i) except) s1
  else s1

/-- The aligned double-words that a write at home slices has touched are noted as it left them, where some FENCE waits: it reads a counter
again at every write (R363), and one act may make several. -/
def State.note (s : State) (pa n : Nat) : State :=
  if s.queues.any fun q => q.2.fwait then
    { s with noted := s.noted ++ (List.range ((pa % 8 + n + 7) / 8)).map fun i =>
        let a := pa / 8 * 8 + 8 * i
        { addr := a, word := BitVec.ofNat 64 (ofBytes ((List.range 8).map fun j => s.homePlain (a + j))), key := s.lineKey (lineOf a) } }
  else s

/-- A read of published bytes (R64, R85). -/
def State.homeRead (s : State) (key : Option (BitVec 512)) (pa n : Nat) : List Byte :=
  (List.range n).map fun i => s.homeByte key (pa + i)

/-! ## A core's view (R62, R63, R79) -/

/-- The newest unpublished store of the core to an address. -/
def Core.heldStore (c : Core) (pa : Nat) : Option HeldStore := c.unpub.find? fun h => h.addr == pa
/-- Its byte. -/
def Core.heldByte (c : Core) (pa : Nat) : Option Byte := (c.heldStore pa).map (·.byte)

/-- What a load of the core returns for a byte: the core's newest unpublished store, else the copy it holds, else the
published value (R62, R79), each as the reader's key decrypts it (R60). -/
def State.coreByte (s : State) (core : Nat) (key : Option (BitVec 512)) (pa : Nat) : Byte :=
  let c := s.core core
  match c.heldStore pa with
  | some h => reKey h.attr.key key pa h.byte
  | none =>
    let l := sget (fun _ => ({} : LineCopy)) c.copies (lineOf pa)
    if l.live then reKey l.key key pa (lineByte l.data (pa % 128)) else s.homeByte key pa

/-- COMPCTL of a die, with its reset value (R404). -/
def State.compCtl (s : State) (die : Nat) : Word := sget (fun _ => 0xF) s.compctl die

/-- In how many flits a line of a COMPRESS page crosses (R405): what the allowed pattern gives that needs the fewest, and 4 where
compression is off or no allowed pattern brings it below; the manual does not define the patterns (log entry 16). -/
def State.flitsOf (s : State) (die : Nat) (data : CacheLine) : Nat :=
  let ctl := s.compCtl die
  if ctl.getLsbD 0 then
    ((List.range 3).filter fun p => ctl.getLsbD (p + 1)).foldl (fun n p => min n (1 + Config.flits p data % 4)) 4
  else 4

/-- The die of a line's home slice. Which of the package's 128 slices that is, the manual leaves to a hash (R14, R52, log entry 66). -/
def homeDie (line : Nat) : Nat := (Config.homeSlice line).val / 64

/-- A line crosses the interface of its home slice, and a counter of that slice's die advances (R404). -/
def State.cross (s : State) (compress : Bool) (line : Nat) (data : CacheLine) : State :=
  if isHbm (line * 128) then
    let ix := line * 5 + (if compress then s.flitsOf (homeDie line) data - 1 else 4)
    { s with compcnt := sset (fun _ => 0) s.compcnt ix (sget (fun _ => 0) s.compcnt ix + 1) }
  else s

/-- The lines of a range without COMPRESS cross their slice interfaces (R404). -/
def State.crossRange (s : State) (pa n : Nat) : State :=
  (List.range ((pa % 128 + n + 127) / 128)).foldl (fun t i => t.cross false (lineOf pa + i) (t.slicePlain (lineOf pa + i))) s

/-- Counter `k` of a die, 0 to 4 for CLINES1 to CPLAIN (R404). -/
def State.compCount (s : State) (die k : Nat) : DWord :=
  (s.compcnt.filter fun p => p.1 % 5 == k && homeDie (p.1 / 5) == die).foldl (fun n p => n + p.2) 0

/-- A published line as the cores of a die get it: bytes that have not reached the die yet are as they were before the first of the
publications that have not (R77). -/
def State.dieView (s : State) (die line : Nat) : CacheLine :=
  (s.behind.filter fun b => b.die == die && lineOf b.addr == line).foldr
    (fun b d => setLineByte d (b.addr % 128) (reKey b.key (s.lineKey line) b.addr b.byte)) (s.slicePlain line)

/-- The core takes a copy of a line, if it holds none (R61). -/
def State.takeCopy (s : State) (core : Nat) (a : PageAttr) (line : Nat) : State :=
  let l := sget (fun _ => ({} : LineCopy)) (s.core core).copies line
  if l.live then s
  else
    let data := s.dieView (core / Config.coresPerDie) line
    (s.cross a.compress line data).updCore core fun c =>
      { c with copies := sset (fun _ => {}) c.copies line { live := true, data := data, key := s.lineKey line } }

/-- A store that stays on the core until a release publishes it (R63). -/
def State.holdStore (s : State) (a : PageAttr) (core wg pa : Nat) : List Byte → State
  | [] => s
  | b :: r =>
    State.holdStore
      (s.updCore core fun c =>
        { c with unpub := { addr := pa, byte := b, wg := wg, attr := a } :: c.unpub.filter fun h => !(h.addr == pa && h.wg == wg) })
      a core wg (pa + 1) r

/-- Every pending copy of the core is discarded, and every copy kept for it at a home slice is freed: what an acquire
does (R62). The core's copy engine reads no line of before either (R85). -/
def State.acquire (s : State) (core : Nat) : State :=
  s.updCore core fun c => { c with copies := c.copies.filter (fun p => !p.2.pending && p.2.inL1), ahead := [] }

/-- Publication of held stores, oldest first (R63, R76): each goes to its home slice, the copy of the core itself is
kept up to date, and the other holders' copies become pending. -/
def State.publishHeld (s : State) (core : Nat) : List HeldStore → State
  | [] => s
  | h :: r =>
    let s1 := s.publish h.attr (some core) h.addr [h.byte]
    let s2 := s1.updCore core fun c =>
      let l := sget (fun _ => ({} : LineCopy)) c.copies (lineOf h.addr)
      if l.live then
        let d := reKeyLine l.key h.attr.key (lineOf h.addr) l.data
        { c with copies := sset (fun _ => {}) c.copies (lineOf h.addr)
                   { l with data := setLineByte d (h.addr % 128) h.byte, key := h.attr.key } }
      else c
    State.publishHeld s2 core r

/-- The lines of the held stores that L1 still has, each once: those of an unpublished version are at their home slices already. -/
def heldLines (l : List HeldStore) : List (Nat × Bool) :=
  ((l.filter fun h => !h.evicted).map fun h => (lineOf h.addr, h.attr.compress)).eraseDups

/-- Poison of the lines that some writes, made as one, cover whole is cleared; partial writes leave it (R445). -/
def State.clearCovered (s : State) (rs : List (Nat × Nat)) : State :=
  if rs.isEmpty then s
  else
    { s with poison := s.poison.filter fun p =>
        !((List.range 128).all fun i => rs.any fun r => r.1 ≤ p.1 * 128 + i && p.1 * 128 + i < r.1 + r.2) }

/-- Poison of the lines that one write covers whole is cleared. -/
def State.clearPoison (s : State) (pa n : Nat) : State := s.clearCovered [(pa, n)]

/-- The held stores of a workgroup on a core, oldest first. -/
def Core.heldOf (c : Core) (wg : Nat) : List HeldStore := (c.unpub.filter fun h => h.wg == wg).reverse

/-- Every store of a workgroup that its core holds is published (R63, R76), a line's as one write (R445). -/
def State.release (s : State) (core wg : Nat) : State :=
  let mine := (s.core core).heldOf wg
  let s1 := (heldLines mine).foldl (fun t l => t.cross l.2 l.1 (t.slicePlain l.1)) (s.publishHeld core mine)
  let s2 := s1.clearCovered (mine.map fun h => (h.addr, 1))
  (mine.foldl (fun t h => t.note h.addr 1) s2).updCore core fun c => { c with unpub := c.unpub.filter (fun h => h.wg != wg), ahead := [] }

/-- What a release at CLUSTER or DIE scope leaves behind (R77): until it reaches the other die, that die reads each byte that
it publishes as it was. What the core's own die had not seen of these bytes is older than what it sees from now on. -/
def State.leftBehind (s : State) (core : Nat) (mine : List HeldStore) : List Behind :=
  let die := core / Config.coresPerDie
  let addrs := (mine.map (·.addr)).eraseDups
  (s.behind.filter fun b => !(b.die == die && addrs.contains b.addr)) ++ addrs.map fun pa =>
    { die := 1 - die, core := core, addr := pa, byte := s.homePlain pa, key := s.lineKey (lineOf pa) }

/-- The entries that stay once the publications that satisfy `hit` reach the lagging die: what lags of a byte is gone up to the last of
them (R77, R78). -/
def unreached (hit : Behind → Bool) : List Behind → List Behind
  | [] => []
  | b :: r =>
    if (b :: r).any fun e => hit e && e.die == b.die && e.addr == b.addr then unreached hit r else b :: unreached hit r

/-- Publications of a core's narrow releases reach the other die, those of the bytes that satisfy `p` (R77): copies that cores took
meanwhile become pending. -/
def State.reachWhere (s : State) (core : Nat) (p : Nat → Bool) : State :=
  let hit (b : Behind) : Bool := b.core == core && p b.addr
  (s.behind.filter hit).foldl (fun t b => t.markPending (lineOf b.addr) (some core)) { s with behind := unreached hit s.behind }

/-- All of them reach it, as at the core's next release or acquire at DEVICE scope. -/
def State.reach (s : State) (core : Nat) : State := s.reachWhere core fun _ => true
/-- Those of one line do; nothing orders it towards the others (R92). -/
def State.reachLine (s : State) (core line : Nat) : State := s.reachWhere core fun pa => lineOf pa == line

/-- The copy engine of a core reads a line ahead (R85, R92): until the core's next acquire or release its commands may read it so. -/
def State.engineHold (s : State) (core line : Nat) : State :=
  let c : LineCopy := { live := true, data := s.slicePlain line, key := s.lineKey line }
  s.updCore core fun x => { x with ahead := sset (fun _ => {}) x.ahead line c }

/-- The published byte that a core's copy engine reads, with a key (R85): as it read the line ahead, else as it is. -/
def State.engineSees (s : State) (core : Nat) (key : Option (BitVec 512)) (pa : Nat) : Byte :=
  let l := sget (fun _ => ({} : LineCopy)) (s.core core).ahead (lineOf pa)
  if l.live then reKey l.key key pa (lineByte l.data (pa % 128)) else s.homeByte key pa

/-- A release of a workgroup at a scope (R68, R77): at CLUSTER or DIE scope the other die lags; at a wider one, what the core had
published before reaches it too. -/
def State.releaseAt (s : State) (core wg : Nat) (scope : Scope) : State :=
  if scope == .cluster || scope == .die then
    { s.release core wg with behind := s.leftBehind core ((s.core core).heldOf wg) }
  else (s.release core wg).reach core

/-! ## HBM beneath the L2 -/

/-- Bytes written to HBM directly, as the host and a write-back do. -/
def State.setMemBytes (s : State) (pa : Nat) : List Byte → State
  | [] => s
  | b :: r => State.setMemBytes (s.setMemByte pa b) (pa + 1) r

/-- The bytes of a cache line. -/
def lineBytes (l : CacheLine) : List Byte := (List.range 128).map (lineByte l)

/-- A pool line that no window line names (R408). -/
def Dedup.freeLine (d : Dedup) : Option Nat :=
  (List.range d.refs.length).find? (fun n => sget (fun _ => 0) d.refs n == 0) |>.orElse fun _ => some d.refs.length
    |>.filter fun n => n < d.pool.toNat

/-- A window line lets go of the pool line it holds (R408, step 1). -/
def Dedup.drop (d : Dedup) (line : Nat) : Dedup :=
  match sget (fun _ => 0) d.map line with
  | 0 => d
  | n + 1 =>
    let r := sget (fun _ => 0) d.refs n
    { d with map := sset (fun _ => 0) d.map line 0, refs := sset (fun _ => 0) d.refs n (r - 1), mapped := d.mapped - 1,
             shared := if r == 2 then d.shared - 1 else d.shared, free := if r ≤ 1 then d.free + 1 else d.free,
             cand := if r ≤ 1 then d.cand.filter fun p => p.2 != n + 1 else d.cand }

/-- A window line takes pool line `n`, which some line may already hold (R408, step 4). -/
def Dedup.takeLine (d : Dedup) (line n : Nat) : Dedup :=
  let r := sget (fun _ => 0) d.refs n
  { d with map := sset (fun _ => 0) d.map line (n + 1), refs := sset (fun _ => 0) d.refs n (r + 1), mapped := d.mapped + 1,
           shared := if r == 1 then d.shared + 1 else d.shared, free := if r == 0 then d.free - 1 else d.free }

/-- A window line takes a free pool line with its content; it becomes the candidate of `hash` where that is given. -/
def Dedup.takeFree (d : Dedup) (line : Nat) (data : CacheLine) (hash : Option Nat) : Option Dedup :=
  d.freeLine.map fun n =>
    let e := d.takeLine line n
    { e with content := sset (fun _ => 0) e.content n data,
             cand := match hash with | some h => sset (fun _ => 0) e.cand h (n + 1) | none => e.cand }

/-- The write-back of a window line that has let go of its pool line (R408, steps 2 to 7), or none where it needs a pool line and
none is free. A line of a page without DEDUP, or an encrypted one, is written without sharing (R14, log entry 68). `apart`: where
the candidate took its place at this same time, the line takes a pool line of its own (R410). -/
def Dedup.store (d : Dedup) (line : Nat) (data : CacheLine) (encrypted share : Bool) (now : DWord) (apart : Bool) : Option Dedup :=
  if data = 0 && !encrypted then some d
  else if encrypted || !share then d.takeFree line data none
  else
    let h := (Config.lineHash data).toNat
    let fresh (n : Nat) : Bool := apart && d.fresh == some (n, now)
    let own (d : Dedup) : Option Dedup :=
      (d.takeFree line data (some h)).map fun e => { e with fresh := some (sget (fun _ => 0) e.cand h - 1, now) }
    match sget (fun _ => 0) d.cand h with
    | 0 => own d
    | n + 1 =>
      if sget (fun _ => 0) d.content n = data then
        if fresh n then own d
        else if sget (fun _ => 0) d.refs n < 0xFFFF then some (d.takeLine line n)
        else own { d with sat := d.sat + 1 }
      else ({ d with miss := d.miss + 1 }).takeFree line data none

/-- An MSI-X table entry that nothing has written: masked (PRESUMED, PCI Express; log entry 79). -/
def msixMasked (_ : Nat) : BitVec 128 := BitVec.ofNat 128 (2 ^ 96)
/-- An entry of the MSI-X table: message address, message data, the mask bit at bit 96. -/
def State.msixEntry (s : State) (vector : Nat) : BitVec 128 := sget msixMasked s.msixTable vector
/-- An MSI-X vector is signalled (R351): its message is sent, or waits as pending while its entry is masked. -/
def State.signal (s : State) (vector : Nat) : State :=
  let masked := (s.msixEntry vector).getLsbD 96
  { s with msix := if masked then s.msix else vector :: s.msix,
           msixPending := if masked then sset (fun _ => false) s.msixPending vector true else s.msixPending }

/-- The low-water interrupt of a die (R409): signalled once when DDFREE falls below DDLOW, armed again at DDLOW. -/
def State.lowWater (s : State) (die : Nat) : State :=
  let d := s.dd die
  if d.free.toNat < d.low.toNat then
    if d.irq.getLsbD 31 && !d.signalled then
      (s.updDd die fun x => { x with signalled := true }).signal (d.irq.toNat % 2048)
    else s
  else s.updDd die fun x => { x with signalled := false }

/-- An L2 line that has been written back: it stays, clean. -/
def State.cleanLine (s : State) (line : Nat) (c : L2Line) : State :=
  { s with l2 := sset (fun _ => {}) s.l2 line { c with dirty := false } }

/-- A line let go from, or put last into, the lines that wait for a pool line of a die (R409). -/
def Dedup.letGo (d : Dedup) (line : Nat) : Dedup := { d with heldLines := d.heldLines.filter (· != line) }
def Dedup.hold (d : Dedup) (line : Nat) : Dedup :=
  { d with heldLines := if d.heldLines.contains line then d.heldLines else d.heldLines ++ [line] }

/-- Is the write-back of a line held (R409)? -/
def State.isHeld (s : State) (line : Nat) : Bool := [0, 1].any fun die => (s.dd die).heldLines.contains line

/-- A window line stored through the pool (R407, R408): step 1 happens even where the rest is held for want of a pool line (R409). -/
def State.poolStore (s : State) (die line : Nat) (data : CacheLine) (key : Option (BitVec 512)) (share : Bool) : State × Bool :=
  let d := (s.dd die).drop line
  let t := { s with draws := s.draws + 1 }
  match d.store line data key.isSome share s.time (Config.freeBit s.draws) with
  | some e => ((t.updDd die fun _ => { e.letGo line with keys := sset (fun _ => none) e.keys line key }).lowWater die, true)
  | none => (t.updDd die fun _ => d.hold line, false)

/-- The write-back of a dirty L2 line to HBM (R66, R408, R409): false where it is held for want of a pool line. -/
def State.writeback (s : State) (line : Nat) : State × Bool :=
  let c := sget (fun _ => ({} : L2Line)) s.l2 line
  if !(c.live && c.dirty) then (s, true)
  else
    match s.windowDie (line * 128) with
    | none => (((s.setMemBytes (line * 128) (lineBytes c.data)).setHbmKey line c.key).cleanLine line c, true)
    | some die =>
      match s.poolStore die line c.data c.key c.dedup with
      | (t, true) => (t.cleanLine line c, true)
      | (t, false) => (t, false)

/-- Bytes written at home slices and on to HBM before the write is complete, as a TSTORE, a trap record or a report is
written (R86, R380); what only deduplication may access takes none (R407). -/
def State.writeThrough (s : State) (a : PageAttr) (pa : Nat) (bs : List Byte) : State :=
  if s.meetsArea pa bs.length then s
  else
    ((List.range ((pa % 128 + bs.length + 127) / 128)).foldl (fun t i => (t.writeback (lineOf pa + i)).1) (s.publish a none pa bs)).clearPoison
      pa bs.length

/-- The same for a record or a report that firmware or a core writes, whose lines cross their slice interfaces (R404). -/
def State.putThrough (s : State) (pa : Nat) (bs : List Byte) : State := (s.writeThrough {} pa bs).crossRange pa bs.length

/-! ## Scratchpad and accumulator store -/

/-- A byte of a core's scratchpad. -/
def Core.sp (c : Core) (a : Nat) : Byte := sget (fun _ => 0) c.scratch a
/-- Bytes of a core's scratchpad. -/
def Core.spRead (c : Core) (a n : Nat) : List Byte := (List.range n).map fun i => c.sp (a + i)
/-- A core with scratchpad bytes written. -/
def Core.spWrite (c : Core) (a : Nat) : List Byte → Core
  | [] => c
  | b :: r => Core.spWrite { c with scratch := sset (fun _ => 0) c.scratch a b } (a + 1) r
/-- An entry of a core's accumulator store. -/
def Core.entry (c : Core) (e : Nat) : Entry := sget (fun _ => 0) c.acc e
/-- A core with an accumulator entry written. -/
def Core.setEntry (c : Core) (e : Nat) (x : Entry) : Core := { c with acc := sset (fun _ => 0) c.acc e x }

/-! ## Places, and stores that are not performed yet (R43 to R49, R71 to R73) -/

/-- Bytes of a place as the core reads them (R64, R71, R79). -/
def State.readPlace (s : State) (core : Nat) (p : Place) (n : Nat) : State × List Byte :=
  match p with
  | .sp c off => (s, (s.core c).spRead off n)
  | .mem pa attr =>
    if attr.stream then (s, s.homeRead attr.key pa n)
    else
      let t := s.takeCopy core attr (lineOf pa)
      (t, (List.range n).map fun i => t.coreByte core attr.key (pa + i))

/-- Bytes written to a place by a workgroup's split (R63, R64, R71). -/
def State.writePlace (s : State) (core wg : Nat) (p : Place) (bs : List Byte) : State :=
  match p with
  | .sp c off => s.updCore c fun x => x.spWrite off bs
  | .mem pa attr =>
    if attr.stream then (s.publish attr none pa bs).note pa bs.length
    else s.holdStore attr core wg pa bs

/-- The lines that the accesses of one instruction take over their slice interfaces, each once (R57, R404): those of STREAM pages, and
where it loads those that are kept for the core at their home slices (R62). -/
def State.crossLanes (s : State) (core : Nat) (loads : Bool) (ps : List Place) : State :=
  let crossing (p : Place) : Option (Nat × Bool) :=
    match p with
    | .sp _ _ => none
    | .mem pa attr =>
      let l := sget (fun _ => ({} : LineCopy)) (s.core core).copies (lineOf pa)
      if attr.stream || (loads && l.live && !l.inL1) then some (lineOf pa, attr.compress) else none
  let data (line : Nat) : CacheLine :=
    let l := sget (fun _ => ({} : LineCopy)) (s.core core).copies line
    if l.live && !l.inL1 then l.data else s.slicePlain line
  (ps.filterMap crossing).eraseDups.foldl (fun t x => t.cross x.2 x.1 (data x.1)) s

/-- The bytes of memory that a place's write of `n` bytes covers at a home slice at once. -/
def Place.streamRange (p : Place) (n : Nat) : List (Nat × Nat) :=
  match p with
  | .sp _ _ => []
  | .mem pa attr => if attr.stream then [(pa, n)] else []

/-- Do `m` bytes at a place meet `n` bytes at another? -/
def Place.meets (p : Place) (m : Nat) (q : Place) (n : Nat) : Bool :=
  match p, q with
  | .sp c a, .sp d b => c == d && a < b + n && b < a + m
  | .mem a _, .mem b _ => a < b + n && b < a + m
  | _, _ => false

/-- Is the late store a warp's? -/
def LateStore.isOf (l : LateStore) (g w : Nat) : Bool := l.wg == g && l.warp == w
/-- Does it come before split `n` of the warp in program order (R70)? -/
def LateStore.isBefore (l : LateStore) (g w n : Nat) : Bool := l.wg == g && l.own.contains (w, n)
/-- Does it happen before the split: in program order, or through what the split has acquired (R75)? -/
def LateStore.happensBefore (l : LateStore) (g w n : Nat) : Bool := l.wg == g && (l.own ++ l.seen).contains (w, n)

/-- The late stores of a core that satisfy a test are performed, oldest first (R71, R72). -/
def State.perform (s : State) (core : Nat) (p : LateStore → Bool) : State :=
  let ls := (s.core core).late.filter p
  (ls.foldl (fun t l => t.writePlace core l.wg l.place l.bytes)
    ((s.crossLanes core false (ls.map (·.place))).updCore core fun c => { c with late := c.late.filter fun l => !p l })).clearCovered (ls.flatMap fun l => l.place.streamRange l.bytes.length)

/-- The same where the core has any. -/
def State.performIf (s : State) (core : Nat) (p : LateStore → Bool) : State := if (s.core core).late.any p then s.perform core p else s

/-- Every late store of a split is performed. -/
def State.performSplit (s : State) (g w n : Nat) : State := s.performIf (s.wg g).core fun l => l.isBefore g w n

/-- A split's late stores that meet an access of its own at a place are performed first (R71). -/
def State.performAt (s : State) (core g w n size : Nat) (q : Place) : State :=
  s.performIf core fun l => l.isBefore g w n && l.place.meets l.bytes.length q size

/-- Does a fence at a scope order a store of a core at a place (R72)? -/
def Place.fenced (core : Nat) (scope : Scope) : Place → Bool
  | .sp c _ => c == core || 2 ≤ scope.toBits
  | .mem pa attr => !attr.stream || (if isCached pa then 3 else 5) ≤ scope.toBits

/-- Does a release at a scope have the store performed: what its fence orders (R72, R74), and what it publishes (R68, R76)? -/
def Place.published (core : Nat) (scope : Scope) (p : Place) : Bool :=
  p.fenced core scope || (match p with | .mem pa _ => isCached pa && 2 ≤ scope.toBits | .sp _ _ => false)

/-- What a fence at a scope does for a split's stores (R72). -/
def State.fence (s : State) (core g w n : Nat) (scope : Scope) : State :=
  s.performIf core fun l => l.isBefore g w n && l.place.fenced core scope

/-- The late stores of a core each changed. -/
def State.mapLate (s : State) (core : Nat) (f : LateStore → LateStore) : State :=
  if (s.core core).late.isEmpty then s else s.updCore core fun c => { c with late := c.late.map f }

/-- What a release of a split does for the stores that happen before it (R74 to R76): those that its scope has performed are, and the
others are handed on to what acquires it. -/
def State.releaseFence (s : State) (core g w n : Nat) (scope : Scope) : State :=
  (s.performIf core fun l => l.happensBefore g w n && l.place.published core scope).mapLate core fun l =>
    if l.happensBefore g w n then { l with handed := true } else l

/-- What an acquire of a split tells it (R75): the stores that releases of its workgroup have handed on happen before it. Which of them the
release that it observes has handed on is not kept apart (log entry 69). -/
def State.learn (s : State) (core g w n : Nat) : State :=
  s.mapLate core fun l => if l.wg == g && l.handed && !l.seen.contains (w, n) then { l with seen := (w, n) :: l.seen } else l

/-- Split `m` of a warp in a set of splits just where split `n` is. -/
def likeSplit (w n m : Nat) (l : List (Nat × Nat)) : List (Nat × Nat) :=
  let rest := l.filter (· != (w, m))
  if l.contains (w, n) then (w, m) :: rest else rest

/-- A divergence gives entry `m` of a warp's table the program order of split `n` (R70); its last holder's goes. -/
def State.forkLate (s : State) (g w n m : Nat) : State :=
  s.mapLate (s.wg g).core fun l =>
    if l.wg == g then { l with own := likeSplit w n m l.own, seen := likeSplit w n m l.seen } else l

/-- A fusion leaves entry `lo` of a warp's table after what it and entry `hi` have issued (R70). -/
def State.joinLate (s : State) (g w lo hi : Nat) : State :=
  let both (l : List (Nat × Nat)) : List (Nat × Nat) := if l.contains (w, hi) then likeSplit w hi lo l else l
  s.mapLate (s.wg g).core fun l => if l.wg == g then { l with own := both l.own, seen := both l.seen } else l

/-- One late store of a core is performed (log entry 69): its instruction has performed those of its split that it meets (R71). -/
def State.performOne (s : State) (core ix : Nat) : State :=
  match (s.core core).late[ix]? with
  | none => s
  | some l =>
    ((s.crossLanes core false [l.place]).updCore core fun c => { c with late := c.late.eraseIdx ix }).writePlace core l.wg l.place l.bytes

/-- The bytes of a lane's store in its single-copy atomic parts, each with its place (R73). -/
def Place.parts (p : Place) : List Byte → Nat → List (Place × List Byte)
  | _, 0 => []
  | bs, n + 1 =>
    if bs.isEmpty then []
    else
      let next : Place := match p with | .sp c a => .sp c (a + 8) | .mem a x => .mem (a + 8) x
      (p, bs.take 8) :: Place.parts next (bs.drop 8) n

/-- A lane's store: performed, or left for later where `late` (R71 to R73). -/
def State.lanePut (s : State) (core g w n : Nat) (late : Bool) (p : Place) (bs : List Byte) : State :=
  let t := s.performAt core g w n bs.length p
  if late then
    t.updCore core fun c =>
      { c with late := c.late ++ (p.parts bs 2).map fun x => { wg := g, warp := w, place := x.1, bytes := x.2, own := [(w, n)] } }
  else t.writePlace core g p bs

/-! ## The kernel descriptor (R311, R312) -/

/-- A field of the kernel descriptor. -/
def Workgroup.kfield (g : Workgroup) (lo n : Nat) : Nat := (g.kdesc.toNat / 2 ^ lo) % 2 ^ n
/-- User-area bytes. -/
def Workgroup.userBytes (g : Workgroup) : Nat := g.kfield 32 32
/-- Accumulator windows. -/
def Workgroup.windows (g : Workgroup) : Nat := g.kfield 64 8
/-- Epilogue register budget. -/
def Workgroup.epiRegs (g : Workgroup) : Nat := 8 * g.kfield 72 8
/-- Lane-slice bytes. -/
def Workgroup.sliceBytes (g : Workgroup) : Nat := g.kfield 80 16
/-- Named barriers. -/
def Workgroup.barriers (g : Workgroup) : Nat := g.kfield 96 8
/-- Trap entry of a role, 0xFFFFFFFF for none. -/
def Workgroup.trapEntry (g : Workgroup) (r : Role) : Nat := g.kfield (224 + 32 * r.toBits) 32
/-- Entry slot of a role. -/
def Workgroup.entry (g : Workgroup) (r : Role) : Nat := g.kfield (128 + 32 * r.toBits) 32
/-- KHDR.LEVEL. -/
def Workgroup.level (g : Workgroup) : Nat := g.kfield 28 4
/-- KHDR.PAIRED. -/
def Workgroup.paired (g : Workgroup) : Bool := g.kdesc.getLsbD 23
/-- KHDR.LEGACY16. -/
def Workgroup.legacy16 (g : Workgroup) : Bool := g.kdesc.getLsbD 22
/-- KHDR.TRANSL. -/
def Workgroup.transl (g : Workgroup) : Bool := g.kdesc.getLsbD 21
/-- Lanes of a copy or epilogue warp. -/
def Workgroup.lanes (g : Workgroup) : Nat :=
  match g.kfield 14 2 with
  | 0 => 16
  | 1 => 32
  | _ => 64
/-- Copy, maths and epilogue warps. -/
def Workgroup.counts (g : Workgroup) : Nat × Nat × Nat := (g.kfield 11 3 + 1, g.kfield 9 2 + 1, g.kfield 0 7)

/-- What decoding needs to know of a warp (R23, R153). -/
def State.decodeCtx (s : State) (g w n : Nat) : DecodeCtx :=
  let wg := s.wg g
  let wp := wg.warp w
  { role := wp.role, width := wp.width, regs := wp.regs, inHandler := (wp.split n).handler,
    level := wg.level, transl := wg.transl, barriers := wg.barriers,
    flumes := (List.range 16).map fun f =>
      let q := sget (fun _ => ({} : Flume)) wg.flumes f
      if q.declared then some (q.prod, q.cons) else none,
    shapes := (List.range 8).map fun i => (sget (fun _ => ({} : ShapeReg)) wg.shapes i).declared }

end Sys2Proof.Machine
end

