-- ==== Sys2Proof/Machine/Trace.lean ====
section
/-! DEFINITION. Trace records of a core's debug block (R417 to R421). -/
namespace Sys2Proof.Machine

/-- SPLIT.STATE's code (R31). A split that waits, or waits at a JOIN, inside its trap handler reads as waiting (DESIGN CHOICE, log
entry 75): the table of R31 fits 0b101 as well. -/
def Split.stateBits (x : Split) : Nat :=
  if !x.live then 0
  else
    match x.st with
    | .run => if x.handler then 5 else 1
    | .wait => 2
    | .joinWait => 3
    | .held => 4
    | .inTrap => 5

/-- The PC that SPLIT.PC and REC.PC read: the resume PC while a split is in a trap and has not entered its handler. -/
def Split.shownPc (x : Split) : PC := if x.st = .inTrap && !x.handler then x.resume else x.pc

/-- The fields of a trace record that name a split, or a part of it with its mask and PC (R418), as a number. -/
def State.tracePart (s : State) (g w n : Nat) (mask : LaneMask) (pc : PC) : Nat :=
  let wg := s.wg g
  mask.toNat * 2 ^ 320 + pc.toNat * 2 ^ 263 + wg.wgid % 2 ^ 32 * 2 ^ 224 + wg.ctx % 256 * 2 ^ 216
    + wg.core % 128 * 2 ^ 209 + n % 4 * 2 ^ 207 + w % 128 * 2 ^ 200 + (s.warp g w).progress.toNat * 2 ^ 128

/-- The same of a whole split. -/
def State.traceSplit (s : State) (g w n : Nat) : Nat := s.tracePart g w n (s.split g w n).mask (s.split g w n).shownPc

/-- One record appended to a core's trace buffer, or dropped and counted when it is full (R421). -/
def State.traceAppend (s : State) (core : Nat) (body : Nat) : State :=
  let d := (s.core core).dbg
  let size := 2 ^ (d.trctl.toNat / 2 ^ 24 % 16 + 6)
  if (d.trprod - d.trcons).toNat = size then
    s.updCore core fun c => { c with dbg := { c.dbg with
      trlost := if c.dbg.trlost = 0xFFFFFFFF then c.dbg.trlost else c.dbg.trlost + 1, trdrop := c.dbg.trdrop + 1 } }
  else
    let s1 := s.putThrough (d.trbase.toNat + 64 * (d.trprod.toNat % size)) (toBytes 64 (body + d.trprod.toNat))
    s1.updCore core fun c => { c with dbg := { c.dbg with trprod := c.dbg.trprod + 1 } }

/-- A trace record is written, after one of type 0x6 where records were dropped and room has returned (R421). -/
def State.traceWrite (s : State) (core : Nat) (body : Nat) : State :=
  let d := (s.core core).dbg
  let size := 2 ^ (d.trctl.toNat / 2 ^ 24 % 16 + 6)
  if d.trdrop ≠ 0 && (d.trprod - d.trcons).toNat ≠ size then
    let s1 := s.traceAppend core (6 * 2 ^ 196 + s.time.toNat * 2 ^ 384 + d.trdrop % 2 ^ 64 * 2 ^ 448)
    (s1.updCore core fun c => { c with dbg := { c.dbg with trdrop := 0 } }).traceAppend core body
  else s.traceAppend core body

/-- A core's debug block changed. -/
def State.updDebug (s : State) (core : Nat) (f : Debug → Debug) : State := s.updCore core fun c => { c with dbg := f c.dbg }

/-- A port's slot. -/
def State.portSlot (s : State) (core port : Nat) : PortSlot := sget (fun _ => {}) (s.core core).dbg.slots port

/-- A due sample of a port's slot is written (R420): its record's fields are those of the slot. -/
def State.sample (s : State) (core port : Nat) : State :=
  let q := s.portSlot core port
  if q.due then
    (s.updDebug core fun d => { d with slots := sset (fun _ => {}) d.slots port { q with due := false } }).traceWrite core
      (q.fields + q.leaf * 2 ^ 192)
  else s

/-- Is the second of a pair still to issue in a port's slot (R155)? -/
def State.pairOpen (s : State) (core port : Nat) : Bool :=
  let q := s.portSlot core port
  q.pair && match q.who with
    | some (g, w, n) => (s.split g w n).live && (s.split g w n).st == .run
    | none => false

/-- The due samples of a core are written, but for those of slots that are not over. -/
def State.samples (s : State) (core : Nat) : State :=
  (List.range 6).foldl (fun t port => if t.pairOpen core port then t else t.sample core port) s

/-- Does TRCTL admit records of its bit `bit` for a context (R417)? -/
def State.traces (s : State) (core ctx bit : Nat) : Bool :=
  let t := (s.core core).dbg.trctl
  t.getLsbD 31 && t.getLsbD bit && (t.getLsbD 7 || t.toNat / 256 % 256 == ctx)

/-- An event record (R419) with the fields of a split or of a part of it: type, the TRCTL bit that admits it, and TR.AUX. Samples of
earlier clocks come before it (R421). -/
def State.traceFields (s : State) (g fields type bit aux : Nat) : State :=
  let wg := s.wg g
  if s.traces wg.core wg.ctx bit then
    (s.samples wg.core).traceWrite wg.core (fields + type * 2 ^ 196 + s.time.toNat * 2 ^ 384 + aux * 2 ^ 448)
  else s

/-- An event record about a split (R419). -/
def State.traceEvent (s : State) (g w n type bit aux : Nat) : State := s.traceFields g (s.traceSplit g w n) type bit aux

end Sys2Proof.Machine
end

