-- ==== Sys2Proof/Machine/Translate.lean ====
section
/-! DEFINITION. Translation of virtual addresses: the walk, permissions, and the cores' TLBs (R53 to R59, R386). -/
namespace Sys2Proof.Machine

/-- A trap or engine fault that an access meets (R373): its code, address and data but for the lane. -/
structure AccFault where
  code : Nat
  addr : Nat
  data : Nat
  deriving DecidableEq, Repr

/-- The two bits of REC.DATA that name an access (R373, codes 0x0022 and 0x0023). -/
def Access.bits : Access → Nat
  | .read => 0
  | .write => 1
  | .atomic => 2
  | .fetch => 3

/-- Does an access write? -/
def Access.writes : Access → Bool
  | .write => true
  | .atomic => true
  | _ => false

/-- A translation fault at a level (R54). -/
def transFault (va level : Nat) (a : Access) : AccFault := { code := 0x22, addr := va, data := level + a.bits * 16 }
/-- A permission fault at a level (R55). -/
def permFault (va level : Nat) (a : Access) : AccFault := { code := 0x23, addr := va, data := level + a.bits * 16 }

/-- Bits that a level's table index starts at, and index width (R53). -/
def walkIndex : Nat → Nat × Nat
  | 4 => (48, 9)
  | 3 => (39, 9)
  | 2 => (30, 9)
  | 1 => (21, 9)
  | _ => (16, 5)

/-- The next table that a non-leaf entry names (R54). -/
def pteNext (p : DWord) : Nat := p.toNat % 2 ^ 52 / 256 * 256
/-- The page address of a leaf entry (R54). -/
def ptePage (p : DWord) : Nat := p.toNat % 2 ^ 52 / 2 ^ 16 * 2 ^ 16

/-- Is a leaf entry well formed at its level, with a page of 2^bits bytes (R54)? -/
def leafOk (p : DWord) (level bits : Nat) : Bool :=
  p.toNat / 2 ^ 52 == 0 && p.getLsbD 1 && level ≤ 2 && !p.getLsbD 15 && ptePage p % 2 ^ bits == 0
/-- Is a non-leaf entry well formed at its level (R54)? -/
def nonLeafOk (p : DWord) (level : Nat) : Bool :=
  p.toNat / 2 ^ 52 == 0 && !p.getLsbD 1 && level != 0 && p.toNat / 4 % 64 == 0

/-- What a walk gives. -/
inductive WalkEnd where
  /-- A leaf: its entry, the entry's address, its level, log2 of the page size. -/
  | leaf (pte : DWord) (addr level bits : Nat)
  | bad (level : Nat)
  deriving DecidableEq, Repr

/-- The address of the entry for `va` in a table at a level (R53). -/
def entryOf (va level table : Nat) : Nat := table + 8 * (va / 2 ^ (walkIndex level).1 % 2 ^ (walkIndex level).2)

/-- A page-table entry as a walker reads it (R56): as it was written last, whatever key it was written under (log entries 71, 72). -/
def State.pteAt (s : State) (ea : Nat) : DWord := BitVec.ofNat 64 (ofBytes ((List.range 8).map fun i => s.rawByte (ea + i)))

/-- May a walker read a table entry: it lies in HBM (R386), and not where only deduplication may access (R407)? -/
def State.tableAt (s : State) (ea : Nat) : Bool := isHbm ea && !s.inDedupArea ea

/-- The walk from a table at `level` (R53, R54). Its reads see what is published (R56); a table outside HBM is a
translation fault at that level (R386). `fuel` bounds the levels. -/
def State.walkFrom (s : State) (va : Nat) : Nat → Nat → Nat → WalkEnd
  | 0, level, _ => .bad level
  | fuel + 1, level, table =>
    let lo := (walkIndex level).1
    let ea := entryOf va level table
    if !s.tableAt ea then .bad level
    else
      let p := s.pteAt ea
      if !p.getLsbD 0 then .bad level
      else if p.getLsbD 1 then (if leafOk p level lo then .leaf p ea level lo else .bad level)
      else if nonLeafOk p level then s.walkFrom va fuel (level - 1) (pteNext p) else .bad level

/-- The walk of a context's address (R53). -/
def State.walk (s : State) (ctx va : Nat) : WalkEnd := s.walkFrom va 5 4 (s.ctx ctx).ptroot

/-- The lines that a walk reads, each of which crosses its slice interface (R404). -/
def State.walkLines (s : State) (va : Nat) : Nat → Nat → Nat → List Nat
  | 0, _, _ => []
  | fuel + 1, level, table =>
    let ea := entryOf va level table
    if !s.tableAt ea then []
    else
      let p := s.pteAt ea
      lineOf ea :: (if p.getLsbD 0 && nonLeafOk p level then s.walkLines va fuel (level - 1) (pteNext p) else [])

/-- The state after a walk's reads. -/
def State.walked (s : State) (ctx va : Nat) : State :=
  (s.walkLines va 5 4 (s.ctx ctx).ptroot).foldl (fun t l => t.cross false l (s.slicePlain l)) s

/-- Does a leaf allow the access (R55), and is its key loaded (R59)? -/
def State.permits (s : State) (p : DWord) (a : Access) : Bool :=
  (match a with
    | .read => p.getLsbD 2
    | .write => p.getLsbD 3
    | .atomic => p.getLsbD 2 && p.getLsbD 3
    | .fetch => p.getLsbD 4)
  && (!p.getLsbD 10 || (sget (fun _ => none) s.fleet.keys (p.toNat / 2 ^ 11 % 16)).isSome)

/-- The attributes that a leaf gives its accesses (R59): window, peer and host memory behave as STREAM; encryption is on the way to
HBM only. -/
def State.attrOf (s : State) (p : DWord) (pa : Nat) : PageAttr :=
  { key := if p.getLsbD 10 && isHbm pa then sget (fun _ => none) s.fleet.keys (p.toNat / 2 ^ 11 % 16) else none,
    stream := p.getLsbD 5 || !isCached pa, dedup := p.getLsbD 7, compress := p.getLsbD 6 }

/-- The physical address of a leaf's page with the offset of `va`. -/
def physOf (p : DWord) (bits va : Nat) : Nat := ptePage p + va % 2 ^ bits

/-- What translation gives an access. -/
inductive Xlat where
  | ok (pa : Nat) (attr : PageAttr)
  | fault (f : AccFault)
  /-- The TLB holds no fit entry (R57): the access waits for a walk. -/
  | miss
  deriving DecidableEq, Repr

/-- The last checks of an access at its physical address: a row of R52, no area of deduplication (R407), a usable
station for peer memory (R445). -/
def State.physCheck (s : State) (va pa : Nat) (p : DWord) : Xlat :=
  if !isMapped pa || s.inDedupArea pa || (isPeer pa && s.fleet.stations == 0) then
    .fault { code := 0x20, addr := va, data := 0 }
  else .ok pa (s.attrOf p pa)

/-- The leaf marked ACCESSED, and DIRTY for a write (R56): an atomic OR at its home slice, which leaves the entry's line without a
key (log entry 71), and of which a line that L2 holds clean is of what HBM holds (log entry 72). -/
def State.markLeaf (s : State) (ea : Nat) (p : DWord) (write : Bool) : State × DWord :=
  let q := p ||| 0x100 ||| (if write then 0x200 else 0)
  if q = p then (s, p) else ((s.refetch (lineOf ea)).publish {} none ea (toBytes 8 q.toNat), q)

/-- A walk with its permission check and marks, as fetches and engines make it: in one act (log entry 9). It gives the
translation, as a TLB holds it. -/
def State.walkNow (s0 : State) (ctx va : Nat) (a : Access) : State × (TlbEntry ⊕ AccFault) :=
  let s := s0.walked ctx va
  match s.walk ctx va with
  | .bad level => (s, .inr (transFault va level a))
  | .leaf p ea level bits =>
    if !s.permits p a then (s, .inr (permFault va level a))
    else
      let (s1, q) := s.markLeaf ea p a.writes
      (s1, .inl { ctx := ctx, va := va / 2 ^ bits * 2 ^ bits, bits := bits, pte := q })

/-- The translation of an address by such a walk. -/
def State.translateNow (s : State) (ctx va : Nat) (a : Access) : State × Xlat :=
  match s.walkNow ctx va a with
  | (s1, .inr f) => (s1, .fault f)
  | (s1, .inl e) => (s1, s1.physCheck va (physOf e.pte e.bits va) e.pte)

/-- The TLB entry of a core for an address of a context. -/
def Core.tlbFind (c : Core) (ctx va : Nat) : Option TlbEntry :=
  c.tlb.find? fun e => e.ctx == ctx && e.va == va / 2 ^ e.bits * 2 ^ e.bits

/-- The level of a page of 2^bits bytes. -/
def levelOfBits (bits : Nat) : Nat := if bits = 30 then 2 else if bits = 21 then 1 else 0

/-- Translation of a data access through the core's TLB (R57). A write through an entry whose DIRTY is not yet set
walks again. -/
def State.translate (s : State) (core ctx va : Nat) (a : Access) : Xlat :=
  match (s.core core).tlbFind ctx va with
  | none => .miss
  | some e =>
    if !s.permits e.pte a then .fault (permFault va (levelOfBits e.bits) a)
    else if a.writes && !e.pte.getLsbD 9 then .miss
    else s.physCheck va (physOf e.pte e.bits va) e.pte

/-- The TLB of a core with an entry for a page in place of any that it held for the page. -/
def Core.tlbFill (c : Core) (e : TlbEntry) : Core :=
  { c with tlb := e :: c.tlb.filter fun x => !(x.ctx == e.ctx && x.va / 2 ^ e.bits == e.va / 2 ^ e.bits) }

/-- Is a walk under way for the page of 64 KiB of an address, on the die of a core (R57)? -/
def Walk.covers (x : Walk) (core ctx va : Nat) : Bool := x.ctx == ctx && x.die == core / Config.coresPerDie && x.va / 2 ^ 16 == va / 2 ^ 16

/-- The translation of an engine's address through the second port of its core's TLB (R13, R57): a miss is merged into the walk of the
page that is under way, for which the engine waits, and walks in the same act where there is none. -/
def State.translateEngine (s : State) (core ctx va : Nat) (a : Access) : State × Xlat :=
  match s.translate core ctx va a with
  | .miss =>
    if s.walks.any fun x => x.covers core ctx va then
      ({ s with walks := s.walks.map fun x =>
          if x.covers core ctx va && !x.ports.contains (core, a) then { x with write := x.write || a.writes, ports := x.ports ++ [(core, a)] } else x },
        .miss)
    else
      match s.walkNow ctx va a with
      | (s1, .inr f) => (s1, .fault f)
      | (s1, .inl e) => (s1.updCore core fun c => c.tlbFill e, s1.physCheck va (physOf e.pte e.bits va) e.pte)
  | x => (s, x)

end Sys2Proof.Machine
end

