-- ==== Sys2Proof/Machine/Ops.lean ====
section
/-! DEFINITION. The operations that the meanings share: the issuing split, lane sets, registers, sequential flow, traps. -/
namespace Sys2Proof.Machine

/-- The outcome type of a step. -/
abbrev Out := Host.Outcome State Fault Refusal

/-! ## The issuing split -/

/-- The workgroup of the issuing split. -/
def State.curWg (s : State) : Workgroup := s.wg s.cur.wg
/-- The warp of the issuing split. -/
def State.curWarp (s : State) : Warp := s.warp s.cur.wg s.cur.warp
/-- The issuing split. -/
def State.curSplit (s : State) : Split := s.split s.cur.wg s.cur.warp s.cur.split
/-- The core of the issuing split. -/
def State.curCore (s : State) : Core := s.core s.curWg.core
/-- The state with the issuing split changed. -/
def State.updCur (s : State) (f : Split → Split) : State := s.updSplit s.cur.wg s.cur.warp s.cur.split f
/-- The state with the issuing warp changed. -/
def State.updCurWarp (s : State) (f : Warp → Warp) : State := s.updWarp s.cur.wg s.cur.warp f
/-- The state with the issuing workgroup changed. -/
def State.updCurWg (s : State) (f : Workgroup → Workgroup) : State := s.updWg s.cur.wg f
/-- The state with the issuing split's core changed. -/
def State.updCurCore (s : State) (f : Core → Core) : State := s.updCore s.curWg.core f
/-- The late stores of the issuing split that meet an access of `n` bytes of its own are performed before it (R71). -/
def State.performCur (s : State) (n : Nat) (p : Place) : State := s.performAt s.curWg.core s.cur.wg s.cur.warp s.cur.split n p
/-- The state with another split as the issuing one: events act for the split that they name. -/
def State.actAs (s : State) (g w n : Nat) : State := { s with cur := { wg := g, warp := w, split := n, prio := s.cur.prio } }

/-! ## Lane sets (R30, R144, R170) -/

/-- The lanes of a set, lowest first. -/
def lanesOf (m : LaneMask) : List Nat := (List.range 64).filter m.getLsbD
/-- The set of the first `n` lanes. -/
def firstLanes (n : Nat) : LaneMask := BitVec.ofNat 64 (2 ^ n - 1)
/-- The lowest lane of a set. -/
def lowestLane (m : LaneMask) : Option Nat := (List.range 64).find? m.getLsbD
/-- The set of lanes with a property. -/
def laneSet (f : Nat → Bool) : LaneMask :=
  (List.range 64).foldl (fun m l => if f l then m ||| (1#64 <<< l) else m) 0
/-- How many lanes a set has. -/
def laneCount (m : LaneMask) : Nat := (lanesOf m).length

/-- The lanes of a warp that some split holds, in its mask or in a deferral record. -/
def Warp.liveLanes (w : Warp) : LaneMask :=
  w.splits.foldl (fun m p => if p.2.live then p.2.defer.foldl (fun m r => m ||| r.mask) (m ||| p.2.mask) else m) 0

/-- The quads that have a lane in a set, as lanes. -/
def quadsOf (m : LaneMask) : LaneMask :=
  let a := m ||| (m >>> 1) ||| (m >>> 2) ||| (m >>> 3)
  let q := a &&& 0x1111111111111111
  q ||| (q <<< 1) ||| (q <<< 2) ||| (q <<< 3)

/-- HELPER of a split (R30): the exited lanes of quads that have a lane in the split's mask. -/
def Warp.helpers (w : Warp) (mask : LaneMask) : LaneMask :=
  firstLanes w.width &&& ~~~w.liveLanes &&& quadsOf mask

/-- A per-lane predicate register (R157): p7 is true everywhere. -/
def Warp.pred (w : Warp) (n : Nat) : LaneMask := if n = 7 then BitVec.allOnes 64 else sget (fun _ => 0) w.p n
/-- A uniform predicate (R157): kp7 is true. -/
def Warp.upred (w : Warp) (n : Nat) : Bool := n == 7 || w.kp.getLsbD n
/-- A uniform value in every lane. -/
def uniform (b : Bool) : LaneMask := if b then BitVec.allOnes 64 else 0

/-- Is the guard of an opcode's instruction a kp predicate (R144)? -/
def Warp.guardIsUniform (w : Warp) (op : Nat) (g : Guard) : Bool := w.role == .maths || !gfileClass op || g.gfile

/-- The lanes where the guard holds (R144). -/
def Warp.guardLanes (w : Warp) (op : Nat) (g : Guard) : LaneMask :=
  let x := if w.guardIsUniform op g then uniform (w.upred g.idx.val) else w.pred g.idx.val
  if g.neg then ~~~x else x

/-- ACTIVE for instructions that helper lanes do not execute: the mask's lanes with a true guard (R170). -/
def State.active (s : State) (op : Nat) (g : Guard) : LaneMask := s.curSplit.mask &&& s.curWarp.guardLanes op g
/-- ACTIVE of classes 010, 011, 100 and of loads: helper lanes too (R170). -/
def State.activeH (s : State) (op : Nat) (g : Guard) : LaneMask :=
  (s.curSplit.mask ||| s.curWarp.helpers s.curSplit.mask) &&& s.curWarp.guardLanes op g
/-- The lowest lane of LIVE, which the lane field of a fault names for an instruction that acts once for its split (R373). -/
def State.liveLane (s : State) (op : Nat) (g : Guard) : Nat := (lowestLane (s.active op g)).getD 0
/-- Does an instruction that acts once for its split act (R26): its guard holds in some lane of MASK? -/
def State.acts (s : State) (op : Nat) (g : Guard) : Bool := s.active op g != 0

/-! ## Registers (R157) -/

/-- What v register `n` holds at launch (R24, R104). -/
def marker (key : Nat) : Word := BitVec.ofNat 32 (0x7FA50000 + key % 256)
/-- v register `n` in lane `l`. -/
def Warp.getV (w : Warp) (l n : Nat) : Word := sget marker w.v (l * 256 + n)
/-- The warp with a v register written in one lane. -/
def Warp.setV (w : Warp) (l n : Nat) (x : Word) : Warp := { w with v := sset marker w.v (l * 256 + n) x }
/-- k register `n`. -/
def Warp.getK (w : Warp) (n : Nat) : Word := sget (fun _ => 0) w.k n
/-- The warp with a k register written. -/
def Warp.setK (w : Warp) (n : Nat) (x : Word) : Warp := { w with k := sset (fun _ => 0) w.k n x }
/-- A v pair in lane `l`, low register first (R157). -/
def Warp.getV64 (w : Warp) (l n : Nat) : DWord := w.getV l (n + 1) ++ w.getV l n
/-- A k pair, low register first. -/
def Warp.getK64 (w : Warp) (n : Nat) : DWord := w.getK (n + 1) ++ w.getK n
/-- The warp with a k pair written. -/
def Warp.setK64 (w : Warp) (n : Nat) (x : DWord) : Warp :=
  (w.setK n (x.extractLsb' 0 32)).setK (n + 1) (x.extractLsb' 32 32)
/-- The warp with words written from k register `n` on. -/
def Warp.setKs (w : Warp) (n : Nat) : List Word → Warp
  | [] => w
  | x :: r => Warp.setKs (w.setK n x) (n + 1) r
/-- The warp with a p register written in the lanes of `lanes`; a write to p7 is discarded (R145). -/
def Warp.setPred (w : Warp) (n : Nat) (lanes value : LaneMask) : Warp :=
  if n < 7 then { w with p := sset (fun _ => 0) w.p n ((w.pred n &&& ~~~lanes) ||| (value &&& lanes)) } else w
/-- The warp with a kp register written; a write to kp7 is discarded (R145). -/
def Warp.setUpred (w : Warp) (n : Nat) (b : Bool) : Warp :=
  if n < 7 then { w with kp := (w.kp &&& ~~~(1#8 <<< n)) ||| (if b then 1#8 <<< n else 0) } else w
/-- The warp with words written to v registers: lane, register, word. -/
def Warp.setVs (w : Warp) : List (Nat × Nat × Word) → Warp
  | [] => w
  | (l, n, x) :: r => Warp.setVs (w.setV l n x) r
/-- Word `off` of constant bank `b` of the workgroup's launch (R51, R149). -/
def State.bankWord (s : State) (g b off : Nat) : Word := sget (fun _ => 0) (s.grid (s.wg g).grid).banks (b * 16384 + off % 16384)

/-! ## Sequential flow (R139, R183) -/

/-- The PC after `pc` in its line, and whether it is yet to be settled with the next line's word (R139). -/
def nextPc (line : Option (Nat × Line)) (pc : PC) : PC × Bool :=
  match line with
  | none => (PC.make (PC.line pc + 64) 0, true)
  | some (_, l) =>
    match Line.slotFrom l (PC.slot pc + 1) with
    | some i => (PC.make (PC.line pc) i, false)
    | none => (PC.make (PC.line pc + 64) 0, true)

/-- Does a loop record end at the PC (R181)? -/
def LoopRec.endsAt (r : LoopRec) (e : PC) : Bool := PC.line e == PC.line r.first + 64 * r.endLine && PC.slot e == r.endSlot

/-- The end test of R183 at `e`: the loop records and the next PC after it. -/
def endTest (e : PC) (next : PC × Bool) : List LoopRec → List LoopRec × (PC × Bool)
  | [] => ([], next)
  | r :: rest =>
    if r.endsAt e then
      if r.count - 1 != 0 then ({ r with count := r.count - 1 } :: rest, (r.first, false))
      else endTest e next rest
    else (r :: rest, next)

/-- A split that goes on at a PC: in state run, its wait and pending instruction gone; or debug-held there, where a hold waits for
an instruction boundary outside a handler (R424, R425). -/
def Split.goTo (x : Split) (pc : PC) (seq : Bool) : Split :=
  let why := if x.handler then none else x.holdNext
  { x with pc := pc, seq := seq, st := if why.isSome then .held else .run, before := .run,
           holdNext := if why.isSome then none else x.holdNext, stopRec := why <|> x.stopRec, pass := false, pend := none,
           wait := .nothing, met := none, replay := false, stopped := false }

/-- A split that has completed an instruction without a transfer (R139, R183). -/
def Split.advance (x : Split) : Split :=
  let (loops, pc, seq) := endTest x.pc (nextPc x.line x.pc) x.loops
  { x.goTo pc seq with loops := loops }

/-- The issuing split completes its instruction without a transfer. -/
def State.advance (s : State) : State := s.updCur Split.advance

/-- The issuing split enters state wait in instruction `i` (R31). -/
def State.waitIn (s : State) (i : Instr) (w : Wait) : State :=
  s.updCur fun x => { x with st := .wait, pend := some i, wait := w, met := none, since := s.tick }

/-- A waiting split is to issue its instruction again. -/
def Split.again (x : Split) : Split := { x with st := .run, pend := none, wait := .nothing, met := none, replay := true }

/-! ## The warp's array instructions (R4, R74, R103) -/

/-- The chains of a warp: the one that holds the array, and one that waits for it. -/
def State.chainsOf (s : State) (g w : Nat) : List Chain :=
  let c := s.core (s.wg g).core
  (c.chain.toList ++ c.queue).filter fun h => h.wg == g && h.warp == w

/-- The chain that a warp holds, and the spillway entries of it (R283): one that a restore has put back waits for its array with its own
(R390). -/
def State.warpChain (s : State) (g w : Nat) : Option Chain := (s.chainsOf g w).head?
def State.chainSpill (s : State) (g w : Nat) : Sparse (BitVec 24) :=
  let c := s.core (s.wg g).core
  if c.chain.any fun h => h.wg == g && h.warp == w then c.spill else ((s.warpChain g w).map (·.stash)).getD []

/-- Has the warp array instructions that are not performed (R74, R103)? -/
def State.arrayBusy (s : State) (g w : Nat) : Bool := (s.chainsOf g w).any fun h => !h.todo.isEmpty

/-- Has it such instructions that no trap or hold has stopped part-way: a trap after them waits for them (R4)? -/
def State.arrayBefore (s : State) (g w : Nat) : Bool :=
  (s.chainsOf g w).any fun h => !h.suspended && !h.held && !h.todo.isEmpty

/-! ## Traps (R374 to R376) -/

/-- The slot words at a split's PC (R375). -/
def Split.slotWords (x : Split) : Slot :=
  match x.line with
  | some (a, l) => if a == PC.line x.pc then Line.slot l (PC.slot x.pc) else 0
  | none => 0

/-- The trap record of a split trap (R375). -/
def State.splitRecord (s : State) (g w n code : Nat) (addr data : Nat) (resume : PC) (slot : Slot) : TrapRec :=
  let wg := s.wg g
  { code := code, kind := 0, addr := BitVec.ofNat 64 addr, data := BitVec.ofNat 64 data, pc := resume,
    mask := (s.split g w n).mask, time := s.time, wgid := BitVec.ofNat 32 wg.wgid, ctx := wg.ctx, core := wg.core,
    split := n, warp := w, slot := slot, subj := g }

/-- Is a context's trap ring full (R381)? -/
def Context.ringFull (c : Context) : Bool := 2 ^ (c.ringSize + 6) ≤ (c.rprod - c.rcons).toNat

/-- A record is dropped: RSTAT.LOST is set, and RSTAT.LOSTCNT counts it (R381). -/
def Context.dropRecord (c : Context) : Context := { c with lost := true, lostCnt := min (c.lostCnt + 1) 0xFFFF }

/-- A record for the ring of its context waits to be written (R376, R380); a stray arrival that meets a full ring is
dropped (R381). -/
def State.toRing (s : State) (r : TrapRec) : State :=
  s.updCtx r.ctx fun c => if r.code == 0x80 && c.ringFull then c.dropRecord else { c with pending := c.pending ++ [r] }

/-- A split traps (R374, R376): it stops in state in-trap with its resume PC, and its record goes to its handler on the
core where the kernel declares one for the role, else to the trap ring, held. A trap in a handler goes to the ring and
the split stays in its handler. -/
def State.trapSplit (s : State) (g w n code addr data : Nat) (resume : PC × Bool) (slot : Slot) : State :=
  let wg := s.wg g
  let x := s.split g w n
  let role := (s.warp g w).role
  let r := s.splitRecord g w n code addr data resume.1 slot
  let s1 := s.traceEvent g w n 4 3 code
  if x.handler then
    let r := { r with nested := true, held := true }
    (s1.updSplit g w n fun x =>
      { x with st := .inTrap, pc := resume.1, seq := resume.2, pend := none, wait := .nothing, trap := some r, since := s.tick }).toRing r
  else
    let onCore := wg.trapEntry role != 0xFFFFFFFF
    let r := { r with held := !onCore }
    let s2 := s1.updSplit g w n fun x =>
      { x with st := .inTrap, resume := resume.1, resumeSeq := resume.2, pc := resume.1, seq := resume.2, pend := none,
               wait := .nothing, trap := some r, emu := none, since := s.tick }
    if onCore then s2.updWg g fun x => { x with trapQueue := x.trapQueue ++ [(w, n)] } else s2.toRing r

/-- A precise trap of the issuing split, once every earlier array instruction of its warp is performed (R4): until then the split
waits, and issues its instruction again. The split's earlier stores are performed too. -/
def State.afterArray (s : State) (trap : State) : State :=
  if s.arrayBefore s.cur.wg s.cur.warp then
    s.updCur fun x => { x with st := .wait, pend := none, wait := .array, since := s.tick }
  else trap.performSplit s.cur.wg s.cur.warp s.cur.split

/-- A precise trap of the issuing split at its own PC (R4, R373). -/
def State.trapAt (s : State) (code addr data : Nat) : State :=
  let x := s.curSplit
  s.afterArray (s.trapSplit s.cur.wg s.cur.warp s.cur.split code addr data (x.pc, x.seq) x.slotWords)

/-- A precise trap of the issuing split for a checked transfer that fails (R141): no slot has been read where the fetch of the target's
line faults (R375). -/
def State.transferTrap (s : State) (f : AccFault) (lane : Nat) : State :=
  let x := s.curSplit
  let slot := if f.code = 0x12 then x.slotWords else 0
  s.afterArray (s.trapSplit s.cur.wg s.cur.warp s.cur.split f.code f.addr (f.data + lane * 256) (x.pc, x.seq) slot)

/-- A trap of the issuing split whose resume PC is the next one, the end test included (R199, R103). -/
def State.trapNext (s : State) (code addr data : Nat) : State :=
  let x := s.curSplit
  let y := x.advance
  s.afterArray ((s.updCur fun _ => { y with pc := x.pc, seq := x.seq }).trapSplit s.cur.wg s.cur.warp s.cur.split code addr data
    (y.pc, y.seq) x.slotWords)

/-- An illegal operand (R373): field by that table. -/
def State.illegalOperand (s : State) (field : Nat) : State := s.trapAt 0x06 0 field
/-- An object-state trap (R373). -/
def State.objectState (s : State) (object : Nat) : State := s.trapAt 0x16 0 object
/-- A trap for a fault of an access by a lane. -/
def State.accessTrap (s : State) (f : AccFault) (lane : Nat) : State := s.trapAt f.code f.addr (f.data + lane * 256)

end Sys2Proof.Machine
end

