-- ==== Sys2Proof/Machine/Operands.lean ====
section
/-! DEFINITION. Operand forms: how a source's value is read (R146 to R151, R171). -/
namespace Sys2Proof.Machine

/-- The operand kinds of the opcode map (R147, R162 to R164). -/
inductive OpKind where
  | int | logic | float | half | bits
  deriving DecidableEq, Repr

/-- Absolute value and then negation of a 32-bit register operand (R147). -/
def negAbs32 (k : OpKind) (neg abs : Bool) (x : Word) : Word :=
  match k with
  | .int =>
    let y := if abs && x.msb then -x else x
    if neg then -y else y
  | .logic => if neg then ~~~x else x
  | .float =>
    let y := if abs then x &&& 0x7FFFFFFF else x
    if neg then y ^^^ 0x80000000 else y
  | .half =>
    let y := if abs then x &&& 0x7FFF7FFF else x
    if neg then y ^^^ 0x80008000 else y
  | .bits => x

/-- Absolute value and then negation of a 64-bit register operand (R147). -/
def negAbs64 (k : OpKind) (neg abs : Bool) (x : DWord) : DWord :=
  match k with
  | .int =>
    let y := if abs && x.msb then -x else x
    if neg then -y else y
  | .logic => if neg then ~~~x else x
  | _ => x

/-- The value of a 20-bit immediate in a 32-bit operand (R148). -/
def immWord (k : OpKind) (i : BitVec 20) : Word :=
  match k with
  | .float => i ++ 0#12
  | _ => i.signExtend 32

/-- A 32-bit source in lane `l` (R171, opnd). -/
def State.opnd (s : State) (k : OpKind) (x : Src) (l : Nat) : Word :=
  match x with
  | .none => 0
  | .v n neg abs => negAbs32 k neg abs (s.curWarp.getV l n)
  | .k n neg abs => negAbs32 k neg abs (s.curWarp.getK n)
  | .m _ => 0
  | .obj _ _ => 0
  | .imm i => immWord k i
  | .bank c off => s.bankWord s.cur.wg c.val off.toNat
  | .inlit y => y
  | .trail _ y => y

/-- A 64-bit source in lane `l`: a pair, a bank pair, or a constant sign-extended to 64 bits (R148, R149, R151). -/
def State.opnd64 (s : State) (k : OpKind) (x : Src) (l : Nat) : DWord :=
  match x with
  | .none => 0
  | .v n neg abs => negAbs64 k neg abs (s.curWarp.getV64 l n)
  | .k n neg abs => negAbs64 k neg abs (s.curWarp.getK64 n)
  | .m _ => 0
  | .obj _ _ => 0
  | .imm i => i.signExtend 64
  | .bank c off => s.bankWord s.cur.wg c.val (off.toNat + 1) ++ s.bankWord s.cur.wg c.val off.toNat
  | .inlit y => y.signExtend 64
  | .trail _ y => y.signExtend 64

/-- A uniform 32-bit integer source: any source that gives every lane the same value. -/
def State.uni (s : State) (x : Src) : Word := s.opnd .bits x 0
/-- A uniform source of a float opcode (R147, R148). -/
def State.uniF (s : State) (x : Src) : Word := s.opnd .float x 0
/-- A uniform 64-bit integer source. -/
def State.uni64 (s : State) (x : Src) : DWord := s.opnd64 .bits x 0

/-- A predicate object in the lanes of the warp (R146, R197): p0 to p7, kp0 to kp7, inverted where negated. -/
def State.predObj (s : State) (x : Src) : LaneMask :=
  match x with
  | .obj n neg =>
    let m := if n < 8 then s.curWarp.pred n else uniform (s.curWarp.upred (n - 8))
    if neg then ~~~m else m
  | _ => 0

/-- The number of a named object, from the first of its kind (R146). -/
def objNum (x : Src) (first : Nat) : Nat :=
  match x with
  | .obj n _ => n - first
  | _ => 0

/-- The number of a register operand. -/
def regNum (x : Src) : Nat :=
  match x with
  | .v n _ _ => n
  | .k n _ _ => n
  | .m n => n
  | _ => 0

/-- Is the operand a v register? -/
def isVreg (x : Src) : Bool :=
  match x with
  | .v _ _ _ => true
  | _ => false

end Sys2Proof.Machine
end

