-- ==== Sys2Proof/Machine/Flags.lean ====
section
/-! DEFINITION. The sticky flags of a warp, the marker check, and what a per-lane instruction leaves (R102, R104, R211). -/
namespace Sys2Proof.Machine

/-- ARITH.FLAGS bits. -/
abbrev Flags := BitVec 8
/-- Invalid operation. -/
def flagInvalid : Flags := 1
/-- Division by zero. -/
def flagDivzero : Flags := 2
/-- Overflow. -/
def flagOverflow : Flags := 4
/-- Underflow. -/
def flagUnderflow : Flags := 8
/-- Inexact. -/
def flagInexact : Flags := 16
/-- A marker was read. -/
def flagUninit : Flags := 32
/-- Integer saturation. -/
def flagSat : Flags := 64
/-- An empty sequence was met. -/
def flagEmpty : Flags := 128

/-- The warp with flags set; UREG is left as it is. -/
def Warp.raise (w : Warp) (f : Flags) : Warp := { w with flags := w.flags ||| f.setWidth 32 }
/-- The warp with UNINIT set, and UREG recorded where UNINIT was clear (R104). -/
def Warp.raiseUninit (w : Warp) (reg : Nat) : Warp :=
  if w.flags.getLsbD 5 then w
  else { w with flags := (w.flags &&& 0x00FFFFFF) ||| 0x20 ||| BitVec.ofNat 32 (reg % 256 * 2 ^ 24) }

/-- Does a word look like the marker (R104)? -/
def isMarker (x : Word) : Bool := x.toNat / 256 == 0x7FA500


/-- The registers that a v operand of `n` words names. -/
def Src.vregs (x : Src) (n : Nat) : List Nat :=
  match x with
  | .v r _ _ => (List.range n).map (r + ·)
  | _ => []

/-- The first register, in operand order, whose value in a lane of `live` looks like the marker (R104). -/
def Warp.uninit (w : Warp) (live : LaneMask) (regs : List Nat) : Option Nat :=
  regs.find? fun r => (lanesOf live).any fun l => isMarker (w.getV l r)

/-- The warp after the check of R104 on the v registers that an instruction of classes 010 to 100 reads. -/
def Warp.checkUninit (w : Warp) (live : LaneMask) (regs : List Nat) : Warp :=
  match w.uninit live regs with
  | some r => w.raiseUninit r
  | none => w

/-- The union of flags. -/
def orFlags : List Flags → Flags
  | [] => 0
  | f :: r => f ||| orFlags r

/-- What one lane computes: the words for consecutive registers, and flags. -/
abbrev LaneOut := List Word × Flags

/-- A per-lane instruction on the lanes `act`, of which those of `live` are LIVE (R211): every lane computes from the
registers as they stood, then every result is written from register `d` on; the flags of LIVE lanes are set, after the
check of R104 on `regs`; then sequential flow. -/
def State.perLaneOn (s : State) (act live : LaneMask) (d : Nat) (regs : List Nat) (f : Nat → LaneOut) : State :=
  let outs := (lanesOf act).map fun l => (l, f l)
  let writes := outs.flatMap fun p => (List.range p.2.1.length).map fun i => (p.1, d + i, p.2.1.getD i 0)
  let flags := orFlags (outs.map fun p => if live.getLsbD p.1 then p.2.2 else 0)
  (s.updCurWarp fun w => ((w.checkUninit live regs).raise flags).setVs writes).advance

/-- A per-lane instruction of classes 010, 011 and 100 (R211). -/
def State.perLane (s : State) (op : Nat) (g : Guard) (d : Nat) (regs : List Nat) (f : Nat → LaneOut) : State :=
  s.perLaneOn (s.activeH op g) (s.active op g) d regs f

/-- A per-lane instruction that writes a p register (ICMP, FCMP). -/
def State.perLanePred (s : State) (op : Nat) (g : Guard) (d : Nat) (regs : List Nat) (f : Nat → Bool × Flags) : State :=
  let act := s.activeH op g
  let live := s.active op g
  let value := laneSet fun l => act.getLsbD l && (f l).1
  let flags := orFlags ((lanesOf live).map fun l => (f l).2)
  (s.updCurWarp fun w => ((w.checkUninit live regs).raise flags).setPred d act value).advance

end Sys2Proof.Machine
end

