-- ==== Sys2Proof/Machine/Float.lean ====
section
/-! DEFINITION. Float formats, exact values, and the one rounding of R97, with NaNs, flushing and saturation (R93 to R100). -/
namespace Sys2Proof.Machine

/-- A float format (R93, R94): exponent and fraction widths, bias; `e4m3` has no infinity, and one NaN of each sign. -/
structure FFmt where
  ebits : Nat
  fbits : Nat
  bias : Nat
  e4m3 : Bool := false
  deriving DecidableEq, Repr

/-- FP32. -/
def fp32 : FFmt := { ebits := 8, fbits := 23, bias := 127 }
/-- FP16. -/
def fp16 : FFmt := { ebits := 5, fbits := 10, bias := 15 }
/-- BF16. -/
def bf16 : FFmt := { ebits := 8, fbits := 7, bias := 127 }
/-- FP8 E4M3. -/
def e4m3 : FFmt := { ebits := 4, fbits := 3, bias := 7, e4m3 := true }
/-- FP8 E5M2. -/
def e5m2 : FFmt := { ebits := 5, fbits := 2, bias := 15 }
/-- F26. -/
def f26 : FFmt := { ebits := 8, fbits := 17, bias := 127 }

/-- The bit of the sign. -/
def FFmt.signBit (f : FFmt) : Nat := 2 ^ (f.ebits + f.fbits)
/-- +Infinity, or the NaN in E4M3 (R97). -/
def FFmt.infBits (f : FFmt) : Nat := if f.e4m3 then 0x7F else (2 ^ f.ebits - 1) * 2 ^ f.fbits
/-- The largest finite value. -/
def FFmt.maxBits (f : FFmt) : Nat := if f.e4m3 then 0x7E else f.infBits - 1
/-- The canonical NaN (R94). -/
def FFmt.canon (f : FFmt) : Nat := if f.e4m3 then 0x7F else f.infBits + 2 ^ (f.fbits - 1)
/-- The exponent of the least bit of a subnormal. -/
def FFmt.minExp (f : FFmt) : Int := 1 - (f.bias : Int) - f.fbits

/-- A value: finite, m × 2^e with a sign; infinite; or NaN, with its fraction aligned to 23 bits. -/
inductive FVal where
  | fin (neg : Bool) (m : Nat) (e : Int)
  | inf (neg : Bool)
  | nan (neg : Bool) (frac : Nat) (signalling : Bool)
  deriving DecidableEq, Repr

/-- Is the value a NaN? -/
def FVal.isNan : FVal → Bool
  | .nan _ _ _ => true
  | _ => false
/-- Is the value infinite? -/
def FVal.isInf : FVal → Bool
  | .inf _ => true
  | _ => false
/-- Is the value a signalling NaN? -/
def FVal.isSnan : FVal → Bool
  | .nan _ _ s => s
  | _ => false
/-- Is the value a zero? -/
def FVal.isZero : FVal → Bool
  | .fin _ m _ => m == 0
  | _ => false
/-- The sign. -/
def FVal.neg : FVal → Bool
  | .fin n _ _ => n
  | .inf n => n
  | .nan n _ _ => n
/-- The value with its sign changed. -/
def FVal.negate : FVal → FVal
  | .fin n m e => .fin (!n) m e
  | .inf n => .inf (!n)
  | .nan n f s => .nan (!n) f s

/-- value(b, F) (R93, R94), with subnormals read as zero of their sign where `flush` (R97). -/
def FFmt.value (f : FFmt) (flush : Bool) (b : Nat) : FVal :=
  let neg := b / f.signBit % 2 == 1
  let e := b / 2 ^ f.fbits % 2 ^ f.ebits
  let frac := b % 2 ^ f.fbits
  if f.e4m3 && b % 128 == 127 then .nan neg (frac * 2 ^ (23 - f.fbits)) false
  else if !f.e4m3 && e == 2 ^ f.ebits - 1 then
    if frac = 0 then .inf neg else .nan neg (frac * 2 ^ (23 - f.fbits)) (frac < 2 ^ (f.fbits - 1))
  else if e = 0 then .fin neg (if flush then 0 else frac) f.minExp
  else .fin neg (2 ^ f.fbits + frac) (f.minExp + (e - 1 : Nat))

/-- The effective mode of an instruction (R95, R96). -/
structure FMode where
  rnd : RndMode := .rne
  ftz : Bool := false
  sat : Bool := false
  nanp : Bool := false
  deriving DecidableEq, Repr

/-- The rounding mode that a RND field selects, given ARITH.MODE (R96). -/
def rndOf (mode : Word) (r : RndSel) : RndMode :=
  match r with
  | .mode => RndMode.ofBits (mode.toNat % 8)
  | .rne => .rne
  | .rz => .rz
  | .ru => .ru
  | .rd => .rd
  | .rna => .rna

/-- The effective mode, given ARITH.MODE (R96). -/
def modeOf (mode : Word) (r : RMod) : FMode :=
  { rnd := rndOf mode r.rnd, ftz := r.ftz || mode.getLsbD 3, sat := r.sat, nanp := r.nanp || mode.getLsbD 4 }

/-- Does a rounding go up, given the sign, whether the quotient is odd, the comparison of the remainder with one half
(0 below, 1 equal, 2 above), and whether it is inexact? -/
def roundsUp (r : RndMode) (neg odd : Bool) (half : Nat) (inexact : Bool) : Bool :=
  match r with
  | .rne => half == 2 || (half == 1 && odd)
  | .rna => half ≥ 1
  | .rz => false
  | .ru => !neg && inexact
  | .rd => neg && inexact

/-- m / 2^sh rounded to an integer, and whether it was inexact; `sticky` says that the value lies above m. -/
def roundShift (r : RndMode) (neg : Bool) (m sh : Nat) (sticky : Bool) : Nat × Bool :=
  let n := m / 2 ^ sh
  let rem := m % 2 ^ sh
  let half := 2 ^ sh / 2
  let inexact := rem != 0 || sticky
  let h := if sh = 0 then 0 else if rem > half || (rem == half && sticky) then 2 else if rem = half then 1 else 0
  (if roundsUp r neg (n % 2 == 1) h inexact then n + 1 else n, inexact)

/-- m × 2^e rounded to a multiple of 2^q. -/
def roundAt (r : RndMode) (neg : Bool) (m : Nat) (e q : Int) (sticky : Bool) : Nat × Bool :=
  if q ≤ e then (m * 2 ^ (e - q).toNat, sticky) else roundShift r neg m (q - e).toNat sticky

/-- The bits of a sign. -/
def FFmt.signed (f : FFmt) (neg : Bool) (b : Nat) : Nat := if neg then f.signBit + b else b

/-- What overflow delivers (R97, R99). -/
def FFmt.overflow (f : FFmt) (md : FMode) (neg : Bool) : Nat :=
  let big := match md.rnd with
    | .rz => true
    | .ru => neg
    | .rd => !neg
    | _ => false
  f.signed neg (if md.sat || big then f.maxBits else f.infBits)

/-- round_to of a finite value (R97): m × 2^e, which `sticky` places above that. -/
def FFmt.round (f : FFmt) (md : FMode) (neg : Bool) (m : Nat) (e : Int) (sticky : Bool) : Nat × Flags :=
  if m = 0 && !sticky then (f.signed neg 0, 0)
  else
    let qu := e + Nat.log2 m - f.fbits
    let q := max qu f.minExp
    let (n, inexact) := roundAt md.rnd neg m e q sticky
    let (nu, _) := roundAt md.rnd neg m e qu sticky
    let tiny := (qu < f.minExp) && decide (nu < 2 ^ (f.fbits + (f.minExp - qu).toNat))
    let b := (q - f.minExp).toNat * 2 ^ f.fbits + n
    if b > f.maxBits then (f.overflow md neg, flagOverflow ||| flagInexact)
    else if md.ftz && n ≠ 0 && b < 2 ^ f.fbits then (f.signed neg 0, flagUnderflow ||| flagInexact)
    else (f.signed neg b, (if inexact then flagInexact else 0) ||| (if inexact && tiny then flagUnderflow else 0))

/-- The NaN that an operation on `ops` delivers (R98), and INVALID for a signalling operand. -/
def FFmt.nanOf (f : FFmt) (md : FMode) (ops : List FVal) : Nat × Flags :=
  let fl : Flags := if ops.any FVal.isSnan then flagInvalid else 0
  match ops.find? FVal.isNan with
  | some (.nan neg frac _) =>
    if md.nanp then
      if f.e4m3 then (f.signed neg 0x7F, fl)
      else (f.signed neg (f.infBits + (frac / 2 ^ (23 - f.fbits)) % 2 ^ (f.fbits - 1) + 2 ^ (f.fbits - 1)), fl)
    else (f.canon, fl)
  | _ => (f.canon, fl)

/-- An invalid operation (R98). -/
def FFmt.invalid (f : FFmt) (md : FMode) (ops : List FVal) : Nat × Flags :=
  let r := f.nanOf md ops
  (r.1, r.2 ||| flagInvalid)

/-- An infinite result of an infinite operand (R97, R99). -/
def FFmt.infinity (f : FFmt) (md : FMode) (neg : Bool) : Nat × Flags :=
  (f.signed neg (if md.sat then f.maxBits else f.infBits), 0)

/-- round_to of any value. -/
def FFmt.roundVal (f : FFmt) (md : FMode) (x : FVal) : Nat × Flags :=
  match x with
  | .fin neg m e => f.round md neg m e false
  | .inf neg => f.infinity md neg
  | .nan _ _ _ => f.nanOf md [x]

/-- A product (R97), or none for 0 × ∞. Not for NaNs. -/
def FVal.mul : FVal → FVal → Option FVal
  | .fin a m e, .fin b n k => some (.fin (a != b) (m * n) (e + k))
  | .inf a, y => if y.isZero then none else some (.inf (a != y.neg))
  | x, .inf b => if x.isZero then none else some (.inf (x.neg != b))
  | x, _ => some x

/-- m × 2^e as a multiple of 2^q, for q ≤ e. -/
def scaled (neg : Bool) (m : Nat) (e q : Int) : Int :=
  let n : Int := (m * 2 ^ (e - q).toNat : Nat)
  if neg then -n else n

/-- The least exponent of a list of finite values. -/
def leastExp : List FVal → Int
  | [] => 0
  | [.fin _ _ e] => e
  | .fin _ _ e :: r => min e (leastExp r)
  | _ :: r => leastExp r

/-- The exact sum of finite values as a multiple of 2^q. -/
def sumAt (q : Int) : List FVal → Int
  | [] => 0
  | .fin neg m e :: r => scaled neg m e q + sumAt q r
  | _ :: r => sumAt q r

/-- The exact sum of values that are no NaNs (R97, R110): none for ∞ − ∞. A zero sum is −0 where every addend is −0, +0
where every addend is +0, and otherwise +0, or −0 under RD. -/
def sumVals (r : RndMode) (xs : List FVal) : Option FVal :=
  let infs := xs.filter FVal.isInf
  match infs with
  | i :: rest => if rest.all fun j => j.neg == i.neg then some (.inf i.neg) else none
  | [] =>
    let q := leastExp xs
    let n := sumAt q xs
    if n = 0 then
      some (.fin (if xs.all fun x => x.isZero && x.neg then true
        else if xs.all fun x => x.isZero && !x.neg then false else r == .rd) 0 q)
    else some (.fin (decide (n < 0)) n.natAbs q)

/-- The sum of values, rounded (R97, R98); `ops` are the operands in the order of R98. -/
def FFmt.sum (f : FFmt) (md : FMode) (ops xs : List FVal) : Nat × Flags :=
  match sumVals md.rnd xs with
  | none => f.invalid md ops
  | some x => f.roundVal md x

/-- a + b. -/
def FFmt.add (f : FFmt) (md : FMode) (a b : FVal) : Nat × Flags :=
  if a.isNan || b.isNan then f.nanOf md [a, b] else f.sum md [a, b] [a, b]
/-- a − b: a NaN b is delivered with its own sign. -/
def FFmt.sub (f : FFmt) (md : FMode) (a b : FVal) : Nat × Flags :=
  if a.isNan || b.isNan then f.nanOf md [a, b] else f.sum md [a, b] [a, b.negate]
/-- a × b. -/
def FFmt.mul (f : FFmt) (md : FMode) (a b : FVal) : Nat × Flags :=
  if a.isNan || b.isNan then f.nanOf md [a, b]
  else
    match a.mul b with
    | none => f.invalid md [a, b]
    | some x => f.roundVal md x

/-- The sum of products and addends, exact and rounded once: FFMA, HFMA2 and FDOT2 (R217, R219). A product 0 × ∞ is invalid
even beside a NaN addend; infinities of opposite signs beside a NaN are not (DESIGN CHOICE, log entry 83). -/
def FFmt.dot (f : FFmt) (md : FMode) (pairs : List (FVal × FVal)) (c : FVal) : Nat × Flags :=
  let ops := pairs.map (·.1) ++ pairs.map (·.2) ++ [c]
  let clean := pairs.filter fun p => !p.1.isNan && !p.2.isNan
  let prods := clean.map fun p => p.1.mul p.2
  if prods.any Option.isNone then f.invalid md ops
  else if ops.any FVal.isNan then f.nanOf md ops
  else f.sum md ops (prods.filterMap id ++ [c])

/-- Is the first value less than the second? Neither is a NaN, and −0 equals +0 (R218). -/
def FVal.lt (a b : FVal) : Bool :=
  match a, b with
  | .inf n, .inf k => n && !k
  | .inf n, _ => n
  | _, .inf k => !k
  | .fin n m e, .fin k l h => let q := min e h; decide (scaled n m e q < scaled k l h q)
  | _, _ => false

/-- FMIN and FMAX (R218) on two values with their bits. -/
def minMaxVal (f : FFmt) (md : FMode) (isMax : Bool) (a b : FVal) (abits bbits : Nat) : Nat × Flags :=
  let fl : Flags := if a.isSnan || b.isSnan then flagInvalid else 0
  let out (x : FVal) (bits : Nat) : Nat := if x.isZero then f.signed x.neg 0 else bits
  if a.isNan || b.isNan then
    if md.nanp then f.nanOf md [a, b]
    else if a.isNan && b.isNan then (f.canon, fl)
    else if a.isNan then (out b bbits, fl) else (out a abits, fl)
  else
    let less := a.lt b || (a.isZero && b.isZero && a.neg && !b.neg)
    (if less != isMax then out a abits else out b bbits, 0)

/-- FCMP's conditions (R218). -/
def fcondHolds (c : FCond) (a b : FVal) : Bool :=
  let un := a.isNan || b.isNan
  match c with
  | .eq => !un && !a.lt b && !b.lt a
  | .ne => un || a.lt b || b.lt a
  | .lt => !un && a.lt b
  | .le => !un && !b.lt a
  | .gt => !un && b.lt a
  | .ge => !un && !a.lt b
  | .num => !un
  | .nan => un

/-- A finite value rounded to an integer, and whether it was inexact. -/
def roundInt (r : RndMode) (neg : Bool) (m : Nat) (e : Int) : Int × Bool :=
  let (n, x) := roundAt r neg m e 0 false
  (if neg then -(n : Int) else n, x)

/-- round_f32 of a sum of FP32 patterns (R109, R242): RNE, subnormals kept, the canonical NaN. -/
def addF32 (a b : Word) : Word := BitVec.ofNat 32 (fp32.add {} (fp32.value false a.toNat) (fp32.value false b.toNat)).1

end Sys2Proof.Machine
end

