-- ==== Sys2Proof/Machine/Special.lean ====
section
/-! DEFINITION. The special functions of R224 (and the logarithm of LOGE, R325), correctly rounded: each value is formed with
`specialBits` fraction bits, cut off, and marked as lying above what was kept (log entry 10). -/
namespace Sys2Proof.Machine

/-- Fraction bits of the working values. -/
def specialBits : Nat := 640
/-- Terms of a series that bring it below the working precision. -/
def specialTerms : Nat := 260

/-- The square root of `n`, cut off, by halving the range: `fuel` bits. -/
def sqrtBits (n : Nat) : Nat → Nat → Nat
  | 0, r => r
  | k + 1, r =>
    let c := r + 2 ^ k
    sqrtBits n k (if c * c ≤ n then c else r)
/-- The square root of a number, cut off. -/
def natSqrt (n : Nat) : Nat := sqrtBits n (Nat.log2 n / 2 + 1) 0

/-- Σ z^(2i+1) / (2i+1) over `fuel` terms, with `sign` −1 for the arctangent and 1 for the hyperbolic one: `t` is the
power reached, `z2` the square of z, both times 2^p. -/
def oddSeries (p : Nat) (sign : Int) (z2 : Int) : Nat → Nat → Int → Int
  | 0, _, _ => 0
  | fuel + 1, i, t => t / (2 * i + 1 : Nat) + oddSeries p sign z2 fuel (i + 1) (sign * t * z2 / (2 ^ p : Nat))
/-- artanh z, times 2^p. -/
def artanh (p : Nat) (z : Int) : Int := oddSeries p 1 (z * z / (2 ^ p : Nat)) specialTerms 0 z
/-- arctan 1/n, times 2^p. -/
def arctanInv (p n : Nat) : Int := oddSeries p (-1) ((2 ^ p / (n * n) : Nat) : Int) specialTerms 0 ((2 ^ p / n : Nat) : Int)
/-- ln 2, times 2^p. -/
def ln2 (p : Nat) : Int := 2 * artanh p ((2 ^ p / 3 : Nat) : Int)
/-- π, times 2^p (Machin's sum). -/
def piFix (p : Nat) : Int := 16 * arctanInv p 5 - 4 * arctanInv p 239

/-- Σ z^i / i! from the term `t` of index `i`. -/
def expSeries (p : Nat) (z : Int) : Nat → Nat → Int → Int
  | 0, _, _ => 0
  | fuel + 1, i, t => t + expSeries p z fuel (i + 1) (t * z / (2 ^ p : Nat) / (i + 1 : Nat))
/-- e^z, times 2^p, for |z| below 1. -/
def expFix (p : Nat) (z : Int) : Int := expSeries p z specialTerms 0 ((2 ^ p : Nat) : Int)

/-- Σ of the alternating series of sine (from i = 1, t = z) or cosine (from i = 0, t = 1). -/
def trigSeries (p : Nat) (z2 : Int) : Nat → Nat → Int → Int
  | 0, _, _ => 0
  | fuel + 1, i, t => t + trigSeries p z2 fuel (i + 2) (-(t * z2 / (2 ^ p : Nat)) / ((i + 1) * (i + 2) : Nat))
/-- sin z, times 2^p. -/
def sinFix (p : Nat) (z : Int) : Int := trigSeries p (z * z / (2 ^ p : Nat)) specialTerms 1 z
/-- cos z, times 2^p. -/
def cosFix (p : Nat) (z : Int) : Int := trigSeries p (z * z / (2 ^ p : Nat)) specialTerms 0 ((2 ^ p : Nat) : Int)

/-- A finite value times 2^p, cut off. -/
def toFix (p : Nat) (neg : Bool) (m : Nat) (e : Int) : Int :=
  let k := e + p
  let n : Nat := if k ≥ 0 then m * 2 ^ k.toNat else m / 2 ^ (-k).toNat
  if neg then -(n : Int) else n

/-- A value that is no FP32 number, as a working value times 2^−p: rounded as lying just above what was kept. -/
def fromFix (md : FMode) (p : Nat) (x : Int) : Nat × Flags := fp32.round md (decide (x < 0)) x.natAbs (-(p : Int)) true

/-- 1/x for finite x ≠ 0. -/
def rcpFin (md : FMode) (neg : Bool) (m : Nat) (e : Int) : Nat × Flags :=
  let k := Nat.log2 m + 64
  fp32.round md neg (2 ^ k / m) (-e - k) (2 ^ k % m != 0)
/-- √x for finite x > 0. -/
def sqrtFin (md : FMode) (m : Nat) (e : Int) : Nat × Flags :=
  let odd := e % 2 != 0
  let n := (if odd then 2 * m else m) * 2 ^ 64
  let r := natSqrt n
  fp32.round md false r ((if odd then e - 1 else e) / 2 - 32) (r * r != n)
/-- 1/√x for finite x > 0. -/
def rsqFin (md : FMode) (m : Nat) (e : Int) : Nat × Flags :=
  let odd := e % 2 != 0
  let n := if odd then 2 * m else m
  let k := Nat.log2 n + 64
  let r := natSqrt (2 ^ (2 * k) / n)
  fp32.round md false r (-((if odd then e - 1 else e) / 2) - k) (r * r * n != 2 ^ (2 * k))
/-- 2^x for finite x. -/
def ex2Fin (md : FMode) (neg : Bool) (m : Nat) (e : Int) : Nat × Flags :=
  if m = 0 then fp32.round md false 1 0 false
  else if e + Nat.log2 m ≥ 9 then
    if neg then fp32.round md false 1 (-1000) false else fp32.round md false 1 1000 false
  else
    let p := specialBits
    let x := toFix p neg m e
    let n := x / (2 ^ p : Nat)
    let f := x % (2 ^ p : Nat)
    if f = 0 then fp32.round md false 1 n false
    else
      let y := expFix p (f * ln2 p / (2 ^ p : Nat))
      fp32.round md false y.natAbs (n - p) true
/-- ln y times 2^p for y = m / 2^(log2 m), from 1 to 2. -/
def lnFix (p m : Nat) : Int :=
  let one := 2 ^ Nat.log2 m
  2 * artanh p (((m - one) * 2 ^ p / (m + one) : Nat) : Int)
/-- log₂ x for finite x > 0. -/
def lg2Fin (md : FMode) (m : Nat) (e : Int) : Nat × Flags :=
  let n := e + Nat.log2 m
  if m = 2 ^ Nat.log2 m then
    fp32.round md (decide (n < 0)) n.natAbs 0 false
  else
    let p := specialBits
    fromFix md p (n * (2 ^ p : Nat) + lnFix p m * (2 ^ p : Nat) / ln2 p)
/-- ln x for finite x > 0. -/
def lnFin (md : FMode) (m : Nat) (e : Int) : Nat × Flags :=
  let n := e + Nat.log2 m
  if m = 2 ^ Nat.log2 m && n == 0 then (0, 0)
  else
    let p := specialBits
    fromFix md p (n * ln2 p + lnFix p m)

/-- Is a zero operand's answer of SIN, or COS: sine of a finite x ≠ 0, reduced by a multiple of π/2. -/
def trigFin (md : FMode) (cosine neg : Bool) (m : Nat) (e : Int) : Nat × Flags :=
  let p := specialBits + 192
  let x := toFix p neg m e
  let half := piFix p / 2
  let q := (2 * x + half) / (2 * half)
  let r := x - q * half
  let k := (q + (if cosine then 1 else 0)) % 4
  let y := if k % 2 = 0 then sinFix p r else cosFix p r
  fromFix md p (if k ≥ 2 then -y else y)
/-- tanh x for finite x ≠ 0. -/
def tanhFin (md : FMode) (neg : Bool) (m : Nat) (e : Int) : Nat × Flags :=
  let p := specialBits
  let sg (y : Int) : Int := if neg then -y else y
  if e + Nat.log2 m ≥ 7 then fromFix md p (sg ((2 ^ p : Nat) - 1))
  else
    let z := 2 * toFix p false m e
    let l := ln2 p
    let n := z / l
    let y := expFix p (z % l) * (2 ^ n.toNat : Nat)
    fromFix md p (sg ((y - (2 ^ p : Nat)) * (2 ^ p : Nat) / (y + (2 ^ p : Nat))))

/-- The functions of R224, and LOGE's. -/
inductive SpecialFn where
  | rcp | rsq | sqrt | ex2 | lg2 | sin | cos | tanh | ln
  deriving DecidableEq, Repr

/-- +∞ or −∞ from a zero (R224): DIVZERO, with .SAT as an overflow. -/
def divZero (md : FMode) (neg : Bool) : Nat × Flags :=
  if md.sat then (fp32.signed neg fp32.maxBits, flagDivzero ||| flagOverflow ||| flagInexact)
  else (fp32.signed neg fp32.infBits, flagDivzero)

/-- A function of R224 on a value (its table first). -/
def specialFn (fn : SpecialFn) (md : FMode) (x : FVal) : Nat × Flags :=
  match x with
  | .nan _ _ _ => fp32.nanOf md [x]
  | .inf neg =>
    match fn with
    | .rcp => (fp32.signed neg 0, 0)
    | .rsq => if neg then fp32.invalid md [x] else (0, 0)
    | .sqrt => if neg then fp32.invalid md [x] else fp32.infinity md false
    | .ex2 => if neg then (0, 0) else fp32.infinity md false
    | .lg2 => if neg then fp32.invalid md [x] else fp32.infinity md false
    | .ln => if neg then fp32.invalid md [x] else fp32.infinity md false
    | .sin => fp32.invalid md [x]
    | .cos => fp32.invalid md [x]
    | .tanh => (fp32.signed neg 0x3F800000, 0)
  | .fin neg 0 _ =>
    match fn with
    | .rcp => divZero md neg
    | .rsq => divZero md neg
    | .sqrt => (fp32.signed neg 0, 0)
    | .ex2 => (0x3F800000, 0)
    | .lg2 => divZero md true
    | .ln => divZero md true
    | .sin => (fp32.signed neg 0, 0)
    | .cos => (0x3F800000, 0)
    | .tanh => (fp32.signed neg 0, 0)
  | .fin neg (m + 1) e =>
    match fn with
    | .rcp => rcpFin md neg (m + 1) e
    | .rsq => if neg then fp32.invalid md [x] else rsqFin md (m + 1) e
    | .sqrt => if neg then fp32.invalid md [x] else sqrtFin md (m + 1) e
    | .ex2 => ex2Fin md neg (m + 1) e
    | .lg2 => if neg then fp32.invalid md [x] else lg2Fin md (m + 1) e
    | .ln => if neg then fp32.invalid md [x] else lnFin md (m + 1) e
    | .sin => trigFin md false neg (m + 1) e
    | .cos => trigFin md true neg (m + 1) e
    | .tanh => tanhFin md neg (m + 1) e

end Sys2Proof.Machine
end

