-- ==== Sys2Proof/Machine/IntOps.lean ====
section
/-! DEFINITION. Integer operations on words of a width (R202, R213, R215). -/
namespace Sys2Proof.Machine

/-- Bits [2w − 1 : w] of the exact product (KMULH, IMULH). -/
def mulHigh {w : Nat} (unsigned : Bool) (a b : BitVec w) : BitVec w :=
  if unsigned then BitVec.ofNat w (a.toNat * b.toNat / 2 ^ w)
  else BitVec.ofInt w ((a.toInt * b.toInt) / (2 ^ w : Nat))

/-- KSHL and ISHL: 0 for a count of the width or more. -/
def shiftLeft {w : Nat} (a : BitVec w) (s : Word) : BitVec w := if s.toNat ≥ w then 0 else a <<< s.toNat
/-- KSHR and ISHR. -/
def shiftRight {w : Nat} (a : BitVec w) (s : Word) : BitVec w := if s.toNat ≥ w then 0 else a >>> s.toNat
/-- KSAR and ISAR: the count is at most the width less one. -/
def shiftArith {w : Nat} (a : BitVec w) (s : Word) : BitVec w := a.sshiftRight (min s.toNat (w - 1))

/-- Is the first value the lesser? -/
def lessThan {w : Nat} (unsigned : Bool) (a b : BitVec w) : Bool := if unsigned then a.ult b else a.slt b
/-- The lesser value. -/
def lesser {w : Nat} (unsigned : Bool) (a b : BitVec w) : BitVec w := if lessThan unsigned b a then b else a
/-- The greater value. -/
def greater {w : Nat} (unsigned : Bool) (a b : BitVec w) : BitVec w := if lessThan unsigned a b then b else a

/-- A condition of KCMP and ICMP (R202). -/
def condHolds {w : Nat} (c : Cond) (unsigned : Bool) (a b : BitVec w) : Bool :=
  match c with
  | .eq => a == b
  | .ne => a != b
  | .lt => lessThan unsigned a b
  | .le => !lessThan unsigned b a
  | .gt => lessThan unsigned b a
  | .ge => !lessThan unsigned a b

/-- The number of one bits among the low `n`. -/
def onesBelow (x : Nat) : Nat → Nat
  | 0 => 0
  | n + 1 => onesBelow x n + (if x.testBit n then 1 else 0)
/-- The number of one bits. -/
def popCount {w : Nat} (a : BitVec w) : Nat := onesBelow a.toNat w
/-- Leading zero bits among the low `n`. -/
def leadZeros (x : Nat) : Nat → Nat
  | 0 => 0
  | n + 1 => if x.testBit n then 0 else leadZeros x n + 1
/-- The number of leading zero bits. -/
def countLeadingZeros {w : Nat} (a : BitVec w) : Nat := leadZeros a.toNat w

/-- KBFE and IBFE: the field of `len` bits at `pos`, from the position word `b` (R202). -/
def bitFieldExtract {w : Nat} (signed : Bool) (a : BitVec w) (b : Word) : BitVec w :=
  let pos := b.toNat % 256
  let len := b.toNat / 256 % 256
  let x : Int := if signed then a.toInt else a.toNat
  let y := (x / (2 ^ pos : Nat)) % (2 ^ len : Nat)
  if len = 0 then 0
  else if signed && y ≥ (2 ^ (len - 1) : Nat) then BitVec.ofInt w (y - (2 ^ len : Nat))
  else BitVec.ofInt w y

/-- KBFI and IBFI: `c` with the field replaced by the low bits of `a` (R202). -/
def bitFieldInsert {w : Nat} (a : BitVec w) (b : Word) (c : BitVec w) : BitVec w :=
  let pos := b.toNat % 256
  let len := b.toNat / 256 % 256
  if len = 0 || pos ≥ w then c
  else
    let n := min (pos + len) w - pos
    let mask : BitVec w := BitVec.ofNat w (2 ^ n - 1) <<< pos
    (c &&& ~~~mask) ||| ((a <<< pos) &&& mask)

/-- The least and the greatest value of a width (R213). -/
def loBound (unsigned : Bool) (w : Nat) : Int := if unsigned then 0 else -(2 ^ (w - 1) : Nat)
/-- The greatest value. -/
def hiBound (unsigned : Bool) (w : Nat) : Int := if unsigned then (2 ^ w : Nat) - 1 else (2 ^ (w - 1) : Nat) - 1
/-- clamp of R171. -/
def clampInt (x lo hi : Int) : Int := if x < lo then lo else if hi < x then hi else x

/-- A word read signed or unsigned. -/
def readInt {w : Nat} (unsigned : Bool) (a : BitVec w) : Int := if unsigned then a.toNat else a.toInt

/-- A result of R213: wrapped, or clamped with `true` where it clamps. -/
def intResult (w : Nat) (unsigned sat : Bool) (x : Int) : BitVec w × Bool :=
  if sat then
    let y := clampInt x (loBound unsigned w) (hiBound unsigned w)
    (BitVec.ofInt w y, y != x)
  else (BitVec.ofInt w x, false)

end Sys2Proof.Machine
end

