-- ==== Sys2Proof/Machine/VecInt.lean ====
section
/-! DEFINITION. Class 010: vector integer operations (R213 to R215). -/
namespace Sys2Proof.Machine

/-- The v registers that the 32-bit sources of an instruction read, in operand order (R104). -/
def Args.vregs (o : Args) : List Nat := Src.vregs o.a 1 ++ Src.vregs o.b 1 ++ Src.vregs o.c 1

/-- A class 010 operation of 32-bit sources into one v register. -/
def State.viop (s : State) (k : OpKind) (o : Args) (f : Word → Word → Word → Word × Flags) : State :=
  s.perLane 0x100 o.g o.d (Args.vregs o) fun l =>
    let r := f (s.opnd k o.a l) (s.opnd k o.b l) (s.opnd k o.c l)
    ([r.1], r.2)

/-- SAT where a result was clamped (R213). -/
def satFlag (b : Bool) : Flags := if b then flagSat else 0

/-- A result of R213 with its flag. -/
def satResult (unsigned sat : Bool) (x : Int) : Word × Flags :=
  let r := intResult 32 unsigned sat x
  (r.1, satFlag r.2)

/-- IADD (R215). -/
def execIadd (o : Args) (u sat : Bool) (s : State) : Out :=
  .next (s.viop .int o fun a b _ => satResult u sat (readInt u a + readInt u b))
/-- ISUB. -/
def execIsub (o : Args) (u sat : Bool) (s : State) : Out :=
  .next (s.viop .int o fun a b _ => satResult u sat (readInt u a - readInt u b))
/-- IMUL. -/
def execImul (o : Args) (u sat : Bool) (s : State) : Out :=
  .next (s.viop .int o fun a b _ => satResult u sat (readInt u a * readInt u b))
/-- IMULH. -/
def execImulh (o : Args) (u : Bool) (s : State) : Out :=
  .next (s.viop .int o fun a b _ => (mulHigh u a b, 0))
/-- IMAD. -/
def execImad (o : Args) (u sat : Bool) (s : State) : Out :=
  .next (s.viop .int o fun a b c => satResult u sat (readInt u a * readInt u b + readInt u c))
/-- IMADW: C and the result are of 64 bits. -/
def execImadw (o : Args) (u sat : Bool) (s : State) : Out :=
  .next (s.perLane 0x100 o.g o.d (Src.vregs o.a 1 ++ Src.vregs o.b 1 ++ Src.vregs o.c 2) fun l =>
    let x := readInt u (s.opnd .int o.a l) * readInt u (s.opnd .int o.b l) + readInt u (s.opnd64 .int o.c l)
    let r := intResult 64 u sat x
    ([r.1.extractLsb' 0 32, r.1.extractLsb' 32 32], satFlag r.2))
/-- ISHL. -/
def execIshl (o : Args) (s : State) : Out := .next (s.viop .int o fun a b _ => (shiftLeft a b, 0))
/-- ISHR. -/
def execIshr (o : Args) (s : State) : Out := .next (s.viop .int o fun a b _ => (shiftRight a b, 0))
/-- ISAR. -/
def execIsar (o : Args) (s : State) : Out := .next (s.viop .int o fun a b _ => (shiftArith a b, 0))
/-- LAND. -/
def execLand (o : Args) (s : State) : Out := .next (s.viop .logic o fun a b _ => (a &&& b, 0))
/-- LOR. -/
def execLor (o : Args) (s : State) : Out := .next (s.viop .logic o fun a b _ => (a ||| b, 0))
/-- LXOR. -/
def execLxor (o : Args) (s : State) : Out := .next (s.viop .logic o fun a b _ => (a ^^^ b, 0))
/-- LNOT. -/
def execLnot (o : Args) (s : State) : Out := .next (s.viop .logic o fun a _ _ => (~~~a, 0))
/-- IMIN. -/
def execImin (o : Args) (u : Bool) (s : State) : Out := .next (s.viop .int o fun a b _ => (lesser u a b, 0))
/-- IMAX. -/
def execImax (o : Args) (u : Bool) (s : State) : Out := .next (s.viop .int o fun a b _ => (greater u a b, 0))
/-- IABS. -/
def execIabs (o : Args) (sat : Bool) (s : State) : Out :=
  .next (s.viop .int o fun a _ _ => satResult false sat (if a.toInt < 0 then -a.toInt else a.toInt))
/-- ISEL: A where the predicate of C holds in the lane, else B. -/
def execIsel (o : Args) (s : State) : Out :=
  .next (s.perLane 0x100 o.g o.d (Args.vregs o) fun l =>
    ([if (s.predObj o.c).getLsbD l then s.opnd .int o.a l else s.opnd .int o.b l], 0))
/-- ICMP. -/
def execIcmp (o : Args) (u : Bool) (cond : Cond) (s : State) : Out :=
  .next (s.perLanePred 0x100 o.g o.d (Args.vregs o) fun l =>
    (condHolds cond u (s.opnd .int o.a l) (s.opnd .int o.b l), 0))
/-- IBFE. -/
def execIbfe (o : Args) (sgn : Bool) (s : State) : Out :=
  .next (s.viop .logic o fun a b _ => (bitFieldExtract sgn a b, 0))
/-- IBFI. -/
def execIbfi (o : Args) (s : State) : Out := .next (s.viop .logic o fun a b c => (bitFieldInsert a b c, 0))
/-- IPOPC. -/
def execIpopc (o : Args) (s : State) : Out := .next (s.viop .logic o fun a _ _ => (BitVec.ofNat 32 (popCount a), 0))
/-- ICLZ. -/
def execIclz (o : Args) (s : State) : Out :=
  .next (s.viop .logic o fun a _ _ => (BitVec.ofNat 32 (countLeadingZeros a), 0))
/-- IBREV. -/
def execIbrev (o : Args) (s : State) : Out := .next (s.viop .logic o fun a _ _ => (a.reverse, 0))

/-- One byte of BPICK's result: control byte `q` over the eight bytes of `b` and `a`, `a` lowest (R215). -/
def bpickByte (a b : Word) (q : BitVec 8) : Byte :=
  let y : Byte := (b ++ a).extractLsb' (8 * (q.toNat % 8)) 8
  match q.toNat / 8 % 4 with
  | 0 => y
  | 1 => 0
  | 2 => 0xFF
  | _ => ~~~y
/-- BPICK. -/
def execBpick (o : Args) (s : State) : Out :=
  .next (s.viop .logic o fun a b c =>
    let f (i : Nat) : Byte := bpickByte a b (c.extractLsb' (8 * i) 8)
    (f 3 ++ f 2 ++ f 1 ++ f 0, 0))

/-- Byte `i` of a word as an integer. -/
def byteInt (unsigned : Bool) (x : Word) (i : Nat) : Int := readInt unsigned (x.extractLsb' (8 * i) 8)
/-- Half `i` of a word as an integer. -/
def halfInt (unsigned : Bool) (x : Word) (i : Nat) : Int := readInt unsigned (x.extractLsb' (16 * i) 16)
/-- IDP4 (R101, R215). -/
def execIdp4 (o : Args) (ua ub sat : Bool) (s : State) : Out :=
  .next (s.viop .bits o fun a b c =>
    satResult false sat (byteInt ua a 0 * byteInt ub b 0 + byteInt ua a 1 * byteInt ub b 1
      + byteInt ua a 2 * byteInt ub b 2 + byteInt ua a 3 * byteInt ub b 3 + c.toInt))
/-- IDP2 (R101, R215). -/
def execIdp2 (o : Args) (hi ua ub sat : Bool) (s : State) : Out :=
  .next (s.viop .bits o fun a b c =>
    let j := if hi then 2 else 0
    satResult false sat (halfInt ua a 0 * byteInt ub b j + halfInt ua a 1 * byteInt ub b (j + 1) + c.toInt))
/-- IMOV. -/
def execImov (o : Args) (s : State) : Out := .next (s.viop .logic o fun a _ _ => (a, 0))

end Sys2Proof.Machine
end

