-- ==== Sys2Proof/Machine/VecFloat.lean ====
section
/-! DEFINITION. Class 011 and the special functions of class 100: vector float operations (R216 to R224). -/
namespace Sys2Proof.Machine

/-- The effective mode of the issuing warp (R95, R96). -/
def State.fmode (s : State) (r : RMod) : FMode := modeOf s.curWarp.mode r

/-- An FP32 source in lane `l`, with flushing. -/
def State.f32 (s : State) (md : FMode) (x : Src) (l : Nat) : FVal := fp32.value md.ftz (s.opnd .float x l).toNat

/-- A float operation into one v register. -/
def State.vfop (s : State) (o : Args) (f : Nat → Nat × Flags) : State :=
  s.perLane 0x180 o.g o.d (Args.vregs o) fun l => let r := f l; ([BitVec.ofNat 32 r.1], r.2)

/-- FADD (R217). -/
def execFadd (o : Args) (r : RMod) (s : State) : Out :=
  let md := s.fmode r
  .next (s.vfop o fun l => fp32.add md (s.f32 md o.a l) (s.f32 md o.b l))
/-- FSUB. -/
def execFsub (o : Args) (r : RMod) (s : State) : Out :=
  let md := s.fmode r
  .next (s.vfop o fun l => fp32.sub md (s.f32 md o.a l) (s.f32 md o.b l))
/-- FMUL. -/
def execFmul (o : Args) (r : RMod) (s : State) : Out :=
  let md := s.fmode r
  .next (s.vfop o fun l => fp32.mul md (s.f32 md o.a l) (s.f32 md o.b l))
/-- FFMA. -/
def execFfma (o : Args) (r : RMod) (s : State) : Out :=
  let md := s.fmode r
  .next (s.vfop o fun l => fp32.dot md [(s.f32 md o.a l, s.f32 md o.b l)] (s.f32 md o.c l))

/-- FMIN or FMAX in lane `l`. -/
def State.fminmax (s : State) (o : Args) (isMax nanp ftz : Bool) (l : Nat) : Nat × Flags :=
  let md := s.fmode { ftz := ftz, nanp := nanp }
  minMaxVal fp32 md isMax (s.f32 md o.a l) (s.f32 md o.b l) (s.opnd .float o.a l).toNat (s.opnd .float o.b l).toNat
/-- FMIN (R218). -/
def execFmin (o : Args) (nanp ftz : Bool) (s : State) : Out := .next (s.vfop o fun l => s.fminmax o false nanp ftz l)
/-- FMAX. -/
def execFmax (o : Args) (nanp ftz : Bool) (s : State) : Out := .next (s.vfop o fun l => s.fminmax o true nanp ftz l)

/-- FCMP (R218). -/
def execFcmp (o : Args) (cond : FCond) (ftz : Bool) (s : State) : Out :=
  let md := s.fmode { ftz := ftz }
  .next (s.perLanePred 0x186 o.g o.d (Args.vregs o) fun l =>
    let a := s.f32 md o.a l
    let b := s.f32 md o.b l
    (fcondHolds cond a b, if a.isSnan || b.isSnan then flagInvalid else 0))

/-- The class bit of an FP32 pattern (R218). -/
def fclassBit (b : Nat) : Nat :=
  match fp32.value false b with
  | .inf neg => if neg then 0 else 7
  | .nan _ _ s => if s then 8 else 9
  | .fin neg m _ =>
    if m = 0 then (if neg then 3 else 4) else if m < 2 ^ 23 then (if neg then 2 else 5) else if neg then 1 else 6
/-- FCLASS. -/
def execFclass (o : Args) (s : State) : Out :=
  .next (s.vfop o fun l => (2 ^ fclassBit (s.opnd .float o.a l).toNat, 0))

/-- FRND of a value (R218). -/
def frndVal (md : FMode) (x : FVal) : Nat × Flags :=
  match x with
  | .nan _ _ _ => fp32.nanOf md [x]
  | .inf neg => (fp32.signed neg fp32.infBits, 0)
  | .fin neg m e => (fp32.round {} neg (roundAt md.rnd neg m e 0 false).1 0 false |>.1, 0)
/-- FRND. -/
def execFrnd (o : Args) (nanp ftz : Bool) (rnd : RndSel) (s : State) : Out :=
  let md := s.fmode { ftz := ftz, nanp := nanp, rnd := rnd }
  .next (s.vfop o fun l => frndVal md (s.f32 md o.a l))

/-- The format of packed halves (R219). -/
def halfFmt (bf : Bool) : FFmt := if bf then bf16 else fp16
/-- Half `h` of a packed source in lane `l`. -/
def State.half (s : State) (f : FFmt) (md : FMode) (x : Src) (l h : Nat) : FVal :=
  f.value md.ftz ((s.opnd .half x l).toNat / 2 ^ (16 * h) % 2 ^ 16)
/-- A packed operation, half by half. -/
def State.packed (s : State) (o : Args) (f : Nat → Nat → Nat × Flags) : State :=
  s.vfop o fun l =>
    let x := f l 0
    let y := f l 1
    (x.1 + y.1 * 2 ^ 16, x.2 ||| y.2)
/-- HADD2 (R219). -/
def execHadd2 (o : Args) (bf : Bool) (r : RMod) (s : State) : Out :=
  let md := s.fmode r
  let f := halfFmt bf
  .next (s.packed o fun l h => f.add md (s.half f md o.a l h) (s.half f md o.b l h))
/-- HFMA2. -/
def execHfma2 (o : Args) (bf : Bool) (r : RMod) (s : State) : Out :=
  let md := s.fmode r
  let f := halfFmt bf
  .next (s.packed o fun l h => f.dot md [(s.half f md o.a l h, s.half f md o.b l h)] (s.half f md o.c l h))
/-- FDOT2. -/
def execFdot2 (o : Args) (bf : Bool) (r : RMod) (s : State) : Out :=
  let md := s.fmode r
  let f := halfFmt bf
  .next (s.vfop o fun l =>
    fp32.dot md [(s.half f md o.a l 0, s.half f md o.b l 0), (s.half f md o.a l 1, s.half f md o.b l 1)]
      (s.f32 md o.c l))

/-! ## CVT (R220, R221) -/

/-- A format of CVT: a float format, or an integer of a width. -/
inductive NumFmt where
  | float (f : FFmt)
  | int (unsigned : Bool) (w : Nat)
  deriving DecidableEq, Repr

/-- The format of a code (R220). -/
def numFmt : CvtFmt → NumFmt
  | .bf16 => .float bf16
  | .fp16 => .float fp16
  | .e4m3 => .float e4m3
  | .e5m2 => .float e5m2
  | .int8 => .int false 8
  | .fp32 => .float fp32
  | .int32 => .int false 32
  | .uint8 => .int true 8
  | .int16 => .int false 16
  | .uint16 => .int true 16
  | .uint32 => .int true 32
  | .int64 => .int false 64
  | .uint64 => .int true 64
/-- Bits of a format. -/
def NumFmt.width : NumFmt → Nat
  | .float f => 1 + f.ebits + f.fbits
  | .int _ w => w
/-- Negate and absolute value on a part, in its kind (R221). -/
def NumFmt.negAbs (f : NumFmt) (neg abs : Bool) (x : Nat) : Nat :=
  let w := f.width
  match f with
  | .float _ =>
    let y := if abs then x % 2 ^ (w - 1) else x
    if neg then (if y < 2 ^ (w - 1) then y + 2 ^ (w - 1) else y - 2 ^ (w - 1)) else y
  | .int _ _ =>
    let y := if abs && x ≥ 2 ^ (w - 1) then (2 ^ w - x) % 2 ^ w else x
    if neg then (2 ^ w - y) % 2 ^ w else y
/-- The signs of a register operand, and the operand without them. -/
def Src.bare : Src → Src × Bool × Bool
  | .v n neg abs => (.v n false false, neg, abs)
  | .k n neg abs => (.k n false false, neg, abs)
  | x => (x, false, false)
/-- An integer format's value. -/
def intValue (unsigned : Bool) (w x : Nat) : Int := if unsigned || x < 2 ^ (w - 1) then x else (x : Int) - (2 ^ w : Nat)

/-- The conversion of a part (R221). -/
def convert (md : FMode) (sf df : NumFmt) (x : Nat) : Nat × Flags :=
  match sf, df with
  | .float f, .float g => g.roundVal md (f.value md.ftz x)
  | .int u w, .float g =>
    let v := intValue u w x
    g.round md (decide (v < 0)) v.natAbs 0 false
  | .float f, .int u w =>
    let out (y : Int) : Nat := (BitVec.ofInt w y).toNat
    match f.value md.ftz x with
    | .nan _ _ _ => (0, flagInvalid)
    | .inf neg => (out (if neg then loBound u w else hiBound u w), flagInvalid)
    | .fin neg m e =>
      let (n, inexact) := roundInt md.rnd neg m e
      let y := clampInt n (loBound u w) (hiBound u w)
      (out y, if y ≠ n then flagInvalid else if inexact then flagInexact else 0)
  | .int u w, .int v z =>
    let r := intResult z v md.sat (intValue u w x)
    (r.1.toNat, satFlag r.2)

/-- The part of CVT's source in lane `l`. -/
def State.cvtPart (s : State) (x : Src) (sf : NumFmt) (spart : Nat) (l : Nat) : Nat :=
  let (y, neg, abs) := Src.bare x
  let w := sf.width
  let raw := if w = 64 then (s.opnd64 .bits y l).toNat else (s.opnd .bits y l).toNat
  sf.negAbs neg abs (raw / 2 ^ (w * spart) % 2 ^ w)

/-- CVT (R220, R221). -/
def execCvt (o : Args) (r : RMod) (sel : CvtSel) (s : State) : Out :=
  let md := s.fmode r
  let sf := numFmt sel.sf
  let df := numFmt sel.df
  let w := df.width
  .next (s.perLane 0x18C o.g o.d (Src.vregs o.a (if sf.width = 64 then 2 else 1)) fun l =>
    let (y, fl) := convert md sf df (s.cvtPart o.a sf sel.spart.val l)
    if w = 64 then ([BitVec.ofNat 32 y, BitVec.ofNat 32 (y / 2 ^ 32)], fl)
    else
      let old := (s.curWarp.getV l o.d).toNat
      let lo := w * sel.part.val
      ([BitVec.ofNat 32 (old % 2 ^ lo + y * 2 ^ lo + old / 2 ^ (lo + w) * 2 ^ (lo + w))], fl))

/-! ## BFPACK and BFUNPACK (R222, R223) -/

/-- Mantissa width. -/
def bfpBits (m : BfpWidth) : Nat := m.toBits + 2
/-- The magnitude of a finite FP32 value as a multiple of 2^−149. -/
def mag149 : FVal → Nat
  | .fin _ m e => m * 2 ^ (e + 149).toNat
  | _ => 0
/-- The group exponent of R222 from the largest magnitude (a multiple of 2^−149), and whether some lane is NaN or infinite. -/
def bfpExponent (mmax amax : Nat) (special : Bool) : Nat :=
  if amax = 0 then (if special then 127 else 0)
  else ((List.range 254).find? fun i => amax ≤ mmax * 2 ^ (i + 23)).elim 254 (· + 1)
/-- The mantissa of one lane (R222). -/
def bfpMantissa (md : FMode) (bits e : Nat) (x : FVal) : Int × Flags :=
  let mmax : Int := (2 ^ (bits - 1) : Nat) - 1
  let nan : Int := -(2 ^ (bits - 1) : Nat)
  match x with
  | .nan _ _ s => (nan, if s then flagInvalid else 0)
  | .inf neg => if md.sat then (if neg then -mmax else mmax, 0) else (nan, flagInvalid)
  | .fin neg m k =>
    if e = 0 then (0, 0)
    else
      let (y, inexact) := roundInt md.rnd neg m (k + 127 - e)
      let z := clampInt y (-mmax) mmax
      (z, (if inexact || z != y then flagInexact else 0) ||| (if z != y then flagOverflow else 0))

/-- BFPACK (R222). -/
def execBfpack (o : Args) (m : BfpWidth) (sat ftz : Bool) (rnd : RndSel) (s : State) : Out :=
  let md := s.fmode { sat := sat, ftz := ftz, rnd := rnd }
  let live := s.active 0x18D o.g
  let bits := bfpBits m
  let expOf (g : Nat) : Nat :=
    let xs := ((lanesOf live).filter fun l => l / 32 == g).map fun l => s.f32 md o.a l
    let amax := (xs.map mag149).foldl max 0
    bfpExponent (2 ^ (bits - 1) - 1) amax (xs.any fun x => x.isNan || x.isInf)
  .next (s.perLane 0x18D o.g o.d (Args.vregs o) fun l =>
    let e := expOf (l / 32)
    let (y, fl) := bfpMantissa md bits e (s.f32 md o.a l)
    ([BitVec.ofInt 32 y, BitVec.ofNat 32 e], fl))

/-- BFUNPACK (R223). -/
def execBfunpack (o : Args) (m : BfpWidth) (sat : Bool) (rnd : RndSel) (s : State) : Out :=
  let md := s.fmode { sat := sat, rnd := rnd }
  let bits := bfpBits m
  .next (s.vfop o fun l =>
    let x := intValue false bits ((s.opnd .int o.a l).toNat % 2 ^ bits)
    let e := (s.opnd .int o.b l).toNat % 256
    if e = 0 then (0, 0)
    else if e = 255 || x == -(2 ^ (bits - 1) : Nat) then (fp32.canon, 0)
    else fp32.round md (decide (x < 0)) x.natAbs ((e : Int) - 127) false)

/-! ## The special functions (R224) -/

/-- A special function of A in every lane. -/
def State.special (s : State) (o : Args) (r : RMod) (fn : SpecialFn) : State :=
  let md := s.fmode r
  s.vfop o fun l => specialFn fn md (s.f32 md o.a l)
/-- RCP. -/
def execRcp (o : Args) (r : RMod) (s : State) : Out := .next (s.special o r .rcp)
/-- RSQ. -/
def execRsq (o : Args) (r : RMod) (s : State) : Out := .next (s.special o r .rsq)
/-- SQRT. -/
def execSqrt (o : Args) (r : RMod) (s : State) : Out := .next (s.special o r .sqrt)
/-- EX2. -/
def execEx2 (o : Args) (r : RMod) (s : State) : Out := .next (s.special o r .ex2)
/-- LG2. -/
def execLg2 (o : Args) (r : RMod) (s : State) : Out := .next (s.special o r .lg2)
/-- SIN. -/
def execSin (o : Args) (r : RMod) (s : State) : Out := .next (s.special o r .sin)
/-- COS. -/
def execCos (o : Args) (r : RMod) (s : State) : Out := .next (s.special o r .cos)
/-- TANH. -/
def execTanh (o : Args) (r : RMod) (s : State) : Out := .next (s.special o r .tanh)

end Sys2Proof.Machine
end

