-- ==== Sys2Proof/Machine/CrossLane.lean ====
section
/-! DEFINITION. Class 100: cross-lane, scan, segmented and normalisation operations (R225 to R234), over shape snapshots
(R124, R125, R133, R134). -/
namespace Sys2Proof.Machine

/-! ## XLANE, QSWAP (R225, R226, R314) -/

/-- A cross-lane move: `src l` is the source lane of lane `l`, or none where it is illegal; a lane outside ACTIVE counts as
none (R212). -/
def State.crossMove (s : State) (o : Args) (pd : Nat) (src : Nat → Option Nat) : State :=
  let act := s.activeH 0x210 o.g
  let from_ (l : Nat) : Option Nat := (src l).filter fun j => act.getLsbD j
  (s.perLane 0x210 o.g o.d (Args.vregs o) fun l => ([s.opnd .bits o.a ((from_ l).getD l)], 0)).updCurWarp fun w =>
    w.setPred pd act (laneSet fun l => (from_ l).isSome)

/-- The source lane of XLANE (R226): segment size `n`. -/
def xlaneSource (mode : XMode) (n l : Nat) (b : Word) : Option Nat :=
  let base := l - l % n
  match mode with
  | .pick => some (base + b.toNat % n)
  | .shift =>
    let j := (l : Int) + b.toInt
    if (base : Int) ≤ j && j < base + n then some j.toNat else none
  | .rot => some (base + (((l - base : Nat) : Int) + b.toInt).emod n |>.toNat)
  | .flip => some (l ^^^ (b.toNat % n))
/-- The source lane under LEGACY16 (R314). -/
def xlaneLegacy (mode : XMode) (l : Nat) (b : Word) : Option Nat :=
  match mode with
  | .pick => some (b.toNat % 16)
  | .shift => some (((l : Int) + b.toInt).emod 16).toNat
  | .rot => some (((l : Int) + b.toInt).emod 16).toNat
  | .flip => some ((l ^^^ b.toNat) % 16)

/-- XLANE. -/
def execXlane (o : Args) (pd seg : Fin 8) (mode : XMode) (s : State) : Out :=
  let g := s.curWg
  let width := s.curWarp.width
  let n := if g.level < 3 || seg.val = 7 then width else 2 ^ seg.val
  .next (s.crossMove o pd.val fun l =>
    let b := s.opnd .bits o.b l
    if g.legacy16 then xlaneLegacy mode l b else xlaneSource mode n l b)
/-- QSWAP. -/
def execQswap (o : Args) (pd : Fin 8) (mode : QMode) (s : State) : Out :=
  .next (s.crossMove o pd.val fun l => some (l ^^^ mode.toBits))

/-! ## Combinations (R227) -/

/-- A value being combined: a word, or the exact sum of .ADD. -/
inductive Comb where
  | sum (x : Int)
  | word (x : Nat)
  deriving DecidableEq, Repr

/-- The effective mode of a combination (R96). -/
def redMode (mode : Word) : RedMod → FMode
  | .fadd rnd ftz nanp => modeOf mode { rnd := rnd, ftz := ftz, nanp := nanp }
  | .fmin ftz nanp => modeOf mode { ftz := ftz, nanp := nanp }
  | .fmax ftz nanp => modeOf mode { ftz := ftz, nanp := nanp }
  | _ => {}
/-- The identity of an operation. -/
def redIdentity : RedMod → Nat
  | .add _ => 0
  | .min => 0x7FFFFFFF
  | .max => 0x80000000
  | .umin => 0xFFFFFFFF
  | .umax => 0
  | .fadd _ _ _ => 0
  | .fmin _ _ => 0x7F800000
  | .fmax _ _ => 0xFF800000
/-- An FP32 pattern as read after flushing. -/
def flushed (md : FMode) (x : Nat) : Nat :=
  if md.ftz && x / 2 ^ 23 % 256 == 0 then x / 2 ^ 31 * 2 ^ 31 else x
/-- A lane's value as the operation takes it. -/
def redStart (md : FMode) (op : RedMod) (x : Word) : Comb :=
  match op with
  | .add _ => .sum x.toInt
  | .fadd _ _ _ => .word (flushed md x.toNat)
  | .fmin _ _ => .word (flushed md x.toNat)
  | .fmax _ _ => .word (flushed md x.toNat)
  | _ => .word x.toNat
/-- The combination of two words. -/
def redWord (md : FMode) (op : RedMod) (x y : Nat) : Nat × Flags :=
  let a : Word := BitVec.ofNat 32 x
  let b : Word := BitVec.ofNat 32 y
  match op with
  | .add _ => (x, 0)
  | .min => ((lesser false a b).toNat, 0)
  | .max => ((greater false a b).toNat, 0)
  | .umin => ((lesser true a b).toNat, 0)
  | .umax => ((greater true a b).toNat, 0)
  | .fadd _ _ _ => fp32.add md (fp32.value md.ftz x) (fp32.value md.ftz y)
  | .fmin _ _ => minMaxVal fp32 md false (fp32.value md.ftz x) (fp32.value md.ftz y) x y
  | .fmax _ _ => minMaxVal fp32 md true (fp32.value md.ftz x) (fp32.value md.ftz y) x y
/-- One combination with its flags. -/
def redStep (md : FMode) (op : RedMod) (x y : Comb × Flags) : Comb × Flags :=
  match x.1, y.1 with
  | .sum a, .sum b => (.sum (a + b), x.2 ||| y.2)
  | .word a, .word b => let r := redWord md op a b; (.word r.1, x.2 ||| y.2 ||| r.2)
  | a, _ => (a, x.2 ||| y.2)
/-- The result that a combination delivers; the identity where nothing contributed. -/
def redEnd (op : RedMod) (x : Option (Comb × Flags)) : Word × Flags :=
  match x, op with
  | none, _ => (BitVec.ofNat 32 (redIdentity op), 0)
  | some (.sum n, _), .add sat => satResult false sat n
  | some (.sum n, f), _ => (BitVec.ofInt 32 n, f)
  | some (.word n, f), _ => (BitVec.ofNat 32 n, f)

/-- Two positions combined: an absent one leaves the other. -/
def redPair (md : FMode) (op : RedMod) : Option (Comb × Flags) → Option (Comb × Flags) → Option (Comb × Flags)
  | some x, some y => some (redStep md op x y)
  | some x, none => some x
  | none, y => y
/-- Sequential order. -/
def sequential (md : FMode) (op : RedMod) (xs : List Word) : Option (Comb × Flags) :=
  xs.foldl (fun acc x => redPair md op acc (some (redStart md op x, 0))) none
/-- One level of the pairwise order. -/
def pairLevel (md : FMode) (op : RedMod) : List (Option (Comb × Flags)) → List (Option (Comb × Flags))
  | x :: y :: r => redPair md op x y :: pairLevel md op r
  | l => l
/-- Pairwise order: `fuel` levels. -/
def pairLevels (md : FMode) (op : RedMod) : Nat → List (Option (Comb × Flags)) → Option (Comb × Flags)
  | 0, l => l.headD none
  | fuel + 1, l => pairLevels md op fuel (pairLevel md op l)
/-- The combination of the lanes of `set`, in pairwise order over `width` positions. -/
def pairwise (md : FMode) (op : RedMod) (width : Nat) (set : LaneMask) (x : Nat → Word) : Option (Comb × Flags) :=
  pairLevels md op 6 ((List.range width).map fun l => if set.getLsbD l then some (redStart md op (x l), 0) else none)

/-- An operation whose lanes receive combinations: flags count where some lane is LIVE, as though the lowest LIVE lane
delivered them (R211). -/
def State.crossLane (s : State) (op : Nat) (o : Args) (f : Nat → LaneOut) : State :=
  let act := s.activeH op o.g
  let live := s.active op o.g
  let flags := if live = 0 then 0 else orFlags ((lanesOf act).map fun l => (f l).2)
  (s.perLane op o.g o.d (Args.vregs o) fun l => ((f l).1, 0)).updCurWarp fun w => w.raise flags

/-- SCAN (R228). -/
def execScan (o : Args) (red : RedMod) (s : State) : Out :=
  let md := redMode s.curWarp.mode red
  let live := s.active 0x212 o.g
  .next (s.crossLane 0x212 o fun l =>
    let xs := ((lanesOf live).filter (· ≤ l)).map fun j => s.opnd .bits o.a j
    let r := redEnd red (sequential md red xs)
    ([r.1], r.2))
/-- WRED (R228). -/
def execWred (o : Args) (red : RedMod) (s : State) : Out :=
  let md := redMode s.curWarp.mode red
  let live := s.active 0x213 o.g
  let r := redEnd red (pairwise md red s.curWarp.width live fun j => s.opnd .bits o.a j)
  .next (s.crossLane 0x213 o fun _ => ([r.1], r.2))

/-! ## LPEER (R229) -/

/-- The value that LPEER compares in a lane. -/
def State.peerValue (s : State) (o : Args) (w64 : Bool) (l : Nat) : DWord :=
  if w64 then s.opnd64 .bits o.a l else (s.opnd .bits o.a l).setWidth 64
/-- The lanes of LIVE whose value equals lane `l`'s. -/
def State.peers (s : State) (o : Args) (w64 : Bool) (l : Nat) : List Nat :=
  (lanesOf (s.active 0x216 o.g)).filter fun j => s.peerValue o w64 j == s.peerValue o w64 l
/-- The v registers that LPEER reads. -/
def peerRegs (o : Args) (w64 : Bool) : List Nat := Src.vregs o.a (if w64 then 2 else 1)
/-- LPEER.LEAD. -/
def execLpeerLead (o : Args) (w64 : Bool) (s : State) : Out :=
  .next (s.perLane 0x216 o.g o.d (peerRegs o w64) fun l =>
    let ps := s.peers o w64 l
    ([BitVec.ofNat 32 (ps.headD 0xFFFFFFFF), BitVec.ofNat 32 ps.length], 0))
/-- LPEER.RANK. -/
def execLpeerRank (o : Args) (w64 : Bool) (s : State) : Out :=
  .next (s.perLane 0x216 o.g o.d (peerRegs o w64) fun l =>
    ([BitVec.ofNat 32 ((s.peers o w64 l).filter (· < l)).length], 0))

/-! ## Shapes (R123, R124, R125) -/

/-- Boundary B[s]. -/
def ShapeImage.bound (i : ShapeImage) (n : Nat) : Nat := i.bounds.getD n 0
/-- SEQ(r) (R124). -/
def ShapeImage.seq (i : ShapeImage) (r : Nat) : Option Nat :=
  if r < i.rows then (List.range i.nseq).reverse.find? fun n => i.bound n ≤ r else none
/-- The row at which an empty sequence is anchored. -/
def ShapeImage.anchor (i : ShapeImage) (n : Nat) : Nat := min (i.bound n) (i.rows - 1)
/-- Is the sequence empty? -/
def ShapeImage.empty (i : ShapeImage) (n : Nat) : Bool := i.bound n == i.bound (n + 1)
/-- Do rows `a` to `b` − 1 cover the sequence (R124)? -/
def ShapeImage.covers (i : ShapeImage) (a b n : Nat) : Bool :=
  if i.empty n then a ≤ i.anchor n && i.anchor n < b else i.bound n < b && a < i.bound (n + 1)
/-- The lowest and the highest sequence that rows `a` to `b` − 1 cover. -/
def ShapeImage.range (i : ShapeImage) (a b : Nat) : Option (Nat × Nat) :=
  let l := (List.range i.nseq).filter (i.covers a b)
  match l.head?, l.getLast? with
  | some x, some y => some (x, y)
  | _, _ => none

/-- A shape register of a workgroup. -/
def Workgroup.shape (g : Workgroup) (n : Nat) : ShapeReg := sget (fun _ => {}) g.shapes n
/-- The trap of a shape register that is not bound (R125, R373). -/
def shapeUnbound (n : Nat) : AccFault := { code := 0x32, addr := 0, data := n }

/-- A segmented instruction (R230): with no LIVE lane an unbound register stops nothing; otherwise it traps. -/
def State.segmented (s : State) (op : Nat) (o : Args) (sh : Nat) (f : ShapeImage → State) : State :=
  let r := s.curWg.shape sh
  if r.bound then f r.image
  else if s.active op o.g = 0 then s.advance
  else s.trapAt 0x32 0 sh

/-- The members of a sequence (R230): the lanes of LIVE whose row has it. -/
def ShapeImage.members (i : ShapeImage) (live : LaneMask) (row0 n : Nat) : LaneMask :=
  laneSet fun l => live.getLsbD l && i.seq (row0 + l) == some n

/-- SEGSCAN (R231). -/
def execSegscan (o : Args) (red : RedMod) (s : State) : Out :=
  let md := redMode s.curWarp.mode red
  let live := s.active 0x214 o.g
  let row0 := (s.uni o.c).toNat
  .next (s.segmented 0x214 o (objNum o.b 0x10) fun img =>
    s.crossLane 0x214 o fun l =>
      match img.seq (row0 + l) with
      | none => ([BitVec.ofNat 32 (redIdentity red)], 0)
      | some n =>
        let xs := ((lanesOf (img.members live row0 n)).filter (· ≤ l)).map fun j => s.opnd .bits o.a j
        let r := redEnd red (sequential md red xs)
        ([r.1], r.2))

/-- What a lane of a sequence-indexed instruction receives: the sequence of its result, if it is covered. -/
def resultSeq (cov : Option (Nat × Nat)) (l : Nat) : Option Nat :=
  match cov with
  | some (lo, hi) => if lo + l ≤ hi then some (lo + l) else none
  | none => none

/-- The v registers that an instruction with row0 in C reads. -/
def segRegs (o : Args) : List Nat := Src.vregs o.a 1

/-- EMPTY (R134, R230): some LIVE lane receives an empty sequence's identity. -/
def State.emptyFlag (s : State) (live : LaneMask) (img : ShapeImage) (cov : Option (Nat × Nat)) : State :=
  let hit := (lanesOf live).any fun l => match resultSeq cov l with
    | some n => img.empty n
    | none => false
  if hit then s.updCurWarp fun w => w.raise flagEmpty else s

/-- SEGRED (R231). -/
def execSegred (o : Args) (red : RedMod) (s : State) : Out :=
  let md := redMode s.curWarp.mode red
  let live := s.active 0x215 o.g
  let row0 := (s.uni o.c).toNat
  let width := s.curWarp.width
  .next (s.segmented 0x215 o (objNum o.b 0x10) fun img =>
    let cov := img.range row0 (row0 + width)
    (s.crossLane 0x215 o fun l =>
      match resultSeq cov l with
      | none => ([BitVec.ofNat 32 (redIdentity red)], 0)
      | some n =>
        let r := redEnd red (pairwise md red width (img.members live row0 n) fun j => s.opnd .bits o.a j)
        ([r.1], r.2)).emptyFlag live img cov)

/-- NSTAT (R232). -/
def execNstat (o : Args) (nanp ftz : Bool) (rnd : RndSel) (s : State) : Out :=
  let red : RedMod := .fadd rnd ftz nanp
  let md := redMode s.curWarp.mode red
  let live := s.active 0x220 o.g
  let row0 := (s.uniF o.c).toNat
  let width := s.curWarp.width
  .next (s.segmented 0x220 o (objNum o.b 0x10) fun img =>
    let cov := img.range row0 (row0 + width)
    (s.crossLane 0x220 o fun l =>
      match resultSeq cov l with
      | none => ([0, 0, 0], 0)
      | some n =>
        let mem := img.members live row0 n
        let val (j : Nat) : Word := s.opnd .float o.a j
        let sq (j : Nat) : Nat × Flags := let x := fp32.value md.ftz (val j).toNat; fp32.mul md x x
        let sum := redEnd red (pairwise md red width mem val)
        let sq2 := redEnd red (pairwise md red width mem fun j => BitVec.ofNat 32 (sq j).1)
        let fl := orFlags ((lanesOf mem).map fun j => (sq j).2)
        ([BitVec.ofNat 32 (fp32.round {} false (laneCount mem) 0 false).1, sum.1, sq2.1], sum.2 ||| sq2.2 ||| fl)).emptyFlag live img cov)

/-- The second register of a pair operand, with the same sign bits. -/
def Src.succ : Src → Src
  | .v n neg abs => .v (n + 1) neg abs
  | .k n neg abs => .k (n + 1) neg abs
  | x => x

/-- (a − mean) × scale, rounded once (R233). A difference of infinities of one sign sets INVALID also beside a NaN scale (DESIGN CHOICE,
log entry 83). -/
def normalise (md : FMode) (a mean scale : FVal) : Nat × Flags :=
  let ops := [a, mean, scale]
  let diff : Option FVal := if a.isNan || mean.isNan then some a else sumVals md.rnd [a, mean.negate]
  match diff with
  | none => fp32.invalid md ops
  | some d =>
    if ops.any FVal.isNan then fp32.nanOf md ops
    else
      match d.mul scale with
      | none => fp32.invalid md ops
      | some x => fp32.roundVal md x

/-- NAPPLY (R233). -/
def execNapply (o : Args) (sh : Fin 8) (r : RMod) (s : State) : Out :=
  let md := s.fmode r
  let act := s.activeH 0x221 o.g
  let row0 := (s.uniF o.c).toNat
  let width := s.curWarp.width
  .next (s.segmented 0x221 o sh.val fun img =>
    let cov := img.range row0 (row0 + width)
    s.perLane 0x221 o.g o.d (Src.vregs o.a 1 ++ Src.vregs o.b 2) fun l =>
      match img.seq (row0 + l), cov with
      | some n, some (lo, _) =>
        let j := n - lo
        if j ≥ width || !act.getLsbD j then ([BitVec.ofNat 32 fp32.canon], flagInvalid)
        else
          let (y, fl) := normalise md (s.f32 md o.a l) (s.f32 md o.b j) (s.f32 md (Src.succ o.b) j)
          ([BitVec.ofNat 32 y], fl)
      | _, _ => ([0], 0))

/-- 2^(a − m), with the exact difference (R234). -/
def ex2Diff (md : FMode) (a m : FVal) : Nat × Flags :=
  if a.isNan || m.isNan then fp32.nanOf md [a, m]
  else
    match sumVals .rne [a, m.negate] with
    | none => fp32.invalid md [a, m]
    | some d => specialFn .ex2 md d

/-- SMAXSTEP (R234). -/
def execSmaxstep (o : Args) (sh : Fin 8) (nanp ftz : Bool) (rnd : RndSel) (s : State) : Out :=
  let md := s.fmode { nanp := nanp, ftz := ftz, rnd := rnd }
  let red : RedMod := .fmax ftz nanp
  let live := s.active 0x222 o.g
  let act := s.activeH 0x222 o.g
  let row0 := (s.uniF o.c).toNat
  let width := s.curWarp.width
  .next (s.segmented 0x222 o sh.val fun img =>
    let best (n : Nat) : Word × Flags :=
      redEnd red (pairwise md red width (img.members live row0 n) fun j => s.opnd .float o.a j)
    let cross := if live = 0 then 0 else orFlags ((lanesOf act).map fun l => match img.seq (row0 + l) with
      | some n => (best n).2
      | none => 0)
    (s.perLane 0x222 o.g o.d (Src.vregs o.a 1 ++ Src.vregs o.b 1) fun l =>
      match img.seq (row0 + l) with
      | none => ([s.opnd .float o.b l, 0, 0x3F800000], 0)
      | some n =>
        let bb := (s.opnd .float o.b l).toNat
        let mb := (best n).1.toNat
        let (m, fl) := minMaxVal fp32 md true (fp32.value md.ftz bb) (fp32.value md.ftz mb) bb mb
        if m = 0xFF800000 then ([BitVec.ofNat 32 m, 0, 0], fl)
        else
          let mv := fp32.value md.ftz m
          let (x, fx) := ex2Diff md (s.f32 md o.a l) mv
          let (y, fy) := ex2Diff md (s.f32 md o.b l) mv
          ([BitVec.ofNat 32 m, BitVec.ofNat 32 x, BitVec.ofNat 32 y], fl ||| fx ||| fy)).updCurWarp fun w => w.raise cross)

end Sys2Proof.Machine
end

