-- ==== Sys2Proof/Machine/Barrier.lean ====
section
/-! DEFINITION. Transaction barriers, engine timelines, acquires and releases (R74, R84, R87, R174, R252 to R254). -/
namespace Sys2Proof.Machine

/-! ## Transaction barriers (R252) -/

/-- A transaction barrier's 16 bytes. -/
abbrev TBar := BitVec 128
/-- BARRIER.PHASE. -/
def TBar.phase (b : TBar) : Nat := b.toNat % 16
/-- BARRIER.VALID. -/
def TBar.valid (b : TBar) : Bool := b.getLsbD 4
/-- BARRIER.POISON. -/
def TBar.poison (b : TBar) : Bool := b.getLsbD 5
/-- BARRIER.PEND. -/
def TBar.pend (b : TBar) : Nat := b.toNat / 2 ^ 8 % 2 ^ 16
/-- BARRIER.PER. -/
def TBar.per (b : TBar) : Nat := b.toNat / 2 ^ 24 % 2 ^ 16
/-- BARRIER.SECTORS. -/
def TBar.sectors (b : TBar) : Word := b.extractLsb' 40 32
/-- BARRIER.MARK. -/
def TBar.mark (b : TBar) : Byte := b.extractLsb' 72 8
/-- Is the barrier live: its marker right and VALID set? -/
def TBar.live (b : TBar) : Bool := b.mark == 0xB7 && b.valid
/-- Does a wait report a failure (R186)? -/
def TBar.failed (b : TBar) : Bool := !b.live || b.poison
/-- The barrier with a field of `n` bits at `lo` replaced. -/
def TBar.setField (b : TBar) (lo n : Nat) (x : Nat) : TBar :=
  (b &&& ~~~(BitVec.ofNat 128 ((2 ^ n - 1) * 2 ^ lo))) ||| BitVec.ofNat 128 (x % 2 ^ n * 2 ^ lo)
/-- flip_test (R253). -/
def TBar.flipTest (b : TBar) : TBar :=
  if b.pend = 0 && b.sectors = 0 then (b.setField 0 4 (b.phase + 1)).setField 8 16 b.per else b
/-- What TFILL.TB writes (R259). -/
def TBar.init (count : Nat) : TBar := BitVec.ofNat 128 (16 + count % 2 ^ 16 * 2 ^ 8 + count % 2 ^ 16 * 2 ^ 24 + 0xB7 * 2 ^ 72)

/-- The barrier at an offset of a workgroup's user area. -/
def State.tbar (s : State) (g off : Nat) : TBar :=
  let wg := s.wg g
  BitVec.ofNat 128 (ofBytes ((s.core wg.core).spRead (wg.user + off) 16))
/-- The state with it written. -/
def State.setTbar (s : State) (g off : Nat) (b : TBar) : State :=
  let wg := s.wg g
  s.updCore wg.core fun c => c.spWrite (wg.user + off) (toBytes 16 b.toNat)

/-- The checks of R44 on a barrier's offset: range, then alignment (R187). -/
def Workgroup.tbFault (g : Workgroup) (off : Nat) : Option AccFault :=
  if off + 16 > g.userBytes then some { code := 0x20, addr := off, data := 2 }
  else if off % 16 ≠ 0 then some { code := 0x21, addr := off, data := 2 }
  else none

/-- A record of an engine's event (R375, kinds 1 and 2): the context, core and workgroup, the PC, code, address and data,
the command's number and progress, and the engine whose number it is. -/
structure EngineEvent where
  kind : Nat := 1
  wg : Nat
  warp : Nat := 0
  pc : PC := 0
  code : Nat
  addr : Nat := 0
  data : Nat := 0
  number : Nat := 0
  progress : Nat := 0
  held : Bool := false
  engine : Nat := 0
  deriving DecidableEq, Repr

/-- The record of an engine event waits for the trap ring (R376). -/
def State.engineRecord (s : State) (e : EngineEvent) : State :=
  let wg := s.wg e.wg
  s.toRing { code := e.code, kind := e.kind, addr := BitVec.ofNat 64 e.addr, data := BitVec.ofNat 64 e.data, pc := e.pc, mask := 0,
             time := s.time, wgid := BitVec.ofNat 32 wg.wgid, ctx := wg.ctx, core := wg.core, split := 0, warp := e.warp, held := e.held,
             subj := e.wg, engine := e.engine, slot := BitVec.ofNat 96 (e.number % 2 ^ 64 + e.progress % 2 ^ 32 * 2 ^ 64) }

/-- What an engine does to a barrier (R253): an arrival with its sectors, a sector write, a removal of sectors. -/
inductive TbAct where
  | arrive (sectors : Nat) | sector | remove (n : Nat)
  deriving DecidableEq, Repr

/-- The act on a barrier that a command latched in phase `p`; none where it is discarded (R253). -/
def TBar.act (b : TBar) (p : Nat) (a : TbAct) : Option TBar :=
  if !b.live || b.phase ≠ p then none
  else
    match a with
    | .arrive n =>
      if b.pend = 0 then none
      else some (((b.setField 8 16 (b.pend - 1)).setField 40 32 (b.sectors + BitVec.ofNat 32 n).toNat).flipTest)
    | .sector => some ((b.setField 40 32 (b.sectors - 1).toNat).flipTest)
    | .remove n => some ((b.setField 40 32 (b.sectors - BitVec.ofNat 32 n).toNat).flipTest)

/-- REC.DATA of a stray arrival (R373, code 0x0080). -/
def TbAct.stray : TbAct → Nat
  | .arrive _ => 1
  | .sector => 0
  | .remove _ => 2

/-- An act of an engine on a barrier, with its discard: STRAY set and a record written (R253). True where it counted. -/
def State.tbAct (s : State) (g warp off p : Nat) (pc : PC) (number : Nat) (a : TbAct) : State × Bool :=
  let b := s.tbar g off
  match b.act p a with
  | some b' => (s.setTbar g off b', true)
  | none =>
    ((s.setTbar g off (b.setField 6 1 1)).engineRecord
      { wg := g, warp := warp, pc := pc, code := 0x80, addr := off, data := a.stray, number := number }, false)

/-! ## Timelines (R84, R174) -/

/-- Does a context identifier name an engine context (R174)? -/
def ctxIdOk (id : Nat) : Bool :=
  match id / 2 ^ 28 with
  | 0 => id % 2 ^ 28 < Config.cores
  | 1 => id % 2 ^ 28 < 2
  | 2 => id % 2 ^ 28 < Config.queues
  | _ => false

/-- The counter after the numbers of `done`: the largest n such that every number to n is complete. `fuel` bounds the rise. -/
def Timeline.settle (t : Timeline) : Nat → Timeline
  | 0 => t
  | fuel + 1 =>
    if t.done.contains (t.count + 1) then
      Timeline.settle { t with count := t.count + 1, done := t.done.filter (· != t.count + 1) } fuel
    else t

/-- Command `n` has completed. -/
def Timeline.complete (t : Timeline) (n : Nat) : Timeline := ({ t with done := n :: t.done }).settle (t.done.length + 1)

/-- The next number of a timeline is taken (R84). -/
def State.takeNumber (s : State) (ctx id : Nat) : State × Nat :=
  let n := (s.timeline ctx id).last + 1
  (s.updTimeline ctx id fun t => { t with last := n }, n)
/-- A command of a timeline completes. -/
def State.complete (s : State) (ctx id n : Nat) : State := s.updTimeline ctx id fun t => t.complete n

/-- Does a scope cover an engine context, seen from a workgroup (R87)? -/
def State.coversEngine (s : State) (g : Nat) (scope : Scope) (id : Nat) : Bool :=
  let wg := s.wg g
  let sc := scope.toBits
  let x := id % 2 ^ 28
  let die := wg.core / Config.coresPerDie
  match id / 2 ^ 28 with
  | 0 =>
    if x = wg.core then sc ≥ 1
    else if (s.cluster wg.cluster).wgs.any fun h => (s.wg h).core == x then sc ≥ 2
    else if x / Config.coresPerDie = die then sc ≥ 3
    else sc ≥ 4
  | 1 => if x = die then sc ≥ 3 else sc ≥ 4
  | _ => sc ≥ 4

/-! ## Releases and acquires of the issuing split (R74) -/

/-- Does a release at this scope publish (R68)? -/
def scopePublishes : Scope → Bool
  | .warp => false
  | .wg => false
  | _ => true

/-- An acquire of a core at a scope: at DEVICE or SYSTEM what its narrower releases published reaches the other die (R77), and the
core applies its pending invalidations (R62). -/
def State.acquireAt (s : State) (core : Nat) (scope : Scope) : State :=
  (if 4 ≤ scope.toBits then s.reach core else s).acquire core
/-- A split's acquire, with what it makes happen before the split (R75). -/
def State.acquireBy (s : State) (g w n : Nat) (scope : Scope) : State :=
  (s.acquireAt (s.wg g).core scope).learn (s.wg g).core g w n
/-- The issuing split's acquire. -/
def State.acquireCur (s : State) (scope : Scope) : State := s.acquireBy s.cur.wg s.cur.warp s.cur.split scope

/-- The issuing split's fence (R72). -/
def State.fenceCur (s : State) (scope : Scope) : State := s.fence s.curWg.core s.cur.wg s.cur.warp s.cur.split scope
/-- What its release does for stores that are not performed yet (R74, R76). -/
def State.releaseCur (s : State) (scope : Scope) : State := s.releaseFence s.curWg.core s.cur.wg s.cur.warp s.cur.split scope

/-- The issuing split's release is under way, and the split waits for it in instruction `i` (R74). -/
def State.releaseWait (s : State) (i : Instr) (scope : Scope) : State :=
  ((s.releaseCur scope).waitIn i .release).updCurCore fun c =>
    { c with releases := c.releases ++ [{ wg := s.cur.wg, who := some (s.cur.warp, s.cur.split), scope := scope }] }

/-! ## Waits for the warp's array instructions (R74, R103, R154, R286, R289) -/

/-- Has the warp array instructions whose reads and results a fence is to order (R72, R277): those of a chain that no trap has stopped? -/
def State.arrayUndone (s : State) (g w : Nat) : Bool := (s.chainsOf g w).any fun h => !h.suspended && !h.todo.isEmpty

/-- The issuing split goes on once the earlier array instructions of its warp are performed: until then it waits in `i` (R72, R74). -/
def State.ordered (s : State) (i : Instr) (go : State) : State :=
  if s.arrayUndone s.cur.wg s.cur.warp then s.waitIn i .array else go

/-- Has it such instructions that are not stopped part-way (R286)? -/
def State.arrayRuns (s : State) (g w : Nat) : Bool :=
  (s.core (s.wg g).core).queue.any (fun h => h.wg == g && h.warp == w)
    || (s.chainsOf g w).any fun h => !h.suspended && h.todo.any fun i => i.done < i.steps

/-- P of a configuration (R290). -/
def cfgP (cfg : Word) : Nat := 16 * (cfg.toNat / 2 ^ 7 % 2 ^ 6)
/-- D of a configuration. -/
def cfgD (cfg : Word) : Nat := 16 * (cfg.toNat / 2 ^ 13 % 2 ^ 7)
/-- L of a configuration. -/
def cfgL (cfg : Word) : Nat := cfg.toNat / 2 ^ 20

/-- The k-steps of a chain when its issued instructions are performed. -/
def Chain.total (c : Chain) : Nat := (c.todo.map fun i => i.steps - i.done).foldl (· + ·) c.steps

/-- The last window that a chain's k-steps up to `k` reach (R282). -/
def Chain.lastWindow (c : Chain) (k : Nat) : Nat := c.window + if c.mods.grouped then (k - 1) / cfgD c.cfg else 0

/-- Has the warp an array instruction that is to write windows `w0` to `w0 + n − 1` (R154, R269)? -/
def State.windowBusy (s : State) (g w w0 n : Nat) : Bool :=
  (s.chainsOf g w).any fun h => !h.suspended && !h.todo.isEmpty && h.window < w0 + n && w0 ≤ h.lastWindow h.total

/-- MREL's end (R289): the reuse latch is cleared where it holds this warp's tag, and the barrier at `off`, where one is
named, gets its arrival under the phase latched at issue. -/
def State.mrelDone (s : State) (bar : Option (Nat × Nat)) : State :=
  let clear (c : Core) : Core :=
    match c.latch with
    | some t => if t.wg = s.cur.wg && t.warp = s.cur.warp then { c with latch := none } else c
    | none => c
  let s1 := s.updCurCore clear
  let s2 := if s.curWg.paired then s1.updCore (s.curWg.core + 1) clear else s1
  match bar with
  | some (off, phase) => (s2.tbAct s.cur.wg s.cur.warp off phase s.curSplit.pc 0 (.arrive 0)).1.advance
  | none => s2.advance

end Sys2Proof.Machine
end

