-- ==== Sys2Proof/Machine/Fetch.lean ====
section
/-! DEFINITION. Fetching lines, checked transfers, and the settling of the next PC (R139 to R142). -/
namespace Sys2Proof.Machine

/-- The line at an address of a context: translated with EXEC permission and read as published (R55, R56, R142), or the
fault of the fetch. -/
def State.fetchLine (s : State) (ctx va : Nat) : State × (Line ⊕ AccFault) :=
  match s.translateNow ctx va .fetch with
  | (s1, .ok pa attr) =>
    (s1.cross attr.compress (lineOf pa) (s1.slicePlain (lineOf pa)), .inl (BitVec.ofNat 512 (ofBytes (s1.homeRead attr.key pa 64))))
  | (s1, .fault f) => (s1, .inr f)
  | (s1, .miss) => (s1, .inr (transFault va 0 .fetch))

/-- A target trap (R141, R373). -/
def targetFault (pc : Nat) : AccFault := { code := 0x12, addr := pc, data := 0 }

/-- The checks of R141 on a target: none where the transfer is legal. -/
def State.checkTarget (s : State) (ctx : Nat) (pc : PC) : State × Option AccFault :=
  if !PC.named pc then (s, some (targetFault pc.toNat))
  else
    match s.fetchLine ctx (PC.line pc) with
    | (s1, .inl l) => (s1, if Line.tgt l (PC.slot pc) then none else some (targetFault pc.toNat))
    | (s1, .inr f) => (s1, some { f with addr := pc.toNat })

/-- The slot that sequential flow reaches, read from the following lines; `fuel` bounds how many lines of carriers it
passes over (R139). -/
def State.settle (s : State) (ctx : Nat) : Nat → PC × Bool → State × (PC ⊕ AccFault)
  | 0, p => (s, .inr (targetFault p.1.toNat))
  | fuel + 1, p =>
    if !p.2 then (s, .inl p.1)
    else
      match s.fetchLine ctx (PC.line p.1) with
      | (s1, .inl l) =>
        match Line.slotFrom l 0 with
        | some i => (s1, .inl (PC.make (PC.line p.1) i))
        | none => State.settle s1 ctx fuel (PC.make (PC.line p.1 + 64) 0, true)
      | (s1, .inr f) => (s1, .inr f)

/-- How many lines of carriers the settling of a PC may pass over: every line of the virtual address space, so that there is no
limit (R139). -/
def settleFuel : Nat := 0x8000000000000

/-- The PC after slot `pc` of a line that need not be the fetched one, settled (R139). -/
def State.pcAfter (s : State) (ctx : Nat) (pc : PC) : State × (PC ⊕ AccFault) :=
  match s.fetchLine ctx (PC.line pc) with
  | (s1, .inl l) => s1.settle ctx settleFuel (nextPc (some (PC.line pc, l)) pc)
  | (s1, .inr f) => (s1, .inr f)

end Sys2Proof.Machine
end

