-- ==== Sys2Proof/Machine/Exit.lean ====
section
/-! DEFINITION. Settling JOINs, and the end of splits, warps and workgroups (R34 to R36, R41, R48, R74, R294). -/
namespace Sys2Proof.Machine

/-- The indices of a split table. -/
def splitIxs : List Nat := [0, 1, 2, 3]

/-- The free entry of lowest index (R32). -/
def Warp.freeEntry (w : Warp) : Option Nat := splitIxs.find? fun i => !(w.split i).live

/-- Another split of the warp that is in join-wait at a PC (R35). -/
def Warp.joinWaiter (w : Warp) (n : Nat) (pc : PC) : Option Nat :=
  splitIxs.find? fun i => i != n && (w.split i).live && (w.split i).st == .joinWait && (w.split i).pc == pc

/-- What settling a JOIN on an entry's stack gives (R34). -/
inductive Settled where
  /-- A deferred part resumes: the entry as it is then. -/
  | resumed (x : Split)
  /-- The stack is empty, with the united mask. -/
  | healed (x : Split)
  /-- The top record is arrived at another PC; the entry as united so far. -/
  | mismatch (x : Split) (top : PC)
  deriving DecidableEq, Repr

/-- The JOIN at `pc` settled on the stack of an entry (R34). -/
def settleStack (pc : PC) (x : Split) : List DeferRec → Settled
  | [] => .healed { x with defer := [] }
  | r :: rest =>
    if !r.arrived then
      .resumed { x.goTo r.pc r.seq with mask := r.mask, defer := { arrived := true, pc := pc, mask := x.mask } :: rest }
    else if r.pc = pc then settleStack pc { x with mask := x.mask ||| r.mask, defer := rest } rest
    else .mismatch { x with defer := r :: rest } r.pc

/-- Split `n` of the issuing warp, with lanes as in `x`, fuses with entry `m` in join-wait at `pc` (R35, item 1). -/
def State.fuse (s : State) (g w n m : Nat) (x : Split) (pc : PC) : State :=
  let lo := min n m
  let hi := max n m
  let y := s.split g w m
  let keep := if lo = n then x else y
  let s1 := (s.joinLate g w lo hi).traceFields g (s.tracePart g w hi (if hi = n then x.mask else y.mask) pc) 3 4 (lo + 256)
  (s1.updSplit g w lo fun _ =>
    { keep.goTo pc false with mask := x.mask ||| y.mask, st := .joinWait, holdNext := x.holdNext <|> y.holdNext, stopRec := keep.stopRec,
                              defer := [], since := s.tick }).updSplit g w hi fun _ => {}

/-- Have all warps of a role exited (R41)? -/
def Workgroup.roleGone (g : Workgroup) (r : Role) : Bool := g.warps.all fun p => p.2.role != r || p.2.exited

/-- The flume that a waiting split can no longer be served by, if any (R41, R187). -/
def State.orphanOf (s : State) (g : Nat) (x : Split) : Option Nat :=
  let wg := s.wg g
  let full (f : Nat) : Option Nat :=
    let q := sget (fun _ => ({} : Flume)) wg.flumes f
    if q.items.length ≥ q.depth && wg.roleGone q.cons then some f else none
  let empty (f : Nat) : Option Nat :=
    let q := sget (fun _ => ({} : Flume)) wg.flumes f
    if q.items.isEmpty && wg.roleGone q.prod then some f else none
  match x.wait with
  | .push f _ => full f
  | .pop f => empty f
  | .nempty f => empty f
  | .nfull f => full f
  | _ => none

/-- A waiting split leaves the queues of its flumes. -/
def Workgroup.leaveFlumes (g : Workgroup) (w n : Nat) : Workgroup :=
  { g with flumes := g.flumes.map fun p => (p.1, { p.2 with waiters := p.2.waiters.filter (· != (w, n)) }) }

/-- The flume-orphan traps of a workgroup's waiting splits (R41), each once the array instructions before it are performed; the split's
earlier stores are performed too (R4). -/
def State.orphans (s : State) (g : Nat) : State :=
  let who := (s.wg g).warps.flatMap fun p => splitIxs.map fun n => (p.1, n)
  who.foldl (fun t p =>
    let x := t.split g p.1 p.2
    if x.live && x.st == .wait && x.met.isNone && !t.frozen g p.1 p.2 then
      match t.orphanOf g x with
      | some f =>
        if t.arrayBefore g p.1 then t
        else
          ((t.performSplit g p.1 p.2).updWg g fun wg => wg.leaveFlumes p.1 p.2).trapSplit g p.1 p.2 0x17 0 f (x.pc, x.seq) x.slotWords
      | none => t
    else t) s

/-- The chain of an exiting warp ends (R294): once its issued instructions have performed, or, where it is suspended, at
its stop. -/
def Chain.close (c : Chain) (g w : Nat) : Chain :=
  if c.wg = g && c.warp = w then
    if c.suspended then { c with openMore := false, suspended := false, todo := [] } else { c with openMore := false }
  else c

/-- A warp has exited (R36): its stores are performed, its open chain ends, splits that wait for a flume whose far role is gone trap, and the exit
of the last warp is a release at DEVICE scope (R74). -/
def State.warpExited (s : State) (g w : Nat) : State :=
  let core := (s.wg g).core
  let s1 := ((s.perform core fun l => l.isOf g w).updWarp g w fun x => { x with exited := true }).updCore core fun c =>
    { c with chain := c.chain.map fun h => h.close g w, queue := c.queue.map fun h => h.close g w }
  let s2 := s1.orphans g
  if (s2.wg g).warps.all fun p => p.2.exited then
    (s2.updWg g fun x => { x with exited := true, handler := none, trapQueue := [] }).updCore core fun c =>
      { c with releases := c.releases ++ [{ wg := g, who := none, scope := .device }] }
  else s2

/-- The handler of a workgroup is left by a split that ends (R378). -/
def State.leaveHandler (s : State) (g w n : Nat) : State :=
  s.updWg g fun x =>
    { x with handler := if x.handler == some (w, n) then none else x.handler, trapQueue := x.trapQueue.filter (· != (w, n)) }

/-- The other splits of a warp that are in state run become blocked, or ready again, as split `n` enters or leaves its handler (R377, R414). -/
def Warp.stampSiblings (v : Warp) (n tick : Nat) : Warp :=
  { v with splits := v.splits.map fun p => if p.1 != n && p.2.live && p.2.st == .run then (p.1, { p.2 with since := tick }) else p }

/-- A split-table entry becomes free, and the warp exits with its last one (R36). -/
def State.freeSplit (s : State) (g w n : Nat) : State :=
  let x := s.split g w n
  let s1 := if x.handler then s.updWarp g w fun y => (y.setKs 48 x.bank).stampSiblings n s.tick else s
  let s2 := (s1.updSplit g w n fun _ => {}).leaveHandler g w n
  if splitIxs.all fun i => !((s2.warp g w).split i).live then s2.warpExited g w else s2

/-- Lanes that an arrived record held go on past their JOIN, or fuse with a split in join-wait there (R34, R36). The
JOIN's loop records must agree (R178); where they do not, or its line cannot be fetched, the JOIN issues for them. -/
def State.pastJoin (s : State) (g w n : Nat) (x : Split) (pc : PC) : State :=
  match (s.warp g w).joinWaiter n pc with
  | some m =>
    if ((s.warp g w).split m).loops = x.loops then s.fuse g w n m x pc
    else s.updSplit g w n fun _ => { x.goTo pc false with defer := [] }
  | none =>
    match s.fetchLine (s.wg g).ctx (PC.line pc) with
    | (s1, .inl l) =>
      let (loops, p, seq) := endTest pc (nextPc (some (PC.line pc, l)) pc) x.loops
      s1.updSplit g w n fun _ => { x.goTo p seq with loops := loops, defer := [], line := some (PC.line pc, l) }
    | (s1, .inr _) => s1.updSplit g w n fun _ => { x.goTo pc false with defer := [] }

/-- What follows the last lane of an entry executing EXIT (R36). -/
def State.exitEntry (s : State) (g w n : Nat) : State :=
  let x := s.split g w n
  let s0 := s.traceEvent g w n 3 4 0
  match x.defer with
  | [] => s0.freeSplit g w n
  | r :: rest =>
    if !r.arrived then s0.updSplit g w n fun _ => { x.goTo r.pc r.seq with mask := r.mask, defer := rest }
    else
      match settleStack r.pc { x with mask := r.mask, defer := rest } rest with
      | .resumed y => s0.updSplit g w n fun _ => y
      | .healed y => s0.pastJoin g w n y r.pc
      | .mismatch y _ => s0.updSplit g w n fun _ => { y.goTo r.pc false with defer := y.defer, mask := y.mask }

end Sys2Proof.Machine
end

