-- ==== Sys2Proof/Machine/Kill.lean ====
section
/-! DEFINITION. Cancelled commands, killed warps and workgroups, consumed poison (R207, R263, R294, R383, R445). -/
namespace Sys2Proof.Machine

/-- An act on the barrier that a command names, if it names one. -/
def State.cmdBarrier (s : State) (c : Cmd) (a : TbAct) : State × Bool :=
  match c.bar with
  | none => (s, true)
  | some off => s.tbAct c.wg c.warp off c.phase c.pc c.number a

/-- A command leaves its engine, and its timeline advances (R84). -/
def State.dropCmd (s : State) (core : Nat) (c : Cmd) : State :=
  (s.updCore core fun x => { x with cmds := x.cmds.filter fun d => !(d.number == c.number && d.ctx == c.ctx && d.engine == c.engine && d.wg == c.wg) }).complete
    c.ctx c.engine c.number

/-- A command is cancelled (R263): it arrives with the sectors that it wrote if it had not arrived, otherwise its unwritten
sectors are removed; it writes nothing further, and completes. -/
def State.cancelCmd (s : State) (core : Nat) (c : Cmd) : State :=
  let s1 := if c.arrived then
      (if c.sectors > c.counted.length then (s.cmdBarrier c (.remove (c.sectors - c.counted.length))).1 else s)
    else (s.cmdBarrier c (.arrive 0)).1
  s1.dropCmd core c

/-- The commands of a workgroup that a TCANCEL from number `n` cancels (R263): those of its core's copy engine. A command
whose check has failed writes nothing more and has left its barrier already (R264): it completes with its record (R386, log entry 52). -/
def State.cancelFrom (s : State) (g n : Nat) : State :=
  let core := (s.wg g).core
  ((s.core core).cmds.filter fun c => c.wg == g && c.kind != .tcoll && !c.failed && n ≤ c.number).foldl (fun t c => t.cancelCmd core c) s

/-- Is there still one of them, its record yet to be written? TCANCEL completes once every command that it names has (R263). -/
def State.cancelling (s : State) (g n : Nat) : Bool :=
  (s.core (s.wg g).core).cmds.any fun c => c.wg == g && c.kind != .tcoll && c.failed && n ≤ c.number

/-- Is a chain a warp's? -/
def Chain.isOf (c : Chain) (g w : Nat) : Bool := c.wg == g && c.warp == w

/-- The arrays and the spillway that a chain held are free (R283, R294). -/
def State.freeArrays (s : State) (core : Nat) (paired : Bool) : State :=
  let s1 := s.updCore core fun c => { c with chain := none, spill := [] }
  if paired then s1.updCore (core + 1) fun c => { c with lent := false } else s1

/-- The follower's array is reserved while a paired chain holds the leader's array or stands first for it (R285). -/
def State.relend (s : State) (core : Nat) : State :=
  let c := s.core core
  let want := ((c.chain.toList ++ (c.queue.find? fun h => !h.held).toList).any fun h => h.mods.p)
  if core % 2 = 0 then s.updCore (core + 1) fun k => { k with lent := want } else s

/-- A killed warp's chain is discarded without fold (R294). -/
def State.discardChain (s : State) (g w : Nat) : State :=
  let core := (s.wg g).core
  let c := s.core core
  let s1 := match c.chain with
    | some h => if h.isOf g w then s.freeArrays core h.mods.p else s
    | none => s
  (s1.updCore core fun c => { c with queue := c.queue.filter fun h => !h.isOf g w }).relend core

/-- A split leaves every queue that it waits in, and the handler's. -/
def State.leaveQueues (s : State) (g w n : Nat) : State :=
  let core := (s.wg g).core
  (((s.updWg g fun x => x.leaveFlumes w n).updCore core fun c =>
    { c with copyWait := c.copyWait.filter (· != (g, w, n)),
             releases := c.releases.map fun r => if r.wg == g && r.who == some (w, n) then { r with who := none } else r }).leaveHandler g w n)

/-- WKILL (R207): every split of the warp ends; a handler's bank is discarded (R378). -/
def State.killWarp (s : State) (g w : Nat) : State :=
  if (s.warp g w).live && !(s.warp g w).exited then
    let s1 := splitIxs.foldl (fun t n => if (t.split g w n).live then (t.leaveQueues g w n).updSplit g w n fun _ => {} else t) (s.discardChain g w)
    s1.warpExited g w
  else s

/-- WGCMD kill (R383): every warp ends, and the workgroup's commands are cancelled. -/
def State.killWorkgroup (s : State) (g : Nat) : State :=
  if (s.wg g).live then ((s.wg g).warps.foldl (fun t p => t.killWarp g p.1) s).cancelFrom g 0 else s

/-! ## Poison (R445) -/

/-- Do the bytes lie in a poisoned line? -/
def State.poisoned (s : State) (pa n : Nat) : Bool := s.poison.any fun p => p.1 * 128 < pa + n && pa < p.1 * 128 + 128

/-- The code of the structure that was struck where a poisoned byte lies (R444). -/
def State.struckAt (s : State) (pa : Nat) : Nat := ((s.poison.find? fun p => p.1 == lineOf pa).map (·.2)).getD 0

/-- The structure that holds a physical address beneath the caches (R444). -/
def structureOf (pa : Nat) : Nat := if isCistern pa then 5 else if isWindow pa then 6 else 0

/-- A record of an uncorrectable data error (R373, code 0x00A0), of kind 3. -/
def State.errorRecord (s : State) (ctx core wgid pa structure_ : Nat) : State :=
  s.toRing { code := 0xA0, kind := 3, addr := BitVec.ofNat 64 pa, data := BitVec.ofNat 64 structure_, time := s.time,
             ctx := ctx, core := core, wgid := BitVec.ofNat 32 wgid }

/-- A workgroup that has consumed poison ends, with a record of its WGID (R445). -/
def State.consumePoison (s : State) (g pa : Nat) : State :=
  let wg := s.wg g
  (s.errorRecord wg.ctx wg.core wg.wgid pa (s.struckAt pa)).killWorkgroup g

end Sys2Proof.Machine
end

