-- ==== Sys2Proof/Machine/Access.lean ====
section
/-! DEFINITION. Accesses by lanes: addresses and their checks, places, loads and stores, waits for page walks (R43 to R49, R55,
R57, R79, R238). -/
namespace Sys2Proof.Machine

/-! ## Places (R43 to R49) -/

/-- What the checks of an access give. -/
inductive Located where
  | ok (p : Place)
  | fault (f : AccFault)
  | miss
  deriving DecidableEq, Repr

/-- The first byte of a lane's slice (R45): slices follow one another by warp and lane. -/
def Workgroup.sliceAt (g : Workgroup) (w lane : Nat) : Nat :=
  let (nc, nm, _) := g.counts
  let ix := if w < nc then w else w - nm
  g.slices + (ix * g.lanes + lane) * g.sliceBytes

/-- The checks of a plain space: the range first, then the alignment (R44). -/
def checkRange (space extent addr n : Nat) (p : Place) : Located :=
  if addr + n > extent then .fault { code := 0x20, addr := addr, data := space }
  else if addr % n ≠ 0 then .fault { code := 0x21, addr := addr, data := space }
  else .ok p

/-- The checks of a global address that precede translation (R44). -/
def globalFault (addr n : Nat) : Option AccFault :=
  if addr / 2 ^ 56 ≠ 0 && addr / 2 ^ 56 ≠ 255 then some { code := 0x20, addr := addr, data := 0 }
  else if addr % n ≠ 0 then some { code := 0x21, addr := addr, data := 0 }
  else none

/-- A member of a workgroup's cluster by rank. -/
def State.member (s : State) (g rank : Nat) : Nat := (s.cluster (s.wg g).cluster).wgs.getD rank g

/-- Where a lane's access of `n` bytes is performed, with every check (R44 to R49, R52, R55, R57). -/
def State.locate (s : State) (g w lane space rank addr n : Nat) (a : Access) : Located :=
  let wg := s.wg g
  match space with
  | 0 =>
    match globalFault addr n with
    | some f => .fault f
    | none =>
      match s.translate wg.core wg.ctx (addr % 2 ^ 57) a with
      | .ok pa attr => .ok (.mem pa attr)
      | .fault f => .fault { f with addr := addr }
      | .miss => .miss
  | 1 => checkRange 1 wg.sliceBytes addr n (.sp wg.core (wg.sliceAt w lane + addr))
  | 2 => checkRange 2 wg.userBytes addr n (.sp wg.core (wg.user + addr))
  | 3 =>
    if rank ≥ wg.size then .fault { code := 0x20, addr := addr, data := 3 }
    else
      let m := s.wg (s.member g rank)
      checkRange 3 m.userBytes addr n (.sp m.core (m.user + addr))
  | 4 =>
    let c := s.ctx wg.ctx
    checkRange 4 (c.csLen * 2 ^ 16) addr n (.mem (Config.cisternBase + c.csBase * 2 ^ 16 + addr) {})
  | _ => .fault { code := 0x20, addr := addr, data := space }

/-- The same for a helper lane, which waits for nothing: a walk is made in the same act. None where it would fault (R30). -/
def State.locateNow (s : State) (g w lane space rank addr n : Nat) (a : Access) : State × Option Place :=
  match s.locate g w lane space rank addr n a with
  | .ok p => (s, some p)
  | .fault _ => (s, none)
  | .miss =>
    match s.translateNow (s.wg g).ctx (addr % 2 ^ 57) a with
    | (s1, .ok pa attr) => (s1, some (.mem pa attr))
    | (s1, _) => (s1, none)

/-- The physical address of a poisoned place (R445). -/
def State.placePoison (s : State) (p : Place) (n : Nat) : Option Nat :=
  match p with
  | .sp _ _ => none
  | .mem pa _ => if s.poisoned pa n then some pa else none

/-- The late stores of the issuing split that meet accesses of `n` bytes at places of a list are performed before them (R71). -/
def State.performLanes (s : State) (n : Nat) (ps : List Place) : State := ps.foldl (fun t p => t.performCur n p) s

/-! ## Waits for walks (R57) -/

/-- The issuing split waits in `i` for the walk of a page; a walk of the same 64 KiB on its die is shared, and its completion merges
the walks of one greater page. -/
def State.walkWait (s : State) (i : Instr) (addr : Nat) (a : Access) (lane : Nat) : State :=
  let wg := s.curWg
  let va := addr % 2 ^ 57
  let me : WalkRef := { core := wg.core, wg := s.cur.wg, warp := s.cur.warp, split := s.cur.split, access := a, lane := lane, va := addr }
  let same (x : Walk) : Bool := x.covers wg.core wg.ctx va
  let t := s.waitIn i .walk
  if s.walks.any same then
    { t with walks := t.walks.map fun x => if same x then { x with write := x.write || a.writes, who := x.who ++ [me] } else x }
  else
    { t with walks := t.walks ++ [{ ctx := wg.ctx, die := wg.core / Config.coresPerDie, va := va, write := a.writes, who := [me] }] }

/-- The lowest lane of a list whose access does not succeed (R238, R373). -/
def firstBad (loc : Nat → Located) : List Nat → Option (Nat × Located)
  | [] => none
  | l :: r =>
    match loc l with
    | .ok _ => firstBad loc r
    | x => some (l, x)

/-- The place of a lane whose access succeeds. -/
def placeOf (loc : Nat → Located) (l : Nat) : Place :=
  match loc l with
  | .ok p => p
  | _ => .sp 0 0

/-- The checks of every LIVE lane: the lowest failing lane traps, or waits for its walk, before any lane performs (R44,
R57, R238); then `go`. -/
def State.gate (s : State) (i : Instr) (a : Access) (lanes : List Nat) (addr : Nat → Nat) (loc : Nat → Located)
    (go : Unit → State) : State :=
  match firstBad loc lanes with
  | none => go ()
  | some (l, .fault f) => s.accessTrap f l
  | some (l, _) => s.walkWait i (addr l) a l

/-- Every lane of a list reads `n` bytes at its place, or zero where it has none. -/
def State.readLanes (s : State) (core n : Nat) : List (Nat × Option Place) → State × List (Nat × List Byte)
  | [] => (s, [])
  | (l, p) :: r =>
    let (s1, bs) := match p with
      | some p => s.readPlace core p n
      | none => (s, List.replicate n 0)
    let (s2, rest) := State.readLanes s1 core n r
    (s2, (l, bs) :: rest)

/-- The reads of one instruction (R57, R71, R404): the late stores that they meet are performed, and each line crosses once. -/
def State.readAll (s : State) (core n : Nat) (ls : List (Nat × Option Place)) : State × List (Nat × List Byte) :=
  let ps := ls.filterMap (·.2)
  ((s.performLanes n ps).crossLanes core true ps).readLanes core n ls
/-- The same of one place. -/
def State.readOne (s : State) (core n : Nat) (p : Place) : State × List Byte :=
  ((s.performCur n p).crossLanes core true [p]).readPlace core p n

/-- The first poisoned place of a list of lanes. -/
def State.lanesPoison (s : State) (n : Nat) (place : Nat → Place) (lanes : List Nat) : Option Nat :=
  lanes.findSome? fun l => s.placePoison (place l) n

/-- The places of helper lanes, none where the access would fault: the lane then reads zero (R30). -/
def State.helperLanes (s : State) (space n : Nat) (addr rank : Nat → Nat) : List Nat → State × List (Nat × Option Place)
  | [] => (s, [])
  | l :: r =>
    let (s1, p) := s.locateNow s.cur.wg s.cur.warp l space (rank l) (addr l) n .read
    let (s2, rest) := State.helperLanes s1 space n addr rank r
    (s2, (l, p) :: rest)

/-- What an instruction's LIVE lanes read at their places, and its helper lanes. -/
def State.readWith (s : State) (space n : Nat) (addr rank : Nat → Nat) (loc : Nat → Located) (live helpers : List Nat) :
    State × List (Nat × List Byte) :=
  let (s1, hs) := s.helperLanes space n addr rank helpers
  s1.readAll s.curWg.core n (live.map (fun l => (l, some (placeOf loc l))) ++ hs)

/-- A load by the lanes `live` and the helper lanes `helpers` (R238): LIVE lanes read their places, helper lanes theirs or
zero; `out` makes the words of registers `d` on. -/
def State.loadOn (s : State) (i : Instr) (live helpers : List Nat) (d space n : Nat) (addr rank : Nat → Nat)
    (out : List Byte → List Word) : State :=
  let g := s.cur.wg
  let w := s.cur.warp
  let loc (l : Nat) : Located := s.locate g w l space (rank l) (addr l) n .read
  s.gate i .read live addr loc fun _ =>
    match s.lanesPoison n (placeOf loc) live with
    | some pa => s.consumePoison g pa
    | none =>
      let (s1, vals) := s.readWith space n addr rank loc live helpers
      let writes := vals.flatMap fun p => (out p.2).mapIdx fun ix x => (p.1, d + ix, x)
      (s1.updCurWarp fun x => x.setVs writes).advance

/-- A load of the issuing split (R238). -/
def State.load (s : State) (i : Instr) (op : Nat) (o : Args) (space n : Nat) (addr rank : Nat → Nat)
    (out : List Byte → List Word) : State :=
  let live := s.active op o.g
  s.loadOn i (lanesOf live) (lanesOf (s.activeH op o.g &&& ~~~live)) o.d space n addr rank out

/-- The words of 32, 64 or 128 bits, low first. -/
def wordsOf : Nat → List Byte → List Word
  | 0, _ => []
  | n + 1, bs => BitVec.ofNat 32 (ofBytes (bs.take 4)) :: wordsOf n (bs.drop 4)

/-- The address of a lane: base plus offset (R44); a global base is a pair (R236). -/
def State.laneAddr (s : State) (o : Args) (space : Nat) (off : Bool) (l : Nat) : Nat :=
  let base : DWord := if space = 0 then s.opnd64 .int o.a l else (s.opnd .int o.a l).setWidth 64
  (base + (if off then s.opnd64 .bits o.b l else 0)).toNat

end Sys2Proof.Machine
end

