-- ==== Sys2Proof/Machine/Engine.lean ====
section
/-! DEFINITION. Engines: their accesses, the work of copy commands, arrivals, sector and global writes, checksums, faults and
completion (R84 to R88, R246, R253, R254, R257 to R265). -/
namespace Sys2Proof.Machine

/-! ## Accesses of an engine (R85, R86, R265) -/

/-- What an engine's read of a byte gives. -/
inductive EngRead where
  | ok (b : Byte)
  | fault (f : AccFault)
  | poison (pa : Nat)
  /-- Its translation waits for a walk that is under way (R57). -/
  | miss
  deriving DecidableEq, Repr

/-- A line that an engine has translated: the line of the virtual address, the physical address of its start, the page. -/
abbrev EngLine := Option (Nat × Nat × PageAttr)

/-- The translation of an engine's global address (R57, R265), with the line for the next byte: a copy engine's goes through the second
port of its core's TLB (R13), the host-facing DMA's through none. -/
def State.engXlat (s : State) (tlb : Option Nat) (ctx va : Nat) (a : Access) (c : EngLine) : State × EngLine × Xlat :=
  match globalFault va 1 with
  | some f => (s, none, .fault f)
  | none =>
    let walk (_ : Unit) : State × EngLine × Xlat :=
      match tlb.elim (s.translateNow ctx (va % 2 ^ 57) a) fun core => s.translateEngine core ctx (va % 2 ^ 57) a with
      | (s1, .ok pa attr) => (s1, some (va / 128, pa - va % 128, attr), .ok pa attr)
      | (s1, x) => (s1, none, x)
    match c with
    | some (line, pa, attr) => if line = va / 128 then (s, c, .ok (pa + va % 128) attr) else walk ()
    | none => walk ()

/-- The line of an engine's read crosses its slice interface where it is another than that of the byte before (R404). -/
def State.engCross (s : State) (old new : EngLine) (attr : PageAttr) (pa : Nat) : State :=
  if old == new then s else s.cross attr.compress (lineOf pa) (s.slicePlain (lineOf pa))

/-- A byte that an engine reads for a workgroup (R85): scratchpad of the workgroup's core, global memory and the cistern at
their home slices. -/
def State.engByte (s : State) (g space addr : Nat) (c : EngLine) : State × EngLine × EngRead :=
  let wg := s.wg g
  match space with
  | 0 =>
    match s.engXlat (some wg.core) wg.ctx addr .read c with
    | (s1, c1, .ok pa attr) =>
      if s1.poisoned pa 1 then (s1, c1, .poison pa) else (s1.engCross c c1 attr pa, c1, .ok (s1.engineSees wg.core attr.key pa))
    | (s1, c1, .fault f) => (s1, c1, .fault { f with addr := addr })
    | (s1, c1, .miss) => (s1, c1, .miss)
  | 2 =>
    if addr < wg.userBytes then (s, c, .ok ((s.core wg.core).sp (wg.user + addr)))
    else (s, c, .fault { code := 0x20, addr := addr, data := 2 })
  | _ =>
    let x := s.ctx wg.ctx
    let pa := Config.cisternBase + x.csBase * 2 ^ 16 + addr
    if addr ≥ x.csLen * 2 ^ 16 then (s, c, .fault { code := 0x20, addr := addr, data := 4 })
    else if s.poisoned pa 1 then (s, c, .poison pa)
    else (s, c, .ok (s.engineSees wg.core none pa))

/-- Bytes that an engine reads from an address on, or the first fault. -/
def State.engBytes (s : State) (g space : Nat) : Nat → Nat → EngLine → State × (List Byte ⊕ EngRead)
  | _, 0, _ => (s, .inl [])
  | addr, n + 1, c =>
    match s.engByte g space addr c with
    | (s1, c1, .ok b) =>
      match State.engBytes s1 g space (addr + 1) n c1 with
      | (s2, .inl r) => (s2, .inl (b :: r))
      | (s2, .inr e) => (s2, .inr e)
    | (s1, _, e) => (s1, .inr e)

/-- The value of a cell (R85). -/
def State.readCell (s : State) (g : Nat) (cell : Cell) (c : EngLine) : State × EngLine × EngRead :=
  match cell with
  | .lit b => (s, c, .ok b)
  | .fill b => (s, c, .ok b)
  | .free n => (s, c, .ok (Config.freeByte n))
  | .mem space addr => s.engByte g space addr c
  | .copies space addr m e k =>
    match s.engBytes g space addr (4 * m) c with
    | (s1, .inl bs) =>
      let code := ofBytes bs / 2 ^ (m * e) % 2 ^ m
      (s1, c, .ok (BitVec.ofNat 8 ((List.range 8).foldl (fun x j =>
        x + (if code.testBit ((8 * k + j) % m) then 2 ^ j else 0)) 0)))
    | (s1, .inr x) => (s1, c, x)

/-- The bytes of a write's cells, or the first fault with its tile row. -/
def State.readPuts (s : State) (g : Nat) : List Put → EngLine → State × (List Byte ⊕ EngRead)
  | [], _ => (s, .inl [])
  | p :: r, c =>
    match s.readCell g p.cell c with
    | (s1, c1, .ok b) =>
      match State.readPuts s1 g r c1 with
      | (s2, .inl bs) => (s2, .inl (b :: bs))
      | (s2, .inr e) => (s2, .inr e)
    | (s1, _, e) => (s1, .inr e)

/-- Bytes that an engine writes at their addresses in a space: scratchpad sector by sector, the rest at home slices (R86), and
on to HBM for a TSTORE (`through`). -/
def State.engWrite (s : State) (g space : Nat) (through : Bool) : List (Nat × Byte) → EngLine → State × Option EngRead
  | [], _ => (s, none)
  | (a, b) :: r, c =>
    let wg := s.wg g
    match space with
    | 0 =>
      match s.engXlat (some wg.core) wg.ctx a .write c with
      | (s1, c1, .ok pa attr) =>
        State.engWrite (if through then s1.writeThrough attr pa [b] else s1.publish attr none pa [b]) g space through r c1
      | (s1, _, .fault f) => (s1, some (.fault { f with addr := a }))
      | (s1, _, .miss) => (s1, some .miss)
    | 2 =>
      if a < wg.userBytes then State.engWrite (s.updCore wg.core fun x => x.spWrite (wg.user + a) [b]) g space through r c
      else (s, some (.fault { code := 0x20, addr := a, data := 2 }))
    | _ =>
      let x := s.ctx wg.ctx
      if a < x.csLen * 2 ^ 16 then
        State.engWrite (s.publish {} none (Config.cisternBase + x.csBase * 2 ^ 16 + a) [b]) g space through r c
      else (s, some (.fault { code := 0x20, addr := a, data := 4 }))

/-- Poison of a line that a write covers whole is cleared (R445); the line crosses its slice interface (R404). -/
def State.engLineDone (s : State) (g space : Nat) (puts : List Put) : State :=
  match puts with
  | [] => s
  | p :: _ =>
    if space = 0 then
      match s.engXlat (some (s.wg g).core) (s.wg g).ctx p.addr .write none with
      | (s1, _, .ok pa attr) =>
        let s2 := s1.cross attr.compress (lineOf pa) (s1.slicePlain (lineOf pa))
        if puts.length = 128 && pa % 128 = 0 then s2.clearPoison pa 128 else s2
      | _ => s
    else if space = 4 then
      let pa := Config.cisternBase + (s.ctx (s.wg g).ctx).csBase * 2 ^ 16 + p.addr
      if puts.length = 128 && pa % 128 = 0 then s.clearPoison pa 128 else s
    else s

/-- The line of a TSTORE's write, where its write-through is held (R409). -/
def State.engHeld (s : State) (g space : Nat) (puts : List Put) : List Nat :=
  match space, puts with
  | 0, p :: _ =>
    match s.engXlat (some (s.wg g).core) (s.wg g).ctx p.addr .write none with
    | (_, _, .ok pa _) => if s.isHeld (lineOf pa) then [lineOf pa] else []
    | _ => []
  | _, _ => []

/-! ## Commands in their engine -/

/-- The command at index `ix` of a core's copy engine. -/
def State.cmd (s : State) (core ix : Nat) : Option Cmd := (s.core core).cmds[ix]?
/-- The state with it changed. -/
def State.setCmd (s : State) (core ix : Nat) (c : Cmd) : State :=
  s.updCore core fun x => { x with cmds := x.cmds.set ix c }

/-- Engine progress (R265): the first tile row or byte not yet wholly written. -/
def Cmd.progress (c : Cmd) : Nat :=
  let rows := c.todo.flatMap fun w => w.puts.map (·.row)
  rows.foldl min (rows.headD ((c.routine.map (·.committed)).getD 0))

/-- REC.DATA of an engine fault (R373, code 0x0082). -/
def AccFault.engData (f : AccFault) : Nat :=
  (if f.code = 0x22 then 0 else if f.code = 0x23 then 1 else 2) + f.data % 8 * 16

/-- An engine access faults (R265): the command is suspended, and its record is written, held. -/
def State.engineFault (s : State) (core ix : Nat) (c : Cmd) (f : AccFault) : State :=
  (s.setCmd core ix { c with suspended := true }).engineRecord
    { wg := c.wg, warp := c.warp, pc := c.pc, code := 0x82, addr := f.addr,
      data := if f.code = 0x20 then 2 else f.engData, number := c.number, engine := c.engine, progress := c.progress, held := true }

/-- What follows an access of an engine that did not succeed: a fault suspends the command; poison ends the workgroup (R445); for a walk the
command waits, and the access is made again with the crossings as they were in `s0` (R404). -/
def State.engineBad (s0 s : State) (core ix : Nat) (c : Cmd) : EngRead → State
  | .fault f => s.engineFault core ix c f
  | .poison pa => s.consumePoison c.wg pa
  | .miss => { s with compcnt := s0.compcnt }
  | .ok _ => s

/-! ## CRC-32C (R264) -/

/-- Eight steps of the CRC register, reflected polynomial 0x82F63B78. -/
def crcBits : Nat → Word → Word
  | 0, x => x
  | n + 1, x => crcBits n (if x.getLsbD 0 then (x >>> 1) ^^^ 0x82F63B78 else x >>> 1)
/-- The register after one byte. -/
def crcByte (x : Word) (b : Byte) : Word := crcBits 8 (x ^^^ b.setWidth 32)

/-- Is the byte covered by a command's CRC (R264)? -/
def Cell.inCrc : Cell → Bool
  | .fill _ => false
  | _ => true

/-- The CRC register after the bytes of a write. -/
def crcPuts (x : Word) (puts : List Put) (bs : List Byte) : Word :=
  (puts.zip bs).foldl (fun a p => if p.1.cell.inCrc then crcByte a p.2 else a) x

/-- The sectors of a command that are not counted. -/
def Cmd.outstanding (c : Cmd) : Nat := c.sectors - c.counted.length

/-- POISON set on the barrier of a command whose check failed, where it still matches (R254, R264). -/
def State.markPoison (s : State) (c : Cmd) : State :=
  match c.bar with
  | none => s
  | some off =>
    let b := s.tbar c.wg off
    if b.live && b.phase == c.phase then s.setTbar c.wg off (b.setField 5 1 1) else s

/-- The barrier of a command whose check failed (R254, R264): POISON set, and the held sectors removed, or the arrival made
without sectors; discarded where the barrier no longer matches. -/
def State.poisonBarrier (s : State) (c : Cmd) : State :=
  let s1 := s.markPoison c
  if c.arrived then (if c.outstanding > 0 then (s1.cmdBarrier c (.remove c.outstanding)).1 else s1)
  else (s1.cmdBarrier c (.arrive 0)).1

/-- Is a record of a command's failed check still to be written (R386)? -/
def State.failPending (s : State) (c : Cmd) : Bool :=
  (s.ctx c.ctx).pending.any fun r => r.code == 0x81 && r.engine == c.engine && r.slot.toNat % 2 ^ 64 == c.number

/-- A failed check (R264, R386): the barrier is poisoned, and the record is to be written; the command does nothing more, and
completes once the record is written. -/
def State.failCheck (s : State) (core ix : Nat) (c : Cmd) (data : Nat) : State :=
  (((s.poisonBarrier c).setCmd core ix { c with failed := true, todo := [], arrived := true, sectors := c.counted.length })).engineRecord
    { wg := c.wg, warp := c.warp, pc := c.pc, code := 0x81, addr := c.bar.getD 0, data := data, number := c.number, engine := c.engine,
      progress := c.counted.length }

/-- REC.DATA of a checksum failure: computed and expected CRC. -/
def crcData (computed expected : Word) : Nat := computed.toNat * 2 ^ 32 + expected.toNat

/-! ## Arrivals (R253) -/

/-- May a core's copy engine start a command: no record of it waits for room in a full ring of any context (R381)? -/
def State.engineStarts (s : State) (core : Nat) : Bool :=
  !(s.ctxs.any fun p => p.2.ringFull && p.2.pending.any fun r => r.kind == 1 && r.core == core)

/-- Every byte that a command still has to read from scratchpad is read now: what a TSTORE's arrival tells (R253). -/
def State.latchWork (s : State) (g : Nat) : List Work → State × (List Work ⊕ EngRead)
  | [] => (s, .inl [])
  | w :: r =>
    match s.readPuts g w.puts none with
    | (s1, .inl bs) =>
      match State.latchWork s1 g r with
      | (s2, .inl ws) => (s2, .inl ({ w with puts := (w.puts.zip bs).map fun p => { p.1 with cell := .lit p.2 } } :: ws))
      | (s2, .inr e) => (s2, .inr e)
    | (s1, .inr e) => (s1, .inr e)

/-- The CRC of the tile bytes that a TSTORE reads (R264). -/
def State.crcOfReads (s : State) (g : Nat) (offs : List Nat) : Word :=
  let wg := s.wg g
  ~~~(offs.foldl (fun x off => crcByte x ((s.core wg.core).sp (wg.user + off))) 0xFFFFFFFF)

/-- The arrival of a TSTORE or TSCATTER: its last scratchpad byte is read; the check of a CRC comes first. -/
def State.storeArrival (s : State) (core ix : Nat) (c : Cmd) : State :=
  match s.latchWork c.wg c.todo with
  | (s1, .inr e) => s.engineBad s1 core ix { c with started := true } e
  | (s1, .inl todo) =>
    let crc := s1.crcOfReads c.wg c.reads
    match c.crc with
    | some want =>
      if crc ≠ want then s1.failCheck core ix c (crcData crc want)
      else (s1.setCmd core ix { c with started := true, arrived := true, todo := todo }).cmdBarrier c (.arrive 0) |>.1
    | none => (s1.setCmd core ix { c with started := true, arrived := true, todo := todo }).cmdBarrier c (.arrive 0) |>.1

/-- COMMAND_ARRIVAL (R253): the engine starts a command, which arrives with its sectors; a TSTORE or TSCATTER arrives once
it has read the last scratchpad byte that it needs. A TCOPY with nothing to write is checked at once (R264): the CRC of no
bytes is 0. -/
def execCommandArrival (core ix : Nat) (s : State) : Out :=
  match s.cmd core ix with
  | none => .next s
  | some c =>
    if c.arrived || c.suspended || !s.engineStarts core then .next s
    else
      match c.kind with
      | .tstore => .next (s.storeArrival core ix c)
      | .tscatter => .next (s.storeArrival core ix c)
      | _ =>
        match c.crc with
        | some want =>
          if c.todo.isEmpty && want ≠ 0 then .next (s.failCheck core ix c (crcData 0 want))
          else .next ((s.setCmd core ix { c with started := true, arrived := true }).cmdBarrier c (.arrive c.sectors)).1
        | none => .next ((s.setCmd core ix { c with started := true, arrived := true }).cmdBarrier c (.arrive c.sectors)).1

/-! ## Writes (R86, R253) -/

/-- The sector of a write counted on the command's barrier, once (R253, R401). -/
def State.countSector (s : State) (core ix : Nat) (c : Cmd) (w : Work) : State :=
  match w.puts with
  | [] => s.setCmd core ix c
  | p :: _ =>
    let n := p.addr / 32
    if w.sector && !c.counted.contains n then
      ((s.setCmd core ix { c with counted := n :: c.counted }).cmdBarrier c .sector).1
    else s.setCmd core ix c

/-- The aligned words from which a cell takes its byte (R88): space and word address. -/
def Cell.words : Cell → List (Nat × Nat)
  | .mem space addr => [(space, addr / 4)]
  | .copies space addr m _ _ => (List.range (m + 1)).map fun i => (space, addr / 4 + i)
  | _ => []

/-- The writes that a command still has to make, with every byte read that lies in a word of which the engine has just read a part
(R88): a later write of it is of the same reading. -/
def State.latchWords (s : State) (g : Nat) (words : List (Nat × Nat)) (rest : List Work) : List Work :=
  rest.map fun w =>
    if w.puts.any fun p => p.cell.words.any words.contains then
      { w with puts := w.puts.map fun p =>
          if p.cell.words.any words.contains then
            match s.readCell g p.cell none with
            | (_, _, .ok b) => { p with cell := if p.cell.inCrc then .lit b else .fill b }
            | _ => p
          else p }
    else w

/-- A copy engine reads one aligned word of scratchpad that a TSTORE or TSCATTER is to store, before its arrival reads the rest: words
are not ordered towards one another (R88, log entry 50). -/
def State.readEarly (s : State) (core ix word : Nat) : State :=
  match s.cmd core ix with
  | none => s
  | some c =>
    if (c.kind == .tstore || c.kind == .tscatter) && !c.arrived && !c.suspended && c.crc.isNone && s.engineStarts core then
      s.setCmd core ix { c with started := true, todo := s.latchWords c.wg [(2, word)] c.todo }
    else s

/-- The next write of a started command is made; a CRC that fails at the last one withholds it (R264). -/
def State.nextWrite (s : State) (core ix : Nat) (c : Cmd) (w : Work) (rest : List Work) : State :=
  match s.readPuts c.wg w.puts none with
  | (s1, .inr e) => s.engineBad s1 core ix c e
  | (s1, .inl bs) =>
    let crc := if c.kind = .tcopy then crcPuts c.crcNow w.puts bs else c.crcNow
    let bad : Option Word := match c.crc with
      | some want => if c.kind = .tcopy && rest.isEmpty && ~~~crc ≠ want then some want else none
      | none => none
    match bad with
    | some want => s1.failCheck core ix c (crcData (~~~crc) want)
    | none =>
      let rest := s1.latchWords c.wg (w.puts.flatMap fun p => p.cell.words).eraseDups rest
      match s1.engWrite c.wg w.space (c.kind == .tstore) ((w.puts.zip bs).map fun p => (p.1.addr, p.2)) none with
      | (s2, some e) => s.engineBad s2 core ix c e
      | (s2, none) =>
        let back := if c.kind = .tstore then s2.engHeld c.wg w.space w.puts else []
        (s2.engLineDone c.wg w.space w.puts).countSector core ix { c with todo := rest, crcNow := crc, heldBack := c.heldBack ++ back } w

/-- The next write of command `ix` of a core's engine, where it goes to scratchpad as `sp` says. -/
def State.commandWrite (s : State) (core ix : Nat) (sp : Bool) : State :=
  match s.cmd core ix with
  | none => s
  | some c =>
    match c.todo with
    | [] => s
    | w :: rest =>
      let ready := c.arrived && !c.suspended && c.kind != .tcoll
      if ready && (w.space == 2) == sp then s.nextWrite core ix c w rest else s

/-- SECTOR_WRITE (R253). -/
def execSectorWrite (core ix : Nat) (s : State) : Out := .next (s.commandWrite core ix true)

/-- The CRC of a TCOPY over what it has written and would still write (R264), where the reads succeed. -/
def State.crcAhead (s : State) (c : Cmd) : Option Word :=
  let r := c.todo.foldl (fun (acc : State × Option Word) w =>
    match acc with
    | (t, none) => (t, none)
    | (t, some x) =>
      match t.readPuts c.wg w.puts none with
      | (t1, .inl bs) => (t1, some (crcPuts x w.puts bs))
      | (t1, .inr _) => (t1, none)) (s, some c.crcNow)
  r.2.map (~~~ ·)

/-- The completion of a command (R86): it releases the command's writes, which stand at their home slices, and advances the
timeline; a TSTORE's waits until HBM holds them (R66, R409). A TCOPY whose CRC fails may end here with any of its sectors still held (R264). -/
def State.commandEnd (s : State) (core ix : Nat) (c : Cmd) : State :=
  if c.todo.isEmpty then (if c.heldBack.any s.isHeld then s else s.dropCmd core c)
  else
    match c.crc, s.crcAhead c with
    | some want, some crc => if c.kind = .tcopy && crc ≠ want then s.failCheck core ix c (crcData crc want) else s
    | _, _ => s

end Sys2Proof.Machine
end

