-- ==== Sys2Proof/Machine/Tiles.lean ====
section
/-! DEFINITION. Tiles, tensor layout records and the work of the tile commands (R105 to R108, R131, R136, R247 to R251, R257, R258). -/
namespace Sys2Proof.Machine

/-! ## Formats and tiles (R105, R249, R251) -/

/-- Is a format code a BFP code? -/
def isBfp (code : Nat) : Bool := 8 ≤ code && code ≤ 14
/-- Mantissa bits of a BFP code. -/
def bfpM (code : Nat) : Nat := code - 6
/-- Bytes of an element of a format. -/
def elemBytes (code : Nat) : Nat := if code = 5 || code = 6 then 4 else if code ≤ 1 then 2 else 1
/-- Is the code one of the twelve matrix formats (R105)? -/
def isMatrixFmt (code : Nat) : Bool := code ≤ 4 || isBfp code

/-- HANDLE.BASE in bytes (R247). -/
def handleBase (h : DWord) : Nat := h.toNat % 2 ^ 20 * 64
/-- HANDLE.BAR in bytes. -/
def handleBar (h : DWord) : Nat := h.toNat / 2 ^ 20 % 2 ^ 16 * 16
/-- HANDLE.SHAPE. -/
def handleShape (h : DWord) : Nat := h.toNat / 2 ^ 36 % 8
/-- HANDLE.SLOT. -/
def handleSlot (h : DWord) : Nat := h.toNat / 2 ^ 39 % 2 ^ 9

/-- A tile slot of a workgroup (R247). -/
def Workgroup.tile (g : Workgroup) (n : Nat) : TileSlot := sget (fun _ => {}) g.tiles n
/-- Bytes of a tile row (R251); a slot with a band table carries the code of m = 8. -/
def TileSlot.rowBytes (t : TileSlot) : Nat := if isBfp t.fmt then t.cols / 32 * (4 * bfpM t.fmt) else t.cols * elemBytes t.fmt
/-- The pitch. -/
def TileSlot.pitch (t : TileSlot) : Nat := (t.rowBytes + 63) / 64 * 64
/-- Where the exponent bytes begin, from the tile's base. -/
def TileSlot.expAt (t : TileSlot) : Nat := t.rows * t.pitch
/-- The footprint in bytes. -/
def TileSlot.footprint (t : TileSlot) : Nat :=
  if isBfp t.fmt then t.expAt + t.rows * (t.cols / 32) else (t.rows - 1) * t.pitch + t.rowBytes
/-- The band code of a block of 32 tile rows. -/
def TileSlot.band (t : TileSlot) (b : Nat) : Nat := t.bands.toNat / 2 ^ (4 * b) % 16
/-- A slot with one code in every band. -/
def bandsOf (f : Nat → Nat) : BitVec 32 :=
  BitVec.ofNat 32 ((List.range 8).foldl (fun x b => x + f b % 16 * 2 ^ (4 * b)) 0)

/-! ## Layout records (R248, R249) -/

/-- A tensor layout record. -/
abbrev Layout := BitVec 512
/-- `n` bits of it from `lo`. -/
def Layout.field (l : Layout) (lo n : Nat) : Nat := l.toNat / 2 ^ lo % 2 ^ n
/-- LAYOUT.BASE. -/
def Layout.base (l : Layout) : Nat := l.field 0 64
/-- LAYOUT.EXT of a dimension. -/
def Layout.ext (l : Layout) (d : Nat) : Nat := l.field (64 + 32 * d) 32
/-- LAYOUT.STRIDE of dimension 1, 2 or 3. -/
def Layout.stride (l : Layout) (d : Nat) : Nat := l.field (192 + 48 * (d - 1)) 48
/-- LAYOUT.FMT. -/
def Layout.fmt (l : Layout) : Nat := l.field 336 4
/-- LAYOUT.SPACE. -/
def Layout.space (l : Layout) : Nat := l.field 340 3
/-- The number of used dimensions: LAYOUT.RANK is the rank less 1.
DEDUCED (log entry 18): R249 says that dimensions 0 to LAYOUT.RANK + 1 are used; the example records of R298 and R302 hold
RANK 1 for two dimensions. -/
def Layout.dims (l : Layout) : Nat := l.field 352 2 + 1
/-- LAYOUT.SCALE. -/
def Layout.scale (l : Layout) : Nat := l.field 384 64
/-- LAYOUT.BAND. -/
def Layout.bandTable (l : Layout) : Nat := l.field 448 64
/-- Is the tensor one of a BFP format (R108)? -/
def Layout.bfp (l : Layout) : Bool := l.bandTable != 0 || isBfp l.fmt

/-- Is the record within its rules, but for its band table (R248, R249)? -/
def Layout.ok (l : Layout) : Bool :=
  l.field 360 8 == 0x7A && l.field 368 16 == 0 && l.field 354 6 == 0 && l.field 343 1 == 0 && l.base < 2 ^ 57
    && (l.space == 0 || l.space == 2 || l.space == 4)
    && (l.bandTable != 0 || (l.fmt != 7 && l.fmt != 15))
    && l.field 344 8 == (if l.bfp then 32 else 0) && (l.scale != 0) == l.bfp
    && (!l.bfp || l.ext 0 % 32 == 0)
    && (List.range l.dims).all fun d => l.ext d != 0

/-- The address of row (r, i2, i3) (R249). -/
def Layout.rowAddr (l : Layout) (r i2 i3 : Nat) : Nat := l.base + r * l.stride 1 + i2 * l.stride 2 + i3 * l.stride 3
/-- The address of the exponent byte of group `g` of a row (R249). -/
def Layout.expAddr (l : Layout) (r i2 i3 g : Nat) : Nat :=
  l.scale + ((i3 * l.ext 2 + i2) * l.ext 1 + r) * l.ext 0 / 32 + g
/-- An index clamped into a dimension (R136): 0 in an unused one. -/
def Layout.clamp (l : Layout) (d : Nat) (i : Int) : Nat :=
  if d ≥ l.dims then 0 else if i < 0 then 0 else min i.toNat (l.ext d - 1)
/-- Does an index lie in a dimension? An unused dimension has index 0. -/
def Layout.inside (l : Layout) (d : Nat) (i : Int) : Bool := d ≥ l.dims || (0 ≤ i && i < (l.ext d : Int))

/-! ## The region of a command (R131, R136, R250, R257, R258) -/

/-- What a tile row below the valid count names. -/
inductive TileRow where
  /-- It is not moved (R258). -/
  | skip
  /-- A fill row (R131). -/
  | fill
  /-- A row of the tensor, and whether it lies in the tensor: a dense read clamps it (R136). -/
  | row (r : Nat) (inside : Bool)
  /-- The row's first element is at an address (R258). -/
  | at (addr : Nat)
  deriving DecidableEq, Repr

/-- A tile command's region: the record, the tile, the column origin, the clamped indices 2 and 3 and whether they are
inside, the rows and the valid columns, the fill value under .SH, and the band codes by tensor band. -/
structure Region where
  lay : Layout
  tile : TileSlot
  base : Nat
  i0 : Int := 0
  i2 : Nat := 0
  i3 : Nat := 0
  inside23 : Bool := true
  rows : List TileRow := []
  vc : Nat := 0
  fill : Option Word := none
  bands : List (Nat × Nat) := []

/-- A packed row (R131). -/
def packedRow (img : ShapeImage) (r : Int) : TileRow :=
  if r < 0 || (img.rows : Int) ≤ r then .fill else .row r.toNat true
/-- A row of sequence `n` at offset `o` (R131). -/
def seqRow (img : ShapeImage) (n o : Nat) : TileRow :=
  if n ≥ img.nseq then .fill
  else if img.bound n + o ≥ img.bound (n + 1) then .fill else .row (img.bound n + o) true
/-- A row of a dense tensor (R136). -/
def denseRow (l : Layout) (r : Int) : TileRow := .row (l.clamp 1 r) (l.inside 1 r)

/-- The format code of a tensor row: that of its band, or the record's. -/
def Region.code (x : Region) (r : Nat) : Nat :=
  if x.lay.bandTable = 0 then x.lay.fmt else ((x.bands.find? fun p => p.1 == r / 32).map (·.2)).getD x.tile.fmt
/-- The format code of a tile row. -/
def Region.rowCode (x : Region) (t : Nat) : TileRow → Nat
  | .row r _ => x.code r
  | _ => if x.lay.bandTable = 0 then x.lay.fmt else x.tile.band (t / 32)

/-- Byte `k` of the fill value. -/
def fillByte (x : Word) (k : Nat) : Byte := BitVec.ofNat 8 (x.toNat / 2 ^ (8 * k))

/-- The first byte of a tensor row, with its column 0. -/
def Region.rowBase (x : Region) : TileRow → Nat
  | .row r _ => x.lay.rowAddr r x.i2 x.i3
  | .at a => a
  | _ => 0

/-- The cell of byte `k` of an element in tensor column `c` of a row (R131, R136). -/
def Region.elemCell (x : Region) (row : TileRow) (c : Int) (k : Nat) : Cell :=
  let e := elemBytes x.lay.fmt
  match row, x.fill with
  | .fill, some f => .fill (fillByte f k)
  | _, some f =>
    if c < 0 || (x.lay.ext 0 : Int) ≤ c then .fill (fillByte f k) else .mem x.lay.space ((x.rowBase row + c.toNat * e + k) % 2 ^ 64)
  | _, none => .mem x.lay.space ((x.rowBase row + x.lay.clamp 0 c * e + k) % 2 ^ 64)

/-- The cell of byte `k` of the mantissa block of group `g` of a row: a group outside the extents of a dense tensor repeats
the border element (R136), and one of a ragged tensor is zero (R131). -/
def Region.blockCell (x : Region) (row : TileRow) (m : Nat) (g : Int) (k : Nat) : Cell :=
  let n : Int := x.lay.ext 0 / 32
  let blk (h : Nat) : Nat := (x.rowBase row + h * (4 * m)) % 2 ^ 64
  if row = .fill then .fill 0
  else if 0 ≤ g && g < n then .mem x.lay.space ((blk g.toNat + k) % 2 ^ 64)
  else if x.fill.isSome then .fill 0
  else if g < 0 then .copies x.lay.space (blk 0) m 0 k
  else .copies x.lay.space (blk (n.toNat - 1)) m 31 k

/-- The cell of the exponent byte of group `g` of a row. -/
def Region.expCell (x : Region) (row : TileRow) (g : Int) (n : Nat) : Cell :=
  let last : Nat := x.lay.ext 0 / 32
  match row with
  | .row r _ =>
    if 0 ≤ g && g < (last : Int) then .mem x.lay.space (x.lay.expAddr r x.i2 x.i3 g.toNat % 2 ^ 64)
    else if x.fill.isSome then .fill 0
    else .mem x.lay.space (x.lay.expAddr r x.i2 x.i3 (if g < 0 then 0 else last - 1) % 2 ^ 64)
  | .at _ => if x.fill.isSome && !(0 ≤ g && g < (last : Int)) then .fill 0 else .free n
  | _ => .fill 0

/-- What a TCOPY or TGATHER writes into its tile: rows first, then the exponent bytes (R251). -/
def Region.reads (x : Region) (draws : Nat) : List Put :=
  let t := x.tile
  let rows := x.rows.zipIdx.filter fun p => p.1 != .skip
  if x.lay.bfp then
    let g0 := x.i0 / 32
    (rows.flatMap fun p =>
      let m := bfpM (x.rowCode p.2 p.1)
      (List.range (x.vc / 32)).flatMap fun (g : Nat) => (List.range (4 * m)).map fun k =>
        { row := p.2, addr := x.base + p.2 * t.pitch + g * (4 * m) + k, cell := x.blockCell p.1 m (g0 + g) k })
    ++ rows.flatMap fun p => (List.range (x.vc / 32)).map fun (g : Nat) =>
        { row := p.2, addr := x.base + t.expAt + p.2 * (t.cols / 32) + g, cell := x.expCell p.1 (g0 + g) (draws * 2 ^ 24 + p.2 * 2 ^ 12 + g) }
  else
    let e := elemBytes x.lay.fmt
    rows.flatMap fun p => (List.range x.vc).flatMap fun (u : Nat) => (List.range e).map fun k =>
      { row := p.2, addr := x.base + p.2 * t.pitch + u * e + k, cell := x.elemCell p.1 (x.i0 + u) k }

/-- Does a TSTORE or TSCATTER write the row, but for its columns? -/
def Region.writesRow (x : Region) : TileRow → Bool
  | .row _ ok => ok && x.inside23
  | .at _ => true
  | _ => false

/-- The tile rows that a TSTORE or TSCATTER reads: those whose bit of the slot's row mask is 1. -/
def Region.storeRows (x : Region) (mask : BitVec 256) : List (TileRow × Nat) :=
  x.rows.zipIdx.filter fun p => mask.getLsbD p.2 && p.1 != .skip

/-- The tensor columns from `a` to `a + n − 1` that lie in the tensor, as offsets. -/
def insideCols (a : Int) (n ext : Nat) : List Nat :=
  (List.range n).filter fun u => 0 ≤ a + u && a + u < (ext : Int)

/-- What a TSTORE or TSCATTER writes (R257): row by row, a BFP row's groups with its exponent bytes; a row by address has no place for
exponents, and none are written (DESIGN CHOICE, log entry 17). -/
def Region.writes (x : Region) (mask : BitVec 256) : List Put :=
  let t := x.tile
  (x.storeRows mask).flatMap fun p =>
    if !x.writesRow p.1 then []
    else if x.lay.bfp then
      let m := bfpM (x.rowCode p.2 p.1)
      let g0 := x.i0 / 32
      let cols := insideCols g0 (x.vc / 32) (x.lay.ext 0 / 32)
      (cols.flatMap fun (g : Nat) => (List.range (4 * m)).map fun k =>
        { row := p.2, addr := (x.rowBase p.1 + (g0 + g).toNat * (4 * m) + k) % 2 ^ 64,
          cell := .mem 2 (x.base + p.2 * t.pitch + g * (4 * m) + k) })
      ++ match p.1 with
        | .row r _ => cols.map fun (g : Nat) =>
          { row := p.2, addr := x.lay.expAddr r x.i2 x.i3 (g0 + g).toNat % 2 ^ 64,
            cell := .mem 2 (x.base + t.expAt + p.2 * (t.cols / 32) + g) }
        | _ => []
    else
      let e := elemBytes x.lay.fmt
      (insideCols x.i0 x.vc (x.lay.ext 0)).flatMap fun (u : Nat) => (List.range e).map fun k =>
        { row := p.2, addr := (x.rowBase p.1 + (x.i0 + u).toNat * e + k) % 2 ^ 64,
          cell := .mem 2 (x.base + p.2 * t.pitch + u * e + k) }

/-- The scratchpad offsets that a TSTORE reads, in rising order (R264). -/
def Region.readOffsets (x : Region) (mask : BitVec 256) : List Nat :=
  let t := x.tile
  let rows := x.storeRows mask
  if x.lay.bfp then
    (rows.flatMap fun p => (List.range (x.vc / 32 * (4 * bfpM (x.rowCode p.2 p.1)))).map fun k => x.base + p.2 * t.pitch + k)
    ++ rows.flatMap fun p => (List.range (x.vc / 32)).map fun g => x.base + t.expAt + p.2 * (t.cols / 32) + g
  else rows.flatMap fun p => (List.range (x.vc * elemBytes x.lay.fmt)).map fun k => x.base + p.2 * t.pitch + k

/-- Writes grouped by aligned blocks of `n` bytes, and by row where `byRow`. -/
def groupPuts (space n : Nat) (byRow sector : Bool) : List Put → List Work
  | [] => []
  | p :: r =>
    match groupPuts space n byRow sector r with
    | [] => [{ space := space, puts := [p], sector := sector }]
    | w :: ws =>
      match w.puts with
      | q :: _ =>
        if q.addr / n = p.addr / n && (!byRow || q.row = p.row) then { w with puts := p :: w.puts } :: ws
        else { space := space, puts := [p], sector := sector } :: w :: ws
      | [] => { space := space, puts := [p], sector := sector } :: w :: ws

/-- Writes into scratchpad as counted sectors of 32 bytes (R253). -/
def sectorWorks (puts : List Put) : List Work := groupPuts 2 32 false true puts
/-- Writes into a space by row and line; into scratchpad by sectors that no barrier counts. -/
def plainWorks (space : Nat) (puts : List Put) : List Work := groupPuts space (if space = 2 then 32 else 128) true false puts

end Sys2Proof.Machine
end

