-- ==== Sys2Proof/Machine/Array.lean ====
section
/-! DEFINITION. The array: processing elements, promotion, the spillway, one clock of a chain (R105 to R121, R269 to R283). -/
namespace Sys2Proof.Machine

/-! ## Operands (R105, R106, R270, R274) -/

/-- Positions of a slab (R270). -/
def slabPositions (code : Nat) : Nat := if code ≤ 1 then 32 else 64
/-- The float format of a code below 4. -/
def matrixFmt (code : Nat) : FFmt :=
  match code with
  | 0 => bf16
  | 1 => fp16
  | 2 => e4m3
  | _ => e5m2
/-- The band code of a tile row; the slot's own format beyond its bands. -/
def TileSlot.rowBand (t : TileSlot) (r : Nat) : Nat := if r / 32 < 8 then t.band (r / 32) else t.fmt
/-- The code of a band of an m register. -/
def MReg.band (m : MReg) (b : Nat) : Nat := m.bands.toNat / 2 ^ (4 * b) % 16
/-- A row of an m register. -/
def MReg.row (m : MReg) (r : Nat) : MRow := sget (fun _ => {}) m.rows r
/-- `n` bits of a number from bit `lo`, as a two's complement integer. -/
def signedBits (x lo n : Nat) : Int :=
  let y := x / 2 ^ lo % 2 ^ n
  if y ≥ 2 ^ (n - 1) then (y : Int) - (2 ^ n : Nat) else y
/-- The mantissas of a block of `m`-bit codes (R107). -/
def mantissas (block m : Nat) : List Int := (List.range 32).map fun i => signedBits block (m * i) m

/-- A byte of a workgroup's scratchpad that a matrix instruction reads; beyond the user area the manual leaves it open
(log entry 17). -/
def State.tileByte (s : State) (g off : Nat) : Byte :=
  if off < (s.wg g).userBytes then (s.core (s.wg g).core).sp ((s.wg g).user + off) else Config.freeByte (s.draws * 2 ^ 32 + off)
/-- Bytes of it, as a number. -/
def State.tileNum (s : State) (g off n : Nat) : Nat := ofBytes ((List.range n).map fun i => s.tileByte g (off + i))
/-- The exponent byte and the mantissa block of group `grp` of tile row `r` (R107, R251), and its width. -/
def State.tileGroup (s : State) (g base : Nat) (t : TileSlot) (r grp : Nat) : Nat × Nat × Nat :=
  let m := bfpM (t.rowBand r)
  ((s.tileByte g (base + t.expAt + r * (t.cols / 32) + grp)).toNat, s.tileNum g (base + r * t.pitch + grp * (4 * m)) (4 * m), m)
/-- The bits of tile element (r, c) of an element format. -/
def State.tileElem (s : State) (g base : Nat) (t : TileSlot) (r c : Nat) : Nat :=
  let e := elemBytes t.fmt
  s.tileNum g (base + r * t.pitch + c * e) e

/-! ## Promotion and fold (R109 to R116) -/

/-- a + b, exactly (R110). -/
def addExact (a b : FVal) : FVal := (sumVals .rne [a, b]).getD (.nan false 0 false)
/-- An infinity in a pair, with tail +0. -/
def infEntry (neg : Bool) : Entry := BitVec.ofNat 64 (fp32.signed neg fp32.infBits)

/-- The F26 value with bits `v` promoted into an entry (R111), and flags (R112). -/
def promote (e : Entry) (v : Nat) : Entry × Flags :=
  let h := fp32.value false (e.extractLsb' 0 32).toNat
  let t := fp32.value false (e.extractLsb' 32 32).toNat
  let x := f26.value false v
  if h.isNan || t.isNan || x.isNan then (BitVec.ofNat 64 fp32.canon, 0)
  else if h.isInf || t.isInf || x.isInf then
    match sumVals .rne [h, t, x] with
    | some y => (infEntry y.neg, 0)
    | none => (BitVec.ofNat 64 fp32.canon, flagInvalid)
  else
    let r (y : FVal) : FVal := fp32.value false (fp32.roundVal {} y).1
    let hv := addExact h x
    let s := r hv
    let u := r (addExact t (addExact hv s.negate))
    let y := addExact s u
    let h' := r y
    if s.isInf then (infEntry s.neg, flagOverflow)
    else if u.isInf then (infEntry u.neg, flagOverflow)
    else if h'.isInf then (infEntry h'.neg, flagOverflow)
    else
      (BitVec.ofNat 64 ((fp32.roundVal {} h').1 + 2 ^ 32 * (fp32.roundVal {} (addExact y h'.negate)).1), 0)

/-- SPILL.COORD of an entry (R115). -/
def spillCoord (x : BitVec 24) : Nat := x.toNat / 2 ^ 8 % 2 ^ 15
/-- SPILL.COUNT. -/
def spillCount (x : BitVec 24) : Int := signedBits x.toNat 0 7
/-- A valid entry. -/
def spillEntry (coord : Nat) (count : Int) : BitVec 24 := BitVec.ofNat 24 (2 ^ 23 + coord * 2 ^ 8) ||| (BitVec.ofInt 7 count).setWidth 24
/-- The newest entry of a coordinate: its index and count. Entries are placed at rising indices. -/
def spillNewest (sp : Sparse (BitVec 24)) (coord : Nat) : Option (Nat × Int) :=
  ((sp.reverse).find? fun p => spillCoord p.2 == coord).map fun p => (p.1, spillCount p.2)
/-- Does an event of a coordinate need a new entry (R115)? -/
def spillNeeds (sp : Sparse (BitVec 24)) (coord : Nat) (ev : Int) : Bool :=
  match spillNewest sp coord with
  | none => true
  | some (_, n) => n == 63 * ev
/-- The spillway with an event added. -/
def spillAdd (sp : Sparse (BitVec 24)) (coord : Nat) (ev : Int) : Sparse (BitVec 24) :=
  match spillNewest sp coord with
  | some (i, n) => if n = 63 * ev then sset (fun _ => 0) sp sp.length (spillEntry coord ev) else sset (fun _ => 0) sp i (spillEntry coord (n + ev))
  | none => sset (fun _ => 0) sp sp.length (spillEntry coord ev)
/-- The net count of a coordinate. -/
def spillNet (sp : Sparse (BitVec 24)) (coord : Nat) : Int :=
  (sp.map fun p => if spillCoord p.2 = coord then spillCount p.2 else 0).foldl (· + ·) 0

/-! ## Chains (R269, R277) -/

/-- The core of a chain. -/
def State.chainCore (s : State) (c : Chain) : Nat := (s.wg c.wg).core
/-- Where output `key` = i × 128 + j of a chain lands in a window: the core and the entry (R50, R277). -/
def State.outputAt (s : State) (c : Chain) (window key : Nat) : Nat × Nat :=
  (s.chainCore c + key / Config.windowEntries,
    ((s.wg c.wg).window + window) * Config.windowEntries + key % Config.windowEntries)
/-- The entry of an output. -/
def State.output (s : State) (c : Chain) (window key : Nat) : Entry :=
  let p := s.outputAt c window key
  (s.core p.1).entry p.2
/-- The state with it written. -/
def State.setOutput (s : State) (c : Chain) (window key : Nat) (x : Entry) : State :=
  let p := s.outputAt c window key
  s.updCore p.1 fun k => k.setEntry p.2 x
/-- Entries written zero: window `window` of a workgroup, and under `paired` the follower's (R119, R282, R287). -/
def State.zeroWindow (s : State) (g window : Nat) (paired : Bool) : State :=
  let wg := s.wg g
  let lo := (wg.window + window) * Config.windowEntries
  let clear (c : Core) : Core := { c with acc := c.acc.filter fun p => !(lo ≤ p.1 && p.1 < lo + Config.windowEntries) }
  let s1 := s.updCore wg.core clear
  if paired then s1.updCore (wg.core + 1) clear else s1
/-- The register of a PE: what it holds, or 0 where the output was not admitted before. -/
def Chain.reg (c : Chain) (key : Nat) : Nat := (sget (fun _ => 0) c.pe key).toNat - 1
/-- The chain with a PE's register written. -/
def Chain.setReg (c : Chain) (key x : Nat) : Chain := { c with pe := sset (fun _ => 0) c.pe key (BitVec.ofNat 32 (x + 1)) }

/-- Every admitted output is promoted into a window, and its accumulator set to +0 (R110, R111): all in one act, where R121 asks it of
each entry alone (DESIGN CHOICE, log entry 84). -/
def State.promoteAll (s : State) (c : Chain) (window : Nat) : State × Chain :=
  let r := c.pe.foldl (fun (t : State × Flags) p =>
    let e := promote (t.1.output c window p.1) (p.2.toNat - 1)
    (t.1.setOutput c window p.1 e.1, t.2 ||| e.2)) (s, c.flags)
  (r.1, { c with pe := c.pe.map fun p => (p.1, 1), flags := r.2 })

/-- A fold of the coordinates with a property (R116), all in one act (DESIGN CHOICE, log entry 84). -/
def State.foldSome (s : State) (c : Chain) (window : Nat) (which : Nat → Bool) : State × Chain :=
  let sp := (s.core (s.chainCore c)).spill
  let s1 := c.pe.foldl (fun t p =>
    if which p.1 then
      let x := signedBits (p.2.toNat - 1) 0 18 + 2 ^ 18 * spillNet sp p.1
      t.setOutput c window p.1 (t.output c window p.1 + BitVec.ofInt 64 x)
    else t) s
  (s1.updCore (s.chainCore c) fun k => { k with spill := k.spill.filter fun p => !which (spillCoord p.2) },
    { c with pe := c.pe.map fun p => if which p.1 then (p.1, 1) else p })

/-- The chain's window at its k-step count: the group's under .GROUPED (R119, R286). -/
def Chain.nowWindow (c : Chain) : Nat := c.lastWindow c.steps

/-- A fold of every coordinate, or a promotion of every admitted output, at the chain's boundary (R110, R116, R286). -/
def State.drainChain (s : State) (c : Chain) : State × Chain :=
  match c.path with
  | .integer => s.foldSome c c.nowWindow fun _ => true
  | _ => s.promoteAll c c.window

/-! ## Carries under the limit (R114, R115, R117, R281) -/

/-- What adding `d` to a coordinate's accumulator gives: the wrapped value's bits and the carry event (R114). -/
def Chain.carry (c : Chain) (key : Nat) (d : Int) : Nat × Int :=
  let x := signedBits (c.reg key) 0 18 + d
  ((x % (2 ^ 18 : Nat)).toNat, if x ≥ 2 ^ 17 then 1 else if x < -(2 ^ 17) then -1 else 0)

/-- The sums of a clock, or of part of it: by coordinate. -/
abbrev Sums := List (Nat × Int)

/-- New entries that the sums need. -/
def State.spillNew (s : State) (c : Chain) (ds : Sums) : Nat :=
  let sp := (s.core (s.chainCore c)).spill
  (ds.filter fun d => let e := (c.carry d.1 d.2).2; e != 0 && spillNeeds sp d.1 e).length
/-- Do they fit under the limit L (R117)? -/
def State.spillFits (s : State) (c : Chain) (ds : Sums) : Bool :=
  s.spillNew c ds + (s.core (s.chainCore c)).spill.length ≤ cfgL c.cfg
/-- The sums are added. -/
def State.addSums (s : State) (c : Chain) : Sums → State × Chain
  | [] => (s, c)
  | (key, d) :: r =>
    let (x, e) := c.carry key d
    let s1 := if e = 0 then s else s.updCore (s.chainCore c) fun k => { k with spill := spillAdd k.spill key e }
    State.addSums s1 (c.setReg key x) r

/-- The coordinates one at a time, folding before one whose entry would not fit (R281). -/
def State.addSingly (s : State) (c : Chain) (window : Nat) : Sums → State × Chain
  | [] => (s, c)
  | d :: r =>
    let (s1, c1) := if s.spillFits c [d] then (s, c) else s.foldSome c window fun _ => true
    let (s2, c2) := s1.addSums c1 [d]
    State.addSingly s2 c2 window r

/-- One row of a clock (R281). -/
def State.addRow (s : State) (c : Chain) (window : Nat) (ds : Sums) : State × Chain :=
  if s.spillFits c ds then s.addSums c ds
  else
    let (s1, c1) := s.foldSome c window fun _ => true
    if s1.spillFits c1 ds then s1.addSums c1 ds else s1.addSingly c1 window ds

/-- The rows of a clock in rising order. -/
def State.addRows (s : State) (c : Chain) (window : Nat) (ds : Sums) : List Nat → State × Chain
  | [] => (s, c)
  | i :: r =>
    let (s1, c1) := s.addRow c window (ds.filter fun d => d.1 / 128 == i)
    State.addRows s1 c1 window ds r

/-- A clock under .STALL (R117, R281) that does not fit, after its early drain: row by row where even an empty spillway is too small. -/
def State.addStalled (s : State) (c : Chain) (window : Nat) (ds : Sums) : State × Chain :=
  if s.spillFits c ds then s.addSums c ds else s.addRows c window ds (List.range 256)

/-- The early drain of a spillway stall (R117): every coordinate is folded, those without an entry too, so that a clock needs no second
drain soon after (R306, log entry 85). -/
def State.earlyDrain (s : State) (c : Chain) (window : Nat) : State × Chain :=
  let (s1, c1) := s.foldSome c window fun _ => true
  (s1, { c1 with draining := true })

/-! ## One clock (R110, R113, R114, R277 to R279) -/

/-- A row of A or of B: its number, its sequence (R132), and what it brings into the clock. -/
abbrev Line' (α : Type) := Nat × Option Nat × α

/-- The sequence of a row of A; without .SEG all are alike. -/
def ArrayInstr.rowSeq (i : ArrayInstr) (r : Nat) : Option Nat :=
  match i.image with
  | none => some 0
  | some m => m.seq (i.rowOrg + r)
/-- The sequence of a column of B. -/
def ArrayInstr.colSeq (i : ArrayInstr) (j : Nat) : Option Nat :=
  match i.image with
  | none => some 0
  | some m => m.seq (i.colOrg + j)
/-- Do a row and a column have one sequence? -/
def sameSeq (a b : Option Nat) : Bool := a.isSome && a == b

/-- The outputs that the instruction admits (R277), with what the two rows bring. -/
def admitted {α β : Type} (rows : List (Line' α)) (cols : List (Line' β)) : List (Nat × α × β) :=
  rows.flatMap fun r => cols.filterMap fun c => if sameSeq r.2.1 c.2.1 then some (r.1 * 128 + c.1, r.2.2, c.2.2) else none

/-- Outputs of the valid counts whose rows have no common sequence (R132). -/
def ArrayInstr.maskedOut (i : ArrayInstr) : List Nat :=
  (List.range i.rows).flatMap fun r => (List.range i.cols).filterMap fun j =>
    if sameSeq (i.rowSeq r) (i.colSeq j) then none else some (r * 128 + j)

/-- Slabs of a row. -/
def ArrayInstr.q (i : ArrayInstr) : Nat := i.mods.q.val + 1
/-- The m register that supplies slab `n` to row `r` (R277). -/
def ArrayInstr.reg (i : ArrayInstr) (r n : Nat) : MReg := i.a.getD (n + r / 128 * i.q) {}
/-- The code of the instruction's elements. -/
def ArrayInstr.code (i : ArrayInstr) : Nat := i.slot.fmt
/-- The bits of A's element of row `r` at position `x`, and its map bit. -/
def ArrayInstr.elemA (i : ArrayInstr) (r x : Nat) : Nat × Bool :=
  let code := (i.reg 0 0).band 0
  let n := slabPositions code
  let row := (i.reg r (x / n)).row (r % 128)
  let e := 8 * elemBytes code
  (row.data.toNat / 2 ^ (e * (x % n)) % 2 ^ e, row.map.getLsbD (x % n))

/-- Is an element of a format neither +0 nor −0 (R272, R279)? -/
def nonZero (code bits : Nat) : Bool := if code = 4 then bits != 0 else !((matrixFmt code).value false bits).isZero

/-- Have two sets of four positions more than two in common? -/
def crowded (a b : Nat) : Bool := popCount (BitVec.ofNat 4 a &&& BitVec.ofNat 4 b) > 2
/-- The sparse test of R278 on `n` positions from `x`: every aligned four hold at most two surviving products, at every
row below the bound and every B tile row below 128. -/
def State.thin (s : State) (g : Nat) (i : ArrayInstr) (x n : Nat) : Bool :=
  (List.range (n / 4)).all fun f =>
    let bits (t : Nat → Bool) : Nat := ((List.range 4).map fun k => if t (x + 4 * f + k) then 2 ^ k else 0).foldl (· + ·) 0
    let as := ((List.range (if i.mods.p then 256 else 128)).map fun r => bits fun y => (i.elemA r y).2).eraseDups
    let bs := ((List.range (min 128 i.slot.rows)).map fun j =>
      bits fun y => nonZero i.slot.fmt (s.tileElem g i.base i.slot j (i.kb + y))).eraseDups
    as.all fun a => bs.all fun b => !crowded a b

/-- The positions of the next clock of a float or integer instruction (R278). -/
def State.clockPositions (s : State) (g : Nat) (i : ArrayInstr) : List Nat :=
  let w := if slabPositions i.slot.fmt = 32 then 2 else 4
  let n := if i.mods.sparse && i.done % (2 * w) = 0 && s.thin g i i.done (2 * w) then 2 * w else w
  (List.range n).map fun k => i.done + k

/-- One clock of a float PE (R110, R112, R279): the accumulator's bits and the products' elements. -/
def floatClock (fa fb : FFmt) (sparse : Bool) (acc : Nat) (xs : List ((Nat × Bool) × Nat)) : Nat × Flags :=
  let vals := (xs.map fun p => (p.1.2, fa.value false p.1.1, fb.value false p.2)).filter fun p => !sparse || (p.1 && !p.2.2.isZero)
  let prods := vals.map fun p => if p.2.1.isNan || p.2.2.isNan then none else p.2.1.mul p.2.2
  if vals.isEmpty then (acc, 0)
  else if prods.any Option.isNone then (f26.canon, flagInvalid)
  else
    match sumVals .rne (prods.filterMap id) with
    | none => (f26.canon, flagInvalid)
    | some step =>
      let a := f26.value false acc
      if a.isNan then (acc, 0)
      else
        match sumVals .rne [a, step] with
        | none => (f26.canon, flagInvalid)
        | some x => let r := f26.roundVal {} x; (r.1, r.2 &&& flagOverflow)

/-- A BFP group: exponent byte, mantissa block, width. -/
abbrev Group := Nat × Nat × Nat
/-- Is an element of a group NaN (R106)? -/
def Group.hasNan (x : Group) : Bool := x.1 == 255 || x.1 != 0 && (mantissas x.2.1 x.2.2).any fun m => m == -(2 ^ (x.2.2 - 1) : Nat)

/-- One group of a BFP PE (R113). Beside a group of exponent 0 a NaN contributes 0 too, and is an operand that was NaN (R112, log entry
82). -/
def bfpClock (acc : Nat) (a b : Group) : Nat × Flags :=
  if a.1 = 0 || b.1 = 0 then (acc, if a.hasNan || b.hasNan then flagInvalid else 0)
  else if a.hasNan || b.hasNan then (f26.canon, flagInvalid)
  else
    let g : Int := ((mantissas a.2.1 a.2.2).zip (mantissas b.2.1 b.2.2)).foldl (fun t p => t + p.1 * p.2) 0
    let x := f26.value false acc
    if x.isNan then (acc, 0)
    else
      match sumVals .rne [x, .fin (decide (g < 0)) g.natAbs (((a.1 + b.1 : Nat) : Int) - 254)] with
      | none => (f26.canon, flagInvalid)
      | some y => let r := f26.roundVal {} y; (r.1, r.2 &&& flagOverflow)

/-- The chain after PEs have computed. -/
def Chain.setRegs (c : Chain) : List (Nat × Nat × Flags) → Chain
  | [] => c
  | (key, x, f) :: r => Chain.setRegs { c.setReg key x with flags := c.flags ||| f } r

/-- The rows of A and the columns of B below the counts, with what they bring. -/
def ArrayInstr.linesA {α : Type} (i : ArrayInstr) (f : Nat → α) : List (Line' α) :=
  (List.range i.rows).map fun r => (r, i.rowSeq r, f r)
/-- The columns: tile rows of B below its row bound. -/
def ArrayInstr.linesB {α : Type} (i : ArrayInstr) (f : Nat → α) : List (Line' α) :=
  (List.range (min i.cols i.slot.rows)).map fun j => (j, i.colSeq j, f j)

/-- The sums of an integer clock (R114). -/
def State.intSums (s : State) (c : Chain) (i : ArrayInstr) (xs : List Nat) : Sums :=
  let rows := i.linesA fun r => xs.map fun x => let e := i.elemA r x; (signedBits e.1 0 8, e.2)
  let cols := i.linesB fun j => xs.map fun x => signedBits (s.tileElem c.wg i.base i.slot j (i.kb + x)) 0 8
  (admitted rows cols).map fun o =>
    (o.1, (o.2.1.zip o.2.2).foldl (fun t p => if i.mods.sparse && !p.1.2 then t else t + p.1.1 * p.2) 0)

/-- The PEs after a float clock. -/
def State.floatRegs (s : State) (c : Chain) (i : ArrayInstr) (xs : List Nat) : List (Nat × Nat × Flags) :=
  let rows := i.linesA fun r => xs.map fun x => i.elemA r x
  let cols := i.linesB fun j => xs.map fun x => s.tileElem c.wg i.base i.slot j (i.kb + x)
  let fa := matrixFmt ((i.reg 0 0).band 0)
  (admitted rows cols).map fun o => (o.1, floatClock fa (matrixFmt i.slot.fmt) i.mods.sparse (c.reg o.1) (o.2.1.zip o.2.2))

/-- The PEs after a BFP group. -/
def State.bfpRegs (s : State) (c : Chain) (i : ArrayInstr) : List (Nat × Nat × Flags) :=
  let n := i.done
  let rows := i.linesA fun r =>
    let m := i.reg r (n / 2)
    let w := bfpM (m.band (r % 128 / 32))
    let row := m.row (r % 128)
    ((row.exp.toNat / 2 ^ (8 * (n % 2)) % 256, row.data.toNat / 2 ^ (32 * w * (n % 2)) % 2 ^ (32 * w), w) : Group)
  let cols := i.linesB fun j => (s.tileGroup c.wg i.base i.slot j (i.kb / 32 + n) : Group)
  (admitted rows cols).map fun o => (o.1, bfpClock (c.reg o.1) o.2.1 o.2.2)

/-- After a clock of `n` k-steps: the counts advance, and at a multiple of P or D every admitted output is promoted or
folded (R110, R116). -/
def State.afterClock (s : State) (c : Chain) (i : ArrayInstr) (rest : List ArrayInstr) (n : Nat) : State × Chain :=
  let c1 := { c with steps := c.steps + n, todo := { i with done := i.done + n } :: rest }
  let per := match c.path with | .integer => cfgD c.cfg | _ => cfgP c.cfg
  if c1.steps / per ≠ c.steps / per then s.drainChain c1 else (s, c1)

/-- A clock of the instruction `i` that the chain performs, or none where the spillway stops it under .TRAP (R117). Under .STALL a clock
that does not fit drains early, and is performed in a later one. -/
def State.clock (s : State) (c : Chain) (i : ArrayInstr) (rest : List ArrayInstr) : Option (State × Chain) :=
  match c.path with
  | .bfp => some (s.afterClock (c.setRegs (s.bfpRegs c i)) i rest 1)
  | .float =>
    let xs := s.clockPositions c.wg i
    some (s.afterClock (c.setRegs (s.floatRegs c i xs)) i rest xs.length)
  | .integer =>
    let xs := s.clockPositions c.wg i
    let ds := s.intSums c i xs
    if c.trapMode && !s.spillFits c ds then none
    else
      let window := c.window + if c.mods.grouped then c.steps / cfgD c.cfg else 0
      let s1 := if c.mods.grouped && c.steps % cfgD c.cfg = 0 then s.zeroWindow c.wg window c.mods.p else s
      if !c.draining && !s1.spillFits c ds then some (s1.earlyDrain c window)
      else
        let (s2, c2) := s1.addStalled { c with draining := false } window ds
        some (s2.afterClock c2 i rest xs.length)

/-- The masked value of R132 for a path, if it changes the entry. -/
def maskedValue (path : ArrayPath) (maskv : Nat) : Option Entry :=
  match maskv with
  | 0 => some (match path with | .integer => 0x8000000000000000 | _ => 0x00000000FF800000)
  | 2 => some 0
  | _ => none

/-- The end of a chain (R110, R116, R132, R283): the final promotion or fold, unless the last clock made it, and the masked
values. -/
def State.finishChain (s : State) (c : Chain) : State × Chain :=
  let (s1, c1) := match c.path with
    | .integer => s.drainChain c
    | _ => if c.steps % cfgP c.cfg = 0 then (s, c) else s.drainChain c
  match maskedValue c.path c.maskv with
  | none => (s1, c1)
  | some v =>
    let windows := (List.range (c.nowWindow - c.window + 1)).map fun k => c.window + k
    (windows.foldl (fun t w => c.masked.foldl (fun u key => u.setOutput c w key v) t) s1, c1)

end Sys2Proof.Machine
end

