-- ==== Sys2Proof/Machine/LaneMem.lean ====
section
/-! DEFINITION. Class 101, KLD, and the events of page walks and L1 evictions (R203, R236 to R245, R53 to R57, R61, R63). -/
namespace Sys2Proof.Machine

/-! ## Loads and stores (R237, R238) -/

/-- The bytes of a load size, and whether it is signed (R237). -/
def ldSize : LdSize → Nat × Bool
  | .u8 => (1, false)
  | .s8 => (1, true)
  | .u16 => (2, false)
  | .s16 => (2, true)
  | .b32 => (4, false)
  | .b64 => (8, false)
  | .b128 => (16, false)
/-- The words that a load writes. -/
def ldWords (size : LdSize) (bs : List Byte) : List Word :=
  let x := ofBytes bs
  match size with
  | .s8 => [(BitVec.ofNat 8 x).signExtend 32]
  | .s16 => [(BitVec.ofNat 16 x).signExtend 32]
  | .b64 => wordsOf 2 bs
  | .b128 => wordsOf 4 bs
  | _ => [BitVec.ofNat 32 x]
/-- The bytes of a store size. -/
def stSize : StSize → Nat
  | .b8 => 1
  | .b16 => 2
  | .b32 => 4
  | .b64 => 8
  | .b128 => 16

/-- LD (R238). -/
def execLd (o : Args) (size : LdSize) (space : LsSpace) (s : State) : Out :=
  let sp := space.toBits
  .next (s.load (.ld o size space) 0x280 o sp (ldSize size).1 (s.laneAddr o sp true) (fun _ => 0) (ldWords size))
/-- LD from cluster memory (R47). -/
def execLdCluster (o : Args) (size : LdSize) (s : State) : Out :=
  .next (s.load (.ldCluster o size) 0x280 o 3 (ldSize size).1 (s.laneAddr o 3 false) (fun l => (s.opnd .bits o.b l).toNat) (ldWords size))

/-- The words of consecutive registers from a data operand on, in a lane. -/
def State.dataWords (s : State) (x : Src) (n l : Nat) : List Word :=
  (List.range n).map fun i =>
    match x with
    | .v r _ _ => s.curWarp.getV l (r + i)
    | .k r _ _ => s.curWarp.getK (r + i)
    | _ => 0
/-- The bytes that a lane stores. -/
def State.dataBytes (s : State) (x : Src) (n l : Nat) : List Byte :=
  ((s.dataWords x ((n + 3) / 4) l).flatMap fun w => toBytes 4 w.toNat).take n

/-- Every lane of a list writes its bytes at its place, in rising lane order (R238); the lanes of `late` leave theirs for later (R72,
R73, log entry 69). -/
def State.writeLanes (s : State) (late : LaneMask) (place : Nat → Place) (data : Nat → List Byte) : List Nat → State
  | [] => s
  | l :: r =>
    State.writeLanes (s.lanePut s.curWg.core s.cur.wg s.cur.warp s.cur.split (late.getLsbD l) (place l) (data l)) late place data r

/-- A store (R238). -/
def State.store (s : State) (i : Instr) (o : Args) (space n : Nat) (addr rank : Nat → Nat) : State :=
  let g := s.cur.wg
  let live := lanesOf (s.active 0x281 o.g)
  let loc (l : Nat) : Located := s.locate g s.cur.warp l space (rank l) (addr l) n .write
  s.gate i .write live addr loc fun _ =>
    let prompt := (live.filter fun l => !s.lag.getLsbD l).map (placeOf loc)
    (((s.crossLanes s.curWg.core false prompt).writeLanes s.lag (placeOf loc) (s.dataBytes o.c n) live).clearCovered
      (prompt.flatMap (·.streamRange n))).advance

/-- ST (R238). -/
def execSt (o : Args) (size : StSize) (space : LsSpace) (s : State) : Out :=
  let sp := space.toBits
  .next (s.store (.st o size space) o sp (stSize size) (s.laneAddr o sp true) fun _ => 0)
/-- ST to cluster memory (R47). -/
def execStCluster (o : Args) (size : StSize) (s : State) : Out :=
  .next (s.store (.stCluster o size) o 3 (stSize size) (s.laneAddr o 3 false) fun l => (s.opnd .bits o.b l).toNat)

/-! ## Constant banks (R203, R239) -/

/-- Bank and word offset of a constant operand. -/
def bankOf : Src → Nat × Nat
  | .bank c off => (c.val, off.toNat)
  | _ => (0, 0)
/-- The byte address in the bank: 4 × the word offset + base + offset (R203, R239). -/
def State.bankAddr (s : State) (o : Args) (l : Nat) : Nat :=
  (BitVec.ofNat 64 (4 * (bankOf o.c).2) + (s.opnd .int o.a l).setWidth 64 + s.opnd64 .bits o.b l).toNat
/-- The checks of R44 on an access of a bank. -/
def bankFault (addr n : Nat) : Option AccFault :=
  if addr + n > 65536 then some { code := 0x20, addr := addr, data := 6 }
  else if addr % n ≠ 0 then some { code := 0x21, addr := addr, data := 6 }
  else none
/-- The words that an access of a bank returns. -/
def State.bankWords (s : State) (o : Args) (addr n : Nat) : List Word :=
  (List.range (n / 4)).map fun i => s.bankWord s.cur.wg (bankOf o.c).1 (addr / 4 + i)

/-- LDC (R239). -/
def execLdc (o : Args) (size : LdcSize) (s : State) : Out :=
  let n := 4 * size.regs
  let live := lanesOf (s.active 0x282 o.g)
  match live.findSome? fun l => (bankFault (s.bankAddr o l) n).map fun f => (f, l) with
  | some (f, l) => .next (s.accessTrap f l)
  | none =>
    let writes := (lanesOf (s.activeH 0x282 o.g)).flatMap fun l =>
      let a := s.bankAddr o l
      let ws := if (bankFault a n).isSome then List.replicate (n / 4) 0 else s.bankWords o a n
      ws.mapIdx fun ix x => (l, o.d + ix, x)
    .next (s.updCurWarp fun w => w.setVs writes).advance

/-- KLD from a constant bank (R203). -/
def execKldBank (o : Args) (w64 : Bool) (s : State) : Out :=
  let n := if w64 then 8 else 4
  let a := s.bankAddr o 0
  if !s.acts 0x0C0 o.g then .next s.advance
  else
    match bankFault a n with
    | some f => .next (s.accessTrap f (s.liveLane 0x0C0 o.g))
    | none => .next (s.updCurWarp fun w => w.setKs o.d (s.bankWords o a n)).advance

/-- KLD from global memory (R203). -/
def execKldGlobal (o : Args) (w64 : Bool) (s : State) : Out :=
  let n := if w64 then 8 else 4
  let g := s.cur.wg
  let core := s.curWg.core
  let addr (_ : Nat) : Nat := s.laneAddr o 0 true 0
  let loc (_ : Nat) : Located := s.locate g s.cur.warp 0 0 0 (addr 0) n .read
  if !s.acts 0x0C0 o.g then .next s.advance
  else
    .next (s.gate (.kldGlobal o w64) .read [s.liveLane 0x0C0 o.g] addr loc fun _ =>
      match s.placePoison (placeOf loc 0) n with
      | some pa => s.consumePoison g pa
      | none =>
        let (s1, bs) := s.readOne core n (placeOf loc 0)
        (s1.updCurWarp fun w => w.setKs o.d (wordsOf (n / 4) bs)).advance)

/-! ## The accumulator store (R240, R241) -/

/-- The core whose windows LDA and STA reach: the follower under .FOL (R241). -/
def State.accCore (s : State) (fol : Bool) : Nat := s.curWg.core + if fol then 1 else 0
/-- The entry index of a lane. -/
def State.entryIndex (s : State) (o : Args) (l : Nat) : Nat :=
  ((s.opnd .bits o.a l).setWidth 64 + s.opnd64 .bits o.b l).toNat
/-- The entry of the core's store that an index of the workgroup names (R50). -/
def Workgroup.entryAt (g : Workgroup) (e : Nat) : Nat := g.window * Config.windowEntries + e
/-- The fault of an entry index (R240). -/
def Workgroup.entryFault (g : Workgroup) (e : Nat) : Option AccFault :=
  if e ≥ g.windows * Config.windowEntries then some { code := 0x20, addr := e, data := 5 } else none

/-- round_f32(head + tail) of an entry (R109). -/
def entryF32 (e : Entry) : Word := addF32 (e.extractLsb' 0 32) (e.extractLsb' 32 32)
/-- A view's words, with SAT where .I32 clamps (R240). -/
def viewRead (v : View) (e : Entry) : List Word × Flags :=
  match v with
  | .b64 => ([e.extractLsb' 0 32, e.extractLsb' 32 32], 0)
  | .f32 => ([entryF32 e], 0)
  | .i32 =>
    let r := intResult 32 false true e.toInt
    ([r.1], satFlag r.2)
/-- The entry that a view's words make. -/
def viewWrite (v : View) (ws : List Word) : Entry :=
  let lo : Word := ws.getD 0 0
  match v with
  | .b64 => (ws.getD 1 0) ++ lo
  | .f32 => lo.setWidth 64
  | .i32 => lo.signExtend 64
/-- Words of a view. -/
def viewWords : View → Nat
  | .b64 => 2
  | _ => 1

/-- LDA (R240, R241). -/
def execLda (o : Args) (view : View) (fol : Bool) (s : State) : Out :=
  let g := s.curWg
  let live := s.active 0x283 o.g
  let core := s.core (s.accCore fol)
  if fol && !g.paired then .next (s.illegalOperand 4)
  else
    match (lanesOf live).findSome? fun l => (g.entryFault (s.entryIndex o l)).map fun f => (f, l) with
    | some (f, l) => .next (s.accessTrap f l)
    | none =>
      let outs := (lanesOf (s.activeH 0x283 o.g)).map fun l =>
        let e := s.entryIndex o l
        (l, if (g.entryFault e).isSome then (List.replicate (viewWords view) 0, 0) else viewRead view (core.entry (g.entryAt e)))
      let writes := outs.flatMap fun p => p.2.1.mapIdx fun ix x => (p.1, o.d + ix, x)
      let flags := orFlags (outs.map fun p => if live.getLsbD p.1 then p.2.2 else 0)
      .next (s.updCurWarp fun w => (w.raise flags).setVs writes).advance

/-- STA (R240, R241). -/
def execSta (o : Args) (view : View) (fol : Bool) (s : State) : Out :=
  let g := s.curWg
  let live := lanesOf (s.active 0x284 o.g)
  if fol && !g.paired then .next (s.illegalOperand 4)
  else
    match live.findSome? fun l => (g.entryFault (s.entryIndex o l)).map fun f => (f, l) with
    | some (f, l) => .next (s.accessTrap f l)
    | none =>
      .next ((live.foldl (fun t l => t.updCore (s.accCore fol) fun c =>
        c.setEntry (g.entryAt (s.entryIndex o l)) (viewWrite view (s.dataWords o.c (viewWords view) l))) s).advance)

/-! ## Atomics (R82, R83, R242, R243) -/

/-- The value that an integer atomic leaves in memory (R242): `x` the data, `y` the new value of .CAS. -/
def intAtom {w : Nat} (op : IntAtom) (old x y : BitVec w) : BitVec w :=
  match op with
  | .add => old + x
  | .smin => lesser false old x
  | .smax => greater false old x
  | .umin => lesser true old x
  | .umax => greater true old x
  | .and_ => old &&& x
  | .or_ => old ||| x
  | .xor_ => old ^^^ x
  | .exch => x
  | .cas => if old = x then y else old
/-- FMIN and FMAX of an atomic: no NANP, no flushing (R242). -/
def atomMinMax (isMax : Bool) (old x : Word) : Word :=
  BitVec.ofNat 32 (minMaxVal fp32 {} isMax (fp32.value false old.toNat) (fp32.value false x.toNat) old.toNat x.toNat).1
/-- The value that an atomic leaves (R242), from its data words. -/
def atomResult (op : AtomOp) (old : Nat) (ws : List Word) : Nat :=
  let w (i : Nat) : Word := ws.getD i 0
  match op with
  | .int a true => (intAtom a (BitVec.ofNat 64 old) (w 1 ++ w 0) (w 3 ++ w 2)).toNat
  | .int a false => (intAtom a (BitVec.ofNat 32 old) (w 0) (w 1)).toNat
  | .fadd => (addF32 (BitVec.ofNat 32 old) (w 0)).toNat
  | .fmin => (atomMinMax false (BitVec.ofNat 32 old) (w 0)).toNat
  | .fmax => (atomMinMax true (BitVec.ofNat 32 old) (w 0)).toNat
/-- Bytes of an atomic. -/
def atomBytes : AtomOp → Nat
  | .int _ true => 8
  | _ => 4
/-- Data words of an atomic (R242). -/
def atomWords : AtomOp → Nat
  | .int .cas true => 4
  | .int .cas false => 2
  | .int _ true => 2
  | _ => 1
/-- May host memory carry the operation (R82)? -/
def hostAtom : AtomOp → Bool
  | .int .add _ => true
  | .int .exch _ => true
  | .int .cas _ => true
  | _ => false
/-- Does an atomic break R82 at its place? -/
def atomIllegal (scope : Scope) (op : AtomOp) : Place → Bool
  | .sp _ _ => false
  | .mem pa _ =>
    if isPeer pa then scope != .system else if isHost pa then scope != .system || !hostAtom op else false

/-- The old value of an atomic in L1 (R82), which takes the line exclusive first: the core's own held stores, else what is published,
whatever copy the core held. -/
def State.ownByte (s : State) (core : Nat) (key : Option (BitVec 512)) (pa : Nat) : Byte :=
  match (s.core core).heldStore pa with
  | some h => reKey h.attr.key key pa h.byte
  | none => s.homeByte key pa

/-- One lane's atomic at its place (R82): in the scratchpad; in L1 at WARP or WG scope, where every other holder's copy becomes
pending; otherwise at the home slice, where the core's own copy does too. Where R82 names L1 and the page is STREAM, which L1
never holds (R59), it is performed at the home slice (DESIGN CHOICE, log entry 76). The old value is returned. -/
def State.atomAt (s : State) (core wg : Nat) (scope : Scope) (op : AtomOp) (p : Place) (ws : List Word) : State × Nat :=
  let n := atomBytes op
  match p with
  | .sp c off =>
    let old := ofBytes ((s.core c).spRead off n)
    (s.writePlace core wg p (toBytes n (atomResult op old ws)), old)
  | .mem pa attr =>
    if scopePublishes scope || attr.stream then
      let old := ofBytes (s.homeRead attr.key pa n)
      ((s.publish attr none pa (toBytes n (atomResult op old ws))).note pa n, old)
    else
      let t := (s.takeCopy core attr (lineOf pa)).markPending (lineOf pa) (some core)
      let old := ofBytes ((List.range n).map fun i => t.ownByte core attr.key (pa + i))
      (t.writePlace core wg p (toBytes n (atomResult op old ws)), old)

/-- The lines that one atomic instruction takes over their slice interfaces (R57, R82, R404): each once, where it is performed there. -/
def State.crossAtoms (s : State) (core : Nat) (scope : Scope) (ps : List Place) : State :=
  s.crossLanes core false (ps.map fun p =>
    match p with
    | .mem pa attr => .mem pa { attr with stream := attr.stream || scopePublishes scope }
    | p => p)

/-- A lane in the order of its key. -/
def insertLane (key : Nat → Nat) (l : Nat) : List Nat → List Nat
  | [] => [l]
  | x :: r => if key l < key x then l :: x :: r else x :: insertLane key l r
/-- The lanes of an atomic in the order in which they perform: none of a single lane; otherwise by a free value (R243). -/
def laneOrder (n : Nat) : List Nat → List Nat
  | [] => []
  | [l] => [l]
  | l :: r => insertLane (Config.laneKey n) l (laneOrder n r)

/-- Every lane of a list performs its atomic. -/
def State.atomLanes (s : State) (core wg : Nat) (scope : Scope) (op : AtomOp) (place : Nat → Place) (data : Nat → List Word) :
    List Nat → State × List (Nat × Nat)
  | [] => (s, [])
  | l :: r =>
    let (s1, old) := s.atomAt core wg scope op (place l) (data l)
    let (s2, rest) := State.atomLanes s1 core wg scope op place data r
    (s2, (l, old) :: rest)

/-- ATOM and ATOM.RED (R242, R243). -/
def State.atomic (s : State) (i : Instr) (opc : Nat) (o : Args) (scope : Scope) (space : AtomSpace) (sel : AtomSel) (red : Bool) : State :=
  let g := s.cur.wg
  let core := s.curWg.core
  let sp := space.toBits
  let n := atomBytes sel.op
  let live := lanesOf (s.active opc o.g)
  let addr := s.laneAddr o sp false
  let loc (l : Nat) : Located := s.locate g s.cur.warp l sp sel.rank.val (addr l) n .atomic
  s.gate i .atomic live addr loc fun _ =>
    if live.any fun l => atomIllegal scope sel.op (placeOf loc l) then s.illegalOperand 7
    else
      match s.lanesPoison n (placeOf loc) live with
      | some pa => s.consumePoison g pa
      | none =>
        let ps := live.map (placeOf loc)
        let (s1, olds) := ((s.performLanes n ps).crossAtoms core scope ps).atomLanes core g scope sel.op (placeOf loc) (s.dataWords o.c (atomWords sel.op)) (laneOrder s.draws live)
        let s2 := { s1 with draws := s.draws + 1 }
        if red then s2.advance
        else
          (s2.updCurWarp fun w => w.setVs (olds.flatMap fun p =>
            if n = 8 then [(p.1, o.d, BitVec.ofNat 32 p.2), (p.1, o.d + 1, BitVec.ofNat 32 (p.2 / 2 ^ 32))]
            else [(p.1, o.d, BitVec.ofNat 32 p.2)])).advance

/-- ATOM. -/
def execAtom (o : Args) (scope : Scope) (space : AtomSpace) (sel : AtomSel) (s : State) : Out :=
  .next (s.atomic (.atom o scope space sel) 0x285 o scope space sel false)
/-- ATOM.RED. -/
def execAtomRed (o : Args) (scope : Scope) (space : AtomSpace) (sel : AtomSel) (s : State) : Out :=
  .next (s.atomic (.atomRed o scope space sel) 0x286 o scope space sel true)

/-! ## LDSEQ (R135, R244) -/

/-- LDSEQ. -/
def execLdseq (o : Args) (size : SeqSize) (nocross : Bool) (space : SeqSpace) (s : State) : Out :=
  let g := s.cur.wg
  let w := s.cur.warp
  let sh := objNum o.c 0x10
  let reg := s.curWg.shape sh
  let img := reg.image
  let row0 := (s.uni o.b).toNat
  let live := s.active 0x287 o.g
  let act := s.activeH 0x287 o.g
  let sp := space.toBits
  let n := 4 * size.regs
  let seq (l : Nat) : Option Nat := img.seq (row0 + l)
  let first := seq ((lowestLane live).getD 0)
  let crosses := (lanesOf live).any fun l => seq l != first
  let addr := s.laneAddr o sp false
  if act = 0 then .next s.advance
  else if live ≠ 0 && !reg.bound then .next (s.trapAt 0x32 0 sh)
  else if crosses && (nocross || img.cross == 2) then .next (s.trapAt 0x30 0 (sh + img.gen.toNat * 2 ^ 32))
  else
    let fills (l : Nat) : Bool := crosses && img.cross == 1 && seq l != first
    let doing := (lanesOf live).filter fun l => !fills l
    let helpers := (lanesOf (act &&& ~~~live)).filter fun l => !fills l
    let loc (l : Nat) : Located := s.locate g w l sp 0 (addr l) n .read
    .next (s.gate (.ldseq o size nocross space) .read doing addr loc fun _ =>
      match s.lanesPoison n (placeOf loc) doing with
      | some pa => s.consumePoison g pa
      | none =>
        let (s2, vals) := s.readWith sp n addr (fun _ => 0) loc doing helpers
        let loaded := vals.flatMap fun p => (wordsOf size.regs p.2).mapIdx fun ix x => (p.1, o.d + ix, x)
        let filled := ((lanesOf act).filter fills).flatMap fun l => (List.range size.regs).map fun ix => (l, o.d + ix, img.fill)
        (s2.updCurWarp fun x => x.setVs (loaded ++ filled)).advance)

/-! ## PREFETCH and CCTL (R245) -/

/-- The line that a lane of PREFETCH or CCTL names, with its attributes: none where the address would fault. -/
def State.cacheLine (s : State) (o : Args) (space : CacheSpace) (l : Nat) : State × Option (Nat × PageAttr) :=
  match s.locateNow s.cur.wg s.cur.warp l space.toBits 0 (s.laneAddr o space.toBits true l) 1 .read with
  | (s1, some (.mem pa attr)) => (s1, if attr.stream then none else some (lineOf pa, attr))
  | (s1, _) => (s1, none)

/-- PREFETCH (R245): into L1, the core takes a copy of the line that each LIVE lane names. -/
def execPrefetch (o : Args) (lvl : PfLevel) (space : CacheSpace) (s : State) : Out :=
  .next ((lanesOf (s.active 0x288 o.g)).foldl (fun t l =>
    match State.cacheLine t o space l with
    | (t1, some (line, attr)) => if lvl = .l1 then t1.takeCopy s.curWg.core attr line else t1
    | (t1, none) => t1) s).advance

/-- A line leaves a core's L1 (R62, R63): its stores become part of an unpublished version, and its data is kept for the
core until its next acquire. -/
def Core.evictLine (c : Core) (line : Nat) : Core :=
  { c with copies := c.copies.map fun p => if p.1 = line then (p.1, { p.2 with inL1 := false }) else p,
           unpub := c.unpub.map fun h => if lineOf h.addr = line then { h with evicted := true } else h }

/-- The lines of stores that a core's L1 holds, of those that `p` selects, go to their home slices (R63, R404). -/
def State.crossEvicted (s : State) (core : Nat) (p : HeldStore → Bool) : State :=
  (heldLines ((s.core core).unpub.filter p)).foldl (fun t l => t.cross l.2 l.1 (t.slicePlain l.1)) s

/-- A line leaves a core's L1. -/
def State.evict (s : State) (core line : Nat) : State :=
  (s.crossEvicted core fun h => lineOf h.addr == line).updCore core fun c => c.evictLine line

/-- CCTL.EVICT (R245). -/
def execCctlEvict (o : Args) (space : CacheSpace) (s : State) : Out :=
  .next ((lanesOf (s.active 0x289 o.g)).foldl (fun t l =>
    match State.cacheLine t o space l with
    | (t1, some (line, _)) => t1.evict s.curWg.core line
    | (t1, none) => t1) s).advance
/-- CCTL.EVICTALL (R245). -/
def execCctlEvictall (o : Args) (s : State) : Out :=
  if !s.acts 0x289 o.g then .next s.advance
  else
    .next ((s.crossEvicted s.curWg.core fun h => h.wg == s.cur.wg).updCurCore fun c =>
      { c with copies := c.copies.map fun p => (p.1, { p.2 with inL1 := false }),
               unpub := c.unpub.map fun h => if h.wg = s.cur.wg then { h with evicted := true } else h }).advance

/-- L1_EVICTION (R61 to R63): a line is replaced from a core's L1. -/
def execL1Eviction (core line : Nat) (s : State) : Out := .next (s.evict core line)

/-! ## Page walks (R53 to R57, R386) -/

/-- Is the access still waiting for its walk? -/
def State.walkWaits (s : State) (r : WalkRef) : Bool :=
  let x := s.split r.wg r.warp r.split
  x.live && x.st == .wait && x.wait == .walk

/-- The access that waits for a walk is made again, once its warp does not stand still for a handler (R377). -/
def State.walkAgain (s : State) (r : WalkRef) : State :=
  s.updSplit r.wg r.warp r.split fun x =>
    if s.frozen r.wg r.warp r.split then { x with wait := .again } else { x.again with since := s.tick }

/-- The access that waits for a failed walk traps (R57, R373). -/
def State.walkFails (s : State) (r : WalkRef) (f : AccFault) : State :=
  if !s.walkWaits r then s
  else if s.frozen r.wg r.warp r.split then s.walkAgain r
  else (s.actAs r.wg r.warp r.split).accessTrap { f with addr := r.va } r.lane

/-- The access that waits for a completed walk is made again. -/
def State.walkDone (s : State) (r : WalkRef) (e : TlbEntry) : State :=
  if s.walkWaits r then (s.updCore r.core fun c => c.tlbFill e).walkAgain r else s

/-- An access in the order of the warps and splits that wait: where several trap at once, the lower WARPID does so first (R377). -/
def insertRef (r : WalkRef) : List WalkRef → List WalkRef
  | [] => [r]
  | x :: l => if r.warp * 4 + r.split < x.warp * 4 + x.split then r :: x :: l else x :: insertRef r l

/-- PAGE_WALK_COMPLETE (R53 to R57): the leaf is marked and the TLBs filled for the accesses that it permits; every other
access traps. The walks of the same page on the die are merged into it. A copy engine that waits with them makes its access again. -/
def execPageWalkComplete (ix : Nat) (s : State) : Out :=
  match s.walks[ix]? with
  | none => .next s
  | some w =>
    let t := s.walked w.ctx w.va
    match t.walk w.ctx w.va with
    | .bad level =>
      .next ((w.who.foldl (fun l r => insertRef r l) []).foldl (fun t r => t.walkFails r (transFault r.va level r.access))
        { t with walks := t.walks.eraseIdx ix })
    | .leaf p ea level bits =>
      let same (x : Walk) : Bool := x.ctx == w.ctx && x.die == w.die && x.va / 2 ^ bits == w.va / 2 ^ bits
      let who := ((t.walks.filter same).flatMap (·.who)).foldl (fun l r => insertRef r l) []
      let s0 : State := { t with walks := t.walks.filter fun x => !same x }
      let ok (r : WalkRef) : Bool := s0.permits p r.access && s0.walkWaits r
      let ports := ((t.walks.filter same).flatMap (·.ports)).filter fun x => s0.permits p x.2
      let writes := (who.any fun r => ok r && r.access.writes) || ports.any fun x => x.2.writes
      let (s1, q) := if who.any ok || !ports.isEmpty then s0.markLeaf ea p writes else (s0, p)
      let e : TlbEntry := { ctx := w.ctx, va := w.va / 2 ^ bits * 2 ^ bits, bits := bits, pte := q }
      let s2 := ports.foldl (fun t x => t.updCore x.1 fun c => c.tlbFill e) s1
      .next (who.foldl (fun t r =>
        if !s0.permits p r.access then t.walkFails r (permFault r.va level r.access) else t.walkDone r e) s2)

end Sys2Proof.Machine
end

