-- ==== Sys2Proof/Machine/Matrix.lean ====
section
/-! DEFINITION. Class 111: m registers, array instructions, windows, the matrix configuration, and the array's events (R268 to R294). -/
namespace Sys2Proof.Machine

/-! ## MLD (R271, R272) -/

/-- A row of an m register from tile row `t`, columns from `c0` (R272): data, exponents, and the bits of the map under
.NZ. Positions outside the tile's bounds are 0. -/
def State.loadRow (s : State) (g base : Nat) (slot : TileSlot) (t c0 : Nat) : MRow × BitVec 64 :=
  if isBfp slot.fmt then
    let grp (k : Nat) : Group :=
      if t < slot.rows && c0 / 32 + k < slot.cols / 32 then s.tileGroup g base slot t (c0 / 32 + k) else (0, 0, bfpM (slot.rowBand t))
    let a := grp 0
    let b := grp 1
    let nz (x : Group) : Nat :=
      if x.1 = 0 then 0 else if x.1 = 255 then 2 ^ 32 - 1
      else ((mantissas x.2.1 x.2.2).zipIdx.map fun p => if p.1 = 0 then 0 else 2 ^ p.2).foldl (· + ·) 0
    ({ exp := BitVec.ofNat 16 (a.1 + 256 * b.1), data := BitVec.ofNat 512 (a.2.1 + b.2.1 * 2 ^ (32 * a.2.2)) },
      BitVec.ofNat 64 (nz a + 2 ^ 32 * nz b))
  else
    let e := 8 * elemBytes slot.fmt
    let xs := (List.range (slabPositions slot.fmt)).map fun k =>
      if t < slot.rows && c0 + k < slot.cols then s.tileElem g base slot t (c0 + k) else 0
    ({ data := BitVec.ofNat 512 ((xs.zipIdx.map fun p => p.1 * 2 ^ (e * p.2)).foldl (· + ·) 0) },
      BitVec.ofNat 64 ((xs.zipIdx.map fun p => if nonZero slot.fmt p.1 then 2 ^ p.2 else 0).foldl (· + ·) 0))

/-- The m register that slab `n` of an MLD fills; `plane` is the offset of the .BM plane. -/
def State.loadSlab (s : State) (g base : Nat) (slot : TileSlot) (map : MapMode) (plane r0 c0 n gen : Nat) : MReg :=
  let width := slabPositions slot.fmt
  let rows := (List.range 128).map fun r =>
    let (row, nz) := s.loadRow g base slot (r0 + r) (c0 + n * width)
    (r, { row with map := (match map with
      | .dense => BitVec.allOnes 64
      | .nz => nz
      | .bm => BitVec.ofNat 64 (s.tileNum g (plane + 8 * (n * 128 + r)) 8)) &&& BitVec.ofNat 64 (2 ^ width - 1) })
  { gen := gen, rows := rows.filter fun p => p.2 != {},
    bands := BitVec.ofNat 16 (((List.range 4).map fun b => slot.rowBand (r0 + 32 * b) * 2 ^ (4 * b)).foldl (· + ·) 0) }

/-- The faults of the .BM plane of `n` rows at an offset (R44). -/
def Workgroup.planeFault (g : Workgroup) (off n : Nat) : Option AccFault :=
  if off + 8 > g.userBytes then some { code := 0x20, addr := off, data := 2 }
  else if off % 8 ≠ 0 then some { code := 0x21, addr := off, data := 2 }
  else if off + 8 * n > g.userBytes then some { code := 0x20, addr := off + (g.userBytes - off) / 8 * 8, data := 2 }
  else none

/-- MLD. -/
def execMld (o : Args) (q : Fin 8) (map : MapMode) (s : State) : Out :=
  let h := s.uni64 o.a
  let x := (s.uni o.b).toNat
  let c0 := x % 2 ^ 16
  let r0 := x / 2 ^ 16
  let slot := s.curWg.tile (handleSlot h)
  let base := handleBase h
  let plane := (s.uni o.c).toNat
  let n := q.val + 1
  if !s.acts 0x380 o.g then .next s.advance
  else if !isMatrixFmt slot.fmt || r0 % 32 ≠ 0 || r0 > 255 || c0 % slabPositions slot.fmt ≠ 0 then .next (s.illegalOperand 7)
  else if base ≥ s.curWg.userBytes then .next (s.trapAt 0x20 base 2)
  else
    match (if map = .bm then s.curWg.planeFault plane (n * 128) else none) with
    | some f => .next (s.trapAt f.code f.addr f.data)
    | none =>
      let load (w : Warp) (k : Nat) : Warp :=
        let old := sget (fun _ => ({} : MReg)) w.m (o.d + k)
        { w with m := sset (fun _ => {}) w.m (o.d + k) (s.loadSlab s.cur.wg base slot map plane r0 c0 k (old.gen + 1)) }
      .next ({ s.updCurWarp fun w => (List.range n).foldl load w with draws := s.draws + 1 }).advance

/-! ## Chains (R275, R276, R283, R285, R291) -/

/-- May a chain take the array of a core now (R283, R285)? -/
def State.arrayFree (s : State) (core : Nat) (paired : Bool) : Bool :=
  let c := s.core core
  c.chain.isNone && !c.lent && (!paired || (s.core (core + 1)).chain.isNone)

/-- The codes of a list of bands, each once, in rising order. -/
def codeSet (l : List Nat) : List Nat := (List.range 16).filter l.contains

/-- The codes of each band of A's rows, over the slabs (R276): four bands, or eight with .P. -/
def bandsA (q : Nat) (p : Bool) (regs : List MReg) : List (List Nat) :=
  (List.range (if p then 8 else 4)).map fun b =>
    codeSet ((List.range q).map fun k => (regs.getD (k + b / 4 * q) {}).band (b % 4))

/-- What the array instructions take from their operands at issue. -/
structure ArrayOps where
  handle : DWord
  slot : TileSlot
  regs : List MReg
  fmtA : List (List Nat)
  fmtB : List Nat
  /-- k4n to k4n + 3. -/
  block : List Word
  deriving DecidableEq, Repr

/-- The operands of an array instruction. -/
def State.arrayOps (s : State) (o : Args) (m : ArrayMods) : ArrayOps :=
  let h := s.uni64 o.b
  let slot := s.curWg.tile (handleSlot h)
  let q := m.q.val + 1
  let regs := (List.range (if m.p then 2 * q else q)).map fun k => sget (fun _ => ({} : MReg)) s.curWarp.m (regNum o.a + k)
  { handle := h, slot := slot, regs := regs,
    fmtA := bandsA q m.p regs, fmtB := (List.range 4).map slot.band,
    block := (List.range 4).map fun k => s.curWarp.getK (regNum o.c + k) }

/-- kb (R273). -/
def ArrayOps.kb (x : ArrayOps) : Nat := (x.block.getD 1 0).toNat % 2 ^ 16
/-- The shape register that HANDLE.SHAPE names. -/
def ArrayOps.shape (x : ArrayOps) : Nat := handleShape x.handle
/-- The position of the first m register with a band never loaded (R275, check 3). -/
def ArrayOps.unloaded (x : ArrayOps) : Option Nat := x.regs.findIdx? fun r => (List.range 4).any fun b => r.band b == 15

/-- The codes of all bands of A. -/
def ArrayOps.codesA (x : ArrayOps) : List Nat := codeSet x.fmtA.flatten
/-- Do the formats satisfy R274? -/
def ArrayOps.formats (x : ArrayOps) (path : ArrayPath) : Bool :=
  isMatrixFmt x.slot.fmt &&
    match path with
    | .float => (x.codesA == [x.slot.fmt] && x.slot.fmt ≤ 1)
        || ((x.codesA == [2] || x.codesA == [3]) && (x.slot.fmt == 2 || x.slot.fmt == 3))
    | .integer => x.codesA == [4] && x.slot.fmt == 4
    | .bfp => isBfp x.slot.fmt && x.codesA.all isBfp
/-- Positions that an instruction consumes (R273). -/
def ArrayOps.positions (x : ArrayOps) (m : ArrayMods) : Nat := (m.q.val + 1) * slabPositions x.slot.fmt
/-- Its k-steps: positions, or groups of 32 for MMAB (R277). -/
def ArrayOps.ksteps (x : ArrayOps) (path : ArrayPath) (m : ArrayMods) : Nat :=
  match path with
  | .bfp => 2 * (m.q.val + 1)
  | _ => x.positions m

/-- Is the instruction a continuation of the chain (R276)? -/
def ArrayOps.continues (x : ArrayOps) (c : Chain) (op window : Nat) (m : ArrayMods) : Bool :=
  c.op == op && c.window == window && c.mods.p == m.p && c.mods.sparse == m.sparse && c.mods.trap == m.trap
    && c.mods.grouped == m.grouped && c.counts == x.block.getD 0 0 && c.fmtA == x.fmtA && c.fmtB == x.fmtB

/-- The warp's chain that is open or suspended. -/
def State.openChain (s : State) (g w : Nat) : Option Chain := (s.chainsOf g w).find? fun h => h.openMore || h.suspended
/-- Does the issuing split continue the instruction of its suspended chain that stopped part-way (R293, R384)? -/
def State.resumes (s : State) : Bool :=
  match s.openChain s.cur.wg s.cur.warp with
  | some h => s.curSplit.stopped && h.suspended && (h.todo.head?.map (·.pc)) == some s.curSplit.pc
  | none => false

/-- The last window that an array instruction of the issuing split reaches (R119, R282). -/
def State.lastWindow (s : State) (path : ArrayPath) (o : Args) (m : ArrayMods) (x : ArrayOps) : Nat :=
  let open_ := s.openChain s.cur.wg s.cur.warp
  let k0 := match open_ with
    | some h => if s.resumes then h.steps - (h.todo.head?.map (·.done)).getD 0 else h.total
    | none => 0
  let cfg := (open_.map (·.cfg)).getD s.curWarp.mcfg
  o.d + if m.grouped then (k0 + x.ksteps path m - 1) / cfgD cfg else 0

/-- The checks of R275, in order. -/
def State.arrayCheck (s : State) (op : Nat) (path : ArrayPath) (o : Args) (m : ArrayMods) (x : ArrayOps) : Option AccFault :=
  let wg := s.curWg
  let open_ := s.openChain s.cur.wg s.cur.warp
  let resume := s.resumes
  let last := s.lastWindow path o m x
  let reg := wg.shape x.shape
  if m.p && !wg.paired then some { code := 0x06, addr := 0, data := 4 }
  else if !resume && (open_.any fun h => h.suspended || !x.continues h op o.d m) then
    some { code := 0x16, addr := 0, data := (open_.map (·.window)).getD 0 }
  else
    match x.unloaded with
    | some k => some { code := 0x16, addr := 0, data := regNum o.a + k }
    | none =>
      if !x.formats path then some { code := 0x06, addr := 0, data := 7 }
      else if x.kb % slabPositions x.slot.fmt ≠ 0 || x.kb + x.positions m > x.slot.cols then some { code := 0x06, addr := 0, data := 7 }
      else if handleBase x.handle ≥ wg.userBytes then some { code := 0x20, addr := handleBase x.handle, data := 2 }
      else if last ≥ wg.windows then some { code := 0x20, addr := max o.d wg.windows, data := 5 }
      else if m.seg && !reg.declared then some { code := 0x06, addr := 0, data := 7 }
      else if m.seg && !reg.bound then some (shapeUnbound x.shape)
      else none

/-- Valid rows or columns (R38, R132, R280). -/
def validCount (m : ArrayMods) (image : Option ShapeImage) (bound org given : Nat) : Nat :=
  min bound (match image, m.vs with
    | some i, true => if org ≥ i.rows then 0 else i.rows - org
    | _, _ => given)

/-- The array instruction that the issuing split adds to a chain (R273, R280, R289). -/
def State.arrayInstr (s : State) (path : ArrayPath) (m : ArrayMods) (x : ArrayOps) : ArrayInstr :=
  let image := if m.seg then some (s.curWg.shape x.shape).image else none
  let a := (x.block.getD 2 0).toNat
  let c := (x.block.getD 3 0).toNat
  let counts := (x.block.getD 0 0).toNat
  { pc := s.curSplit.pc, split := s.cur.split, a := x.regs, slot := x.slot, base := handleBase x.handle, kb := x.kb, mods := m,
    rows := validCount m image (if m.p then 256 else 128) a (counts / 2 ^ 16),
    cols := validCount m image 128 c (counts % 2 ^ 16),
    rowOrg := a, colOrg := c, image := image, steps := x.ksteps path m }

/-- The reuse latch of an array that an instruction with .REUSE uses (R289). -/
def State.latchReuse (s : State) (o : Args) (m : ArrayMods) (x : ArrayOps) : State :=
  let tag : ReuseTag := { wg := s.cur.wg, warp := s.cur.warp, a := regNum o.a, q := m.q.val + 1, gens := x.regs.map (·.gen) }
  let s1 := s.updCurCore fun c => { c with latch := some tag }
  if m.p then s1.updCore (s.curWg.core + 1) fun c => { c with latch := some tag } else s1

/-- The chain that an array instruction opens (R269, R276, R291). -/
def State.newChain (s : State) (op : Nat) (path : ArrayPath) (o : Args) (m : ArrayMods) (x : ArrayOps) (i : ArrayInstr) : Chain :=
  { wg := s.cur.wg, warp := s.cur.warp, path := path, op := op, cfg := s.curWarp.mcfg, window := o.d, mods := m,
    counts := x.block.getD 0 0, fmtA := x.fmtA, fmtB := x.fmtB, trapMode := m.trap, todo := [i], openMore := m.more,
    masked := if m.seg then i.maskedOut else [], maskv := (i.image.map (·.maskv)).getD 1 }

/-- The chains of the issuing warp changed, wherever they are. -/
def State.updChains (s : State) (f : Chain → Chain) : State :=
  let mine (c : Chain) : Chain := if c.wg = s.cur.wg && c.warp = s.cur.warp then f c else c
  s.updCurCore fun k => { k with chain := k.chain.map mine, queue := k.queue.map mine }

/-- The warp's chain on its core replaced. -/
def State.setChain (s : State) (core : Nat) (c : Chain) : State := s.updCore core fun k => { k with chain := some c }

/-- A chain that an instruction continues (R276); the values of R132 are those of its last instruction with .SEG (log entry 53). -/
def Chain.extend (h : Chain) (m : ArrayMods) (i : ArrayInstr) : Chain :=
  let c : Chain := { h with todo := h.todo ++ [i], openMore := m.more }
  if m.seg then { c with masked := i.maskedOut, maskv := (i.image.map (·.maskv)).getD 1 } else c

/-- An array instruction at issue (R144, R275, R276, R283): the checks of R275 come before the guard (Check order, after R300). Under .TRAP the
split waits until it has performed, so that a trap of it is precise (R117). -/
def State.arrayIssue (s : State) (ins : Instr) (op : Nat) (path : ArrayPath) (o : Args) (m : ArrayMods) : State :=
  let x := s.arrayOps o m
  let core := s.curWg.core
  match s.arrayCheck op path o m x with
  | some f => s.trapAt f.code f.addr f.data
  | none =>
    if !s.acts op o.g then s.advance
    else
      let go (t : State) (wait : Bool) : State := if wait then t.waitIn ins .perform else t.advance
      if s.resumes then
        let head (l : List ArrayInstr) : List ArrayInstr := l.mapIdx fun n i => { i with waits := i.waits || n == 0 }
        (s.updChains fun h => { h with suspended := false, todo := head h.todo }).waitIn ins .perform |>.updCur fun y => { y with stopped := false }
      else
        let i := s.arrayInstr path m x
        let s1 := if o.cs then s.latchReuse o m x else s
        match s.openChain s.cur.wg s.cur.warp with
        | some h => go (s1.updChains fun c => c.extend m { i with waits := h.trapMode }) h.trapMode
        | none =>
          let c := s.newChain op path o m x { i with waits := m.trap }
          if s.arrayFree core m.p && (s.core core).queue.isEmpty then go ((s1.setChain core c).relend core) m.trap
          else (s1.updCore core fun k => { k with queue := k.queue ++ [c] }).relend core |>.waitIn ins .perform

/-- MMA. -/
def execMma (o : Args) (m : ArrayMods) (s : State) : Out := .next (s.arrayIssue (.mma o m) 0x381 .float o m)
/-- MMAI. -/
def execMmai (o : Args) (m : ArrayMods) (s : State) : Out := .next (s.arrayIssue (.mmai o m) 0x382 .integer o m)
/-- MMAB. -/
def execMmab (o : Args) (m : ArrayMods) (s : State) : Out := .next (s.arrayIssue (.mmab o m) 0x383 .bfp o m)

/-- A split that waits for its array instruction goes on. -/
def State.arrayGoes (s : State) (g w n : Nat) : State :=
  let x := s.split g w n
  if x.live && x.st == .wait && x.wait == .perform then s.updSplit g w n fun y => { y.advance with since := s.tick } else s

/-- ARRAY_GRANT (R283, R285): the chain that has waited longest takes the array; one whose split is debug-held does not wait (R425). -/
def execArrayGrant (core : Nat) (s : State) : Out :=
  match (s.core core).queue.find? fun c => !c.held with
  | none => .next s
  | some c =>
    if !s.arrayFree core c.mods.p then .next s
    else
      let s1 := (s.updCore core fun k =>
        { k with chain := some { c with stash := [] }, spill := c.stash, queue := k.queue.erase c }).relend core
      if c.todo.head?.any (·.waits) then .next s1 else .next (s1.arrayGoes c.wg c.warp ((c.todo.head?.map (·.split)).getD 0))

/-- PROGRESS of an array instruction stopped part-way (R293). -/
def Chain.progress (c : Chain) : DWord :=
  BitVec.ofNat 64 (7 * 2 ^ 60 + (c.todo.head?.map (·.done)).getD 0 % 2 ^ 16 * 2 ^ 32 + c.steps % 2 ^ 32)

/-- The spillway-full trap (R117): the chain is suspended before its clock, and its split traps. -/
def State.spillwayFull (s : State) (core : Nat) (c : Chain) (i : ArrayInstr) : State :=
  let s1 := (s.setChain core { c with suspended := true }).updWarp c.wg c.warp fun w => { w with progress := c.progress }
  let x := s1.split c.wg c.warp i.split
  (s1.trapSplit c.wg c.warp i.split 0x40 c.progress.toNat (s.core core).spill.length (x.pc, x.seq) x.slotWords).updSplit
    c.wg c.warp i.split fun y => { y with stopped := true }

/-- ARRAY_CLOCK (R277, R278): one clock of the instruction that the chain performs. -/
def execArrayClock (core : Nat) (s : State) : Out :=
  match (s.core core).chain with
  | none => .next s
  | some c =>
    match c.todo with
    | [] => .next s
    | i :: rest =>
      if c.suspended || c.held || i.done ≥ i.steps then .next s
      else
        match s.clock c i rest with
        | some (s1, c1) => .next { s1.setChain core c1 with draws := s.draws + 1 }
        | none => .next (s.spillwayFull core c i)

/-- ARRAY_RETIRE (R112, R283, R294): the instruction that has performed its k-steps sets its flags; a chain without a
further instruction ends, and its arrays are free. -/
def execArrayRetire (core : Nat) (s : State) : Out :=
  match (s.core core).chain with
  | none => .next s
  | some c =>
    let performed := c.todo.head?.any fun i => i.done ≥ i.steps
    let rest := c.todo.drop 1
    if c.suspended || c.held || !(performed || (c.todo.isEmpty && !c.openMore)) then .next s
    else
      let ends := rest.isEmpty && !c.openMore
      let (s1, c1) := if ends then s.finishChain { c with todo := rest } else (s, { c with todo := rest })
      let s2 := s1.updWarp c.wg c.warp fun w => { w.raise c1.flags with progress := 0 }
      let s3 := if ends then (s2.freeArrays core c.mods.p).relend core else s2.setChain core { c1 with flags := 0 }
      match c.todo.head? with
      | some i => .next (if i.waits then s3.arrayGoes c.wg c.warp i.split else s3)
      | none => .next s3

/-! ## MDRAIN, MZERO, MPROMO (R286 to R288) -/

/-- MDRAIN. -/
def execMdrain (o : Args) (stall : Bool) (s : State) : Out :=
  let core := s.curWg.core
  if !s.acts 0x384 o.g then .next s.advance
  else if s.arrayRuns s.cur.wg s.cur.warp then .next (s.waitIn (.mdrain o stall) .array)
  else
    match (s.core core).chain with
    | some c =>
      if c.wg = s.cur.wg && c.warp = s.cur.warp then
        let (s1, c1) := s.drainChain c
        .next (s1.setChain core (if stall then { c1 with trapMode := false } else c1)).advance
      else .next s.advance
    | none => .next s.advance

/-- The entry of .I2P (R288). -/
def entryI2P (e : Entry) : Entry :=
  let v := e.toInt
  let h := (fp32.round {} (decide (v < 0)) v.natAbs 0 false).1
  let r := addExact (.fin (decide (v < 0)) v.natAbs 0) (fp32.value false h).negate
  BitVec.ofNat 64 (h + 2 ^ 32 * (fp32.roundVal {} r).1)
/-- The entry of .P2I, and flags. -/
def entryP2I (e : Entry) : Entry × Flags :=
  let h := fp32.value false (e.extractLsb' 0 32).toNat
  let t := fp32.value false (e.extractLsb' 32 32).toNat
  let top : Int := (2 ^ 63 : Nat)
  if h.isNan || t.isNan then (BitVec.ofInt 64 (-top), flagInvalid)
  else
    match sumVals .rne [h, t] with
    | none => (BitVec.ofInt 64 (-top), flagInvalid)
    | some (.fin neg m k) =>
      let y := (roundInt .rne neg m k).1
      let z := clampInt y (-top) (top - 1)
      (BitVec.ofInt 64 z, if z = y then 0 else flagInvalid)
    | some x => (BitVec.ofInt 64 (if x.neg then -top else top - 1), flagInvalid)

/-- The first failing window of MZERO and MPROMO (R287), if one fails; `w` itself where n is out of range. -/
def Workgroup.windowFault (g : Workgroup) (w n : Nat) : Option AccFault :=
  if n = 0 || n > 64 then some { code := 0x20, addr := w, data := 5 }
  else if w + n > g.windows then some { code := 0x20, addr := max w g.windows, data := 5 }
  else none

/-- MZERO and MPROMO at issue (R287, R288): the checks, the wait for the warp's own array instructions, and the act. -/
def State.onWindows (s : State) (ins : Instr) (op : Nat) (o : Args) (p : Bool) (act : Nat → Nat → State) : State :=
  let n := (s.uni o.a).toNat
  if !s.acts op o.g then s.advance
  else if p && !s.curWg.paired then s.illegalOperand 4
  else
    match s.curWg.windowFault o.d n with
    | some f => s.trapAt f.code f.addr f.data
    | none => if s.windowBusy s.cur.wg s.cur.warp o.d n then s.waitIn ins .array else (act o.d n).advance

/-- MZERO. -/
def execMzero (o : Args) (p : Bool) (s : State) : Out :=
  .next (s.onWindows (.mzero o p) 0x385 o p fun w n =>
    (List.range n).foldl (fun t k => t.zeroWindow s.cur.wg (w + k) p) s)

/-- The entries of windows `w` to `w + n − 1` of a core rewritten; entries that an unlisted one reads as stay so. -/
def Core.mapWindows (c : Core) (lo hi : Nat) (f : Entry → Entry) : Core :=
  { c with acc := (c.acc.map fun p => if lo ≤ p.1 && p.1 < hi then (p.1, f p.2) else p).filter fun p => p.2 != 0 }

/-- MPROMO (R288). Both modes leave an entry of zero bits as it is. -/
def State.mpromo (s : State) (p : Bool) (w n : Nat) (f : Entry → Entry × Flags) : State :=
  let g := s.curWg
  let lo := (g.window + w) * Config.windowEntries
  let hi := lo + n * Config.windowEntries
  let cores := if p then [g.core, g.core + 1] else [g.core]
  let flags := orFlags (cores.flatMap fun k =>
    ((s.core k).acc.filter fun e => lo ≤ e.1 && e.1 < hi).map fun e => (f e.2).2)
  (cores.foldl (fun t k => t.updCore k fun c => c.mapWindows lo hi fun e => (f e).1) s).updCurWarp fun x => x.raise flags

/-- MPROMO.I2P. -/
def execMpromoI2P (o : Args) (p : Bool) (s : State) : Out :=
  .next (s.onWindows (.mpromoI2P o p) 0x386 o p fun w n => s.mpromo p w n fun e => (entryI2P e, 0))
/-- MPROMO.P2I. -/
def execMpromoP2I (o : Args) (p : Bool) (s : State) : Out :=
  .next (s.onWindows (.mpromoP2I o p) 0x386 o p fun w n => s.mpromo p w n entryP2I)

/-! ## MCFG, MSTAT, MREL (R289 to R292) -/

/-- Is a matrix configuration legal (R290)? -/
def mcfgOk (x : Word) : Bool :=
  let l := cfgL x
  let d := x.toNat / 2 ^ 13 % 2 ^ 7
  let p := x.toNat / 2 ^ 7 % 2 ^ 6
  1 ≤ l && l ≤ 2048 && 1 ≤ d && d ≤ 64 && 1 ≤ p && p ≤ 32 && x.toNat % 2 ^ 7 == 0

/-- MCFG. -/
def execMcfg (o : Args) (s : State) : Out :=
  let x := s.uni o.a
  if !s.acts 0x387 o.g then .next s.advance
  else if !mcfgOk x then .next (s.illegalOperand 7)
  else .next (s.updCurWarp fun w => { w with mcfg := x }).advance

/-- An item of MSTAT (R292), where there is one. -/
def State.mstatItem (s : State) (n : Nat) : Option Word :=
  let ch := s.warpChain s.cur.wg s.cur.warp
  let spill := s.chainSpill s.cur.wg s.cur.warp
  let bit (b : Bool) (k : Nat) : Nat := if b then 2 ^ k else 0
  match n with
  | 0 => some s.curWarp.mcfg
  | 1 => some (BitVec.ofNat 32 ((ch.map fun c => 1 + bit c.suspended 1 + bit c.mods.p 2 + bit c.trapMode 3 + bit c.mods.grouped 4).getD 0))
  | 2 => some (BitVec.ofNat 32 ((ch.map (·.steps)).getD 0))
  | 3 => some (BitVec.ofNat 32 (if ch.isSome then spill.length else 0))
  | n =>
    if 0x1000 ≤ n && n ≤ 0x17FF then
      some (if ch.isSome then (sget (fun _ => 0) spill (n - 0x1000)).setWidth 32 else 0)
    else none

/-- MSTAT. -/
def execMstat (o : Args) (s : State) : Out :=
  if !s.acts 0x388 o.g then .next s.advance
  else
    match s.mstatItem (s.uni o.a).toNat with
    | some x => .next (s.updCurWarp fun w => w.setK o.d x).advance
    | none => .next (s.illegalOperand 7)

/-- MREL (R289). -/
def execMrel (o : Args) (tb : Bool) (s : State) : Out :=
  let off := handleBar (s.uni64 o.a)
  let bar := if tb then some (off, (s.tbar s.cur.wg off).phase) else none
  if !s.acts 0x389 o.g then .next s.advance
  else
    match (if tb then s.curWg.tbFault off else none) with
    | some f => .next (s.trapAt f.code f.addr f.data)
    | none =>
      if s.arrayBusy s.cur.wg s.cur.warp then
        .next (s.waitIn (.mrel o tb) (match bar with | some (b, p) => .tb b p | none => .array))
      else .next (s.mrelDone bar)

end Sys2Proof.Machine
end

