-- ==== Sys2Proof/Machine/Retired.lean ====
section
/-! DEFINITION. The retired opcodes: the trap to emulation, and the emulated effects (R23, R166, R325 to R327, R376). -/
namespace Sys2Proof.Machine

/-! ## The trap (R23, check 5; R326) -/

/-- The guard of a slot. -/
def rawGuard (r : Raw) : Guard :=
  { gfile := gfileClass r.op && bitAt r.mod 6 && !(isInwField r.a || isInwField r.b || isInwField r.c),
    idx := fin8 r.gidx, neg := r.gneg == 1 }

/-- A retired opcode traps to the firmware's handler, with its next PC as the resume PC (R326, R373). In a kernel's handler
the split keeps that handler, and the emulation comes before every other handler (log entry 19). The trap is precise (R4). -/
def State.trapEmulation (s : State) (i : Instr) (words : Slot) : State :=
  let x := s.curSplit
  let y := x.advance
  let op := (Raw.ofSlot words).op
  let g := rawGuard (Raw.ofSlot words)
  let act := s.activeH op g
  let e : Emu := { instr := i, pc := x.pc, active := act, helpers := act &&& ~~~x.mask, mode := s.curWarp.mode, loops := x.loops }
  let r := s.splitRecord s.cur.wg s.cur.warp s.cur.split 5 x.pc.toNat 0 y.pc words
  let s1 := s.traceEvent s.cur.wg s.cur.warp s.cur.split 4 3 5
  let s2 := s1.updCur fun z =>
    { z with st := .inTrap, pc := y.pc, seq := y.seq, loops := y.loops, pend := none, wait := .nothing, since := s.tick,
             emu := some e, resume := if z.handler then z.resume else y.pc,
             resumeSeq := if z.handler then z.resumeSeq else y.seq, trap := if z.handler then z.trap else some r }
  let me := (s.cur.warp, s.cur.split)
  s.afterArray <| s2.updCurWg fun w => { w with trapQueue := if x.handler then me :: w.trapQueue else w.trapQueue ++ [me] }

/-- SYNCW. -/
def execSyncw (raw : RawSlot) (s : State) : Out := .next (s.trapEmulation (.syncw raw) raw.words)
/-- IMAD24. -/
def execImad24 (raw : RawSlot) (s : State) : Out := .next (s.trapEmulation (.imad24 raw) raw.words)
/-- FMAD16. -/
def execFmad16 (raw : RawSlot) (s : State) : Out := .next (s.trapEmulation (.fmad16 raw) raw.words)
/-- LOGE. -/
def execLoge (raw : RawSlot) (s : State) : Out := .next (s.trapEmulation (.loge raw) raw.words)
/-- LDV. -/
def execLdv (raw : RawSlot) (s : State) : Out := .next (s.trapEmulation (.ldv raw) raw.words)
/-- MMA4. -/
def execMma4 (raw : RawSlot) (s : State) : Out := .next (s.trapEmulation (.mma4 raw) raw.words)

/-! ## The emulated effects (R325) -/

/-- The fields of a retired opcode as those of the opcode whose form it has (R325): SYNCW's of FENCE.WARP, IMAD24's of IMAD,
FMAD16's of HFMA2, LOGE's of LG2, LDV's of LD.128 in the global space, MMA4's of MMA.Q4. None where a modifier that the form
does not name is not zero. -/
def rawModern (r : Raw) : Option Raw :=
  let inw := isInwField r.a || isInwField r.b || isInwField r.c
  let m := if gfileClass r.op then r.mod % 1024 - (if bitAt r.mod 6 then 64 else 0) else r.mod % 1024
  let form (op ok add : Nat) : Option Raw :=
    if inw then some { r with op := op }
    else if m % (ok + 1) = m && m &&& ok = m then some { r with op := op, mod := r.mod + add } else none
  match r.op with
  | 0x030 => form 0x022 0 0
  | 0x140 => if inw || m = 0 || m = 128 then some { r with op := 0x104 } else none
  | 0x1C0 => form 0x18A 63 0
  | 0x240 => form 0x204 63 0
  | 0x2C0 => form 0x280 0 (6 * 128)
  | 0x3C0 => if m < 128 then some { r with op := 0x381, mod := r.mod + 3 * 128 } else none
  | _ => none

/-- The field of a retired form that fails where its modern one would not (R325): LDV's base is a v pair only, SYNCW has no yield hint. -/
def retiredField (r : Raw) : Option Nat :=
  match r.op with
  | 0x2C0 => if (readSrc (.of { v := 2 }) 0 r.a 0 0 none).isNone then some 1 else none
  | 0x030 => if r.cs ≠ 0 then some 5 else none
  | _ => none

/-- The low 24 bits of a word, extended (R325). -/
def low24 (u : Bool) (x : Word) : Int :=
  let y := x.extractLsb' 0 24
  if u then y.toNat else y.toInt

/-- A half of FMAD16: two roundings, with the flags of both. -/
def fmadHalf (md : FMode) (a b c : FVal) : Nat × Flags :=
  let p := fp16.mul md a b
  let q := fp16.add md (fp16.value md.ftz p.1) c
  (q.1, p.2 ||| q.2)

/-- The walks of the lanes of an emulated load, each in one act, in lane order (log entry 9): the first fault and its lane. -/
def State.walkLanes (s : State) (addr : Nat → Nat) (n : Nat) : List Nat → State × Option (AccFault × Nat)
  | [] => (s, none)
  | l :: r =>
    match s.locate s.cur.wg s.cur.warp l 0 0 (addr l) n .read with
    | .ok _ => State.walkLanes s addr n r
    | .fault f => (s, some (f, l))
    | .miss =>
      let wg := s.curWg
      match s.walk wg.ctx (addr l % 2 ^ 57) with
      | .bad level => (s, some (transFault (addr l) level .read, l))
      | .leaf p ea level bits =>
        if !s.permits p .read then (s, some (permFault (addr l) level .read, l))
        else
          let (s1, q) := s.markLeaf ea p false
          let s2 := s1.updCore wg.core fun c => c.tlbFill { ctx := wg.ctx, va := addr l % 2 ^ 57 / 2 ^ bits * 2 ^ bits, bits := bits, pte := q }
          match s2.locate s.cur.wg s.cur.warp l 0 0 (addr l) n .read with
          | .ok _ => State.walkLanes s2 addr n r
          | .fault f => (s2, some (f, l))
          | .miss => (s2, some (transFault (addr l) level .read, l))

/-- LDV's access on the lanes of the emulated instruction. -/
def State.emuLoad (s : State) (e : Emu) (o : Args) : State :=
  let live := lanesOf (e.active &&& ~~~e.helpers)
  let addr := s.laneAddr o 0 true
  match s.walkLanes addr 16 live with
  | (s1, some (f, l)) => s1.accessTrap f l
  | (s1, none) => s1.loadOn e.instr live (lanesOf (e.active &&& e.helpers)) o.d 0 16 addr (fun _ => 0) (wordsOf 4)

/-- The effect of a retired opcode whose fields decode as instruction `i` (R325). -/
def State.emuEffect (s : State) (e : Emu) (i : Instr) : State :=
  let live := e.active &&& ~~~e.helpers
  match e.instr, i with
  | .syncw _, .fence _ scope => (s.fenceCur scope).advance
  | .imad24 _, .imad o u _ =>
    s.perLaneOn e.active live o.d (Src.vregs o.a 1 ++ Src.vregs o.b 1 ++ Src.vregs o.c 1) fun l =>
      ([BitVec.ofInt 32 (low24 u (s.opnd .int o.a l) * low24 u (s.opnd .int o.b l) + (s.opnd .int o.c l).toInt)], 0)
  | .fmad16 _, .hfma2 o _ r =>
    let md := s.fmode r
    s.perLaneOn e.active live o.d (Src.vregs o.a 1 ++ Src.vregs o.b 1 ++ Src.vregs o.c 1) fun l =>
      let f (h : Nat) : Nat × Flags := fmadHalf md (s.half fp16 md o.a l h) (s.half fp16 md o.b l h) (s.half fp16 md o.c l h)
      ([BitVec.ofNat 32 ((f 0).1 + (f 1).1 * 2 ^ 16)], (f 0).2 ||| (f 1).2)
  | .loge _, .lg2 o r =>
    let md := s.fmode r
    s.perLaneOn e.active live o.d (Src.vregs o.a 1) fun l =>
      let x := specialFn .ln md (s.f32 md o.a l)
      ([BitVec.ofNat 32 x.1], x.2)
  | .ldv _, .ld o _ _ => s.emuLoad e o
  | .mma4 _, .mma o m => s.arrayIssue e.instr 0x381 .float { o with g := Guard.always } m
  | _, _ => s.advance

/-- The words and the carrier of a retired instruction. -/
def rawSlotOf : Instr → RawSlot
  | .syncw r => r
  | .imad24 r => r
  | .fmad16 r => r
  | .loge r => r
  | .ldv r => r
  | .mma4 r => r
  | _ => { words := 0, carrier := none }

/-- The emulation handler (R326, R327), as one act: the retired form executes once at its own PC, with ARITH.MODE as at its
issue; an empty ACTIVE set has no effect; a field that the form does not name and that is not zero is an illegal operand
there. The split then goes on at its resume PC. -/
def State.emulate (s : State) (g w n : Nat) (e : Emu) : State :=
  let x := s.split g w n
  let go (t : State) : State :=
    t.updSplit g w n fun y =>
      let (pc, seq) := if x.handler then (x.pc, x.seq) else (x.resume, x.resumeSeq)
      match y.st with
      | .run => { y.goTo pc seq with since := s.tick }
      | .held => { y with pc := pc, seq := seq, since := s.tick }
      | _ => y
  let s1 := (s.actAs g w n).updSplit g w n fun y =>
    { y with st := .run, pc := e.pc, seq := false, loops := e.loops, emu := none, trap := if y.handler then y.trap else none }
  let back (t : State) : State := (go t).updWarp g w fun y => { y with mode := (s.warp g w).mode }
  let s2 := s1.updWarp g w fun y => { y with mode := e.mode }
  let r := Raw.ofSlot (rawSlotOf e.instr).words
  if e.active = 0 then go (s1.updSplit g w n fun y => { y with loops := x.loops })
  else
    match rawModern r with
    | none => back (s2.illegalOperand 4)
    | some m =>
      match decodeFields (s.decodeCtx g w n) m (rawSlotOf e.instr).carrier, retiredField r with
      | .err (.operand f), k => back (s2.illegalOperand (min f (k.getD f)))
      | .err _, _ => back (s2.illegalOperand 7)
      | .ok _, some f => back (s2.illegalOperand f)
      | .ok i, none => back (s2.emuEffect e i)

end Sys2Proof.Machine
end

