-- ==== Sys2Proof/Machine/Copy.lean ====
section
/-! DEFINITION. Class 110: copy commands at acceptance, and the engine's queue (R246, R255 to R263). -/
namespace Sys2Proof.Machine

/-! ## Acceptance (R246, R255) -/

/-- What the checks of a command at acceptance give: a trap, poison that a read consumed, or the command, without its number,
with the tile slot that it writes. -/
inductive Accept where
  | trap (code addr data : Nat)
  | poison (pa : Nat)
  /-- A read of it waits for a walk that is under way (R57). -/
  | walk (va : Nat)
  | ok (c : Cmd) (slot : Option (Nat × TileSlot))

/-- A trap for an operand of acceptance (R255, check 1). -/
def Accept.illegal : Accept := .trap 0x06 0 7
/-- A trap for a fault. -/
def Accept.ofFault (f : AccFault) : Accept := .trap f.code f.addr f.data

/-- The eight words of a command block (R250). -/
def State.block (s : State) (x : Src) : List Word := (List.range 8).map fun i => s.curWarp.getK (regNum x + i)
/-- Word `i` of a block. -/
def blk (b : List Word) (i : Nat) : Word := b.getD i 0
/-- A tile handle of a block. -/
def blkHandle (b : List Word) : DWord := blk b 1 ++ blk b 0
/-- The row and column bounds of a block, where they are in range (R250). -/
def blkBounds (b : List Word) : Option (Nat × Nat) :=
  let x := (blk b 7).toNat
  let rows := x % 2 ^ 9
  let cols := x / 2 ^ 16 % 2 ^ 13
  if x / 2 ^ 29 = 0 && x / 2 ^ 9 % 2 ^ 7 = 0 && 1 ≤ rows && rows ≤ 256 && 1 ≤ cols && cols ≤ 4096 then some (rows, cols) else none
/-- The valid rows and columns, no more than the bounds (R38). -/
def blkValid (b : List Word) (rows cols : Nat) : Nat × Nat :=
  (min ((blk b 6).toNat / 2 ^ 16) rows, min ((blk b 6).toNat % 2 ^ 16) cols)

/-- The record that a layout operand names (R248, R256), with its location. -/
def State.layoutRecord (s : State) (x : Src) : (Layout × Nat) ⊕ AccFault :=
  let g := s.curWg
  match x with
  | .bank c off =>
    .inl (BitVec.ofNat 512 ((List.range 16).foldl (fun a i =>
      a + (s.bankWord s.cur.wg c.val (off.toNat + i)).toNat * 2 ^ (32 * i)) 0), 4 * off.toNat)
  | _ =>
    let off := (s.uni x).toNat
    match checkRange 2 g.userBytes off 64 (.sp 0 0) with
    | .fault f => .inr f
    | _ => .inl (BitVec.ofNat 512 (ofBytes ((s.core g.core).spRead (g.user + off) 64)), off)

/-- Checks 3 and 4 of R255 on a tile and its barrier; the barrier's phase. -/
def State.tileChecks (s : State) (h : DWord) (t : TileSlot) : Nat ⊕ Accept :=
  let g := s.curWg
  let bar := handleBar h
  if handleBase h + t.footprint > g.userBytes then .inr (.trap 0x20 (handleBase h) 2)
  else if bar + 16 > g.userBytes then .inr (.trap 0x20 bar 2)
  else if !(s.tbar s.cur.wg bar).live then .inr (.trap 0x16 0 bar)
  else .inl (s.tbar s.cur.wg bar).phase

/-- The band codes of tensor bands, as the command reads them (R108, R249); a bad entry is a layout-record fault, and a fault of a read a
precise trap with the fault's own code (DESIGN CHOICE, log entry 17). -/
def State.readBands (s : State) (l : Layout) (loc : Nat) : List Nat → State × (List (Nat × Nat) ⊕ Accept)
  | [] => (s, .inl [])
  | b :: r =>
    match s.engByte s.cur.wg l.space ((l.bandTable + b) % 2 ^ 64) none with
    | (s1, _, .ok x) =>
      if !isBfp x.toNat then (s1, .inr (.trap 0x33 loc 0))
      else
        match State.readBands s1 l loc r with
        | (s2, .inl rest) => (s2, .inl ((b, x.toNat) :: rest))
        | (s2, .inr e) => (s2, .inr e)
    | (s1, _, .fault f) => (s1, .inr (.ofFault f))
    | (s1, _, .poison pa) => (s1, .inr (.poison pa))
    | (s1, _, .miss) => ({ s1 with compcnt := s.compcnt }, .inr (.walk ((l.bandTable + b) % 2 ^ 64)))

/-- The tensor bands that the rows below the valid count come from, with their tile blocks. -/
def bandsUsed (rows : List TileRow) : List (Nat × Nat) :=
  (rows.zipIdx.filterMap fun p => match p.1 with
    | .row r _ => some (p.2 / 32, r / 32)
    | _ => none).eraseDups

/-- Every block of 32 tile rows comes from one tensor band (R251). -/
def oneBand (used : List (Nat × Nat)) : Bool := used.all fun p => used.all fun q => p.1 != q.1 || p.2 == q.2

/-- The codes that a slot records (R247, R251): LAYOUT.FMT, or the code of the band that each block's rows come from; a free one where the
rows have no index, or none is fetched (log entry 17). -/
def slotBands (l : Layout) (used bands : List (Nat × Nat)) (draws : Nat) : BitVec 32 :=
  bandsOf fun b =>
    if l.bandTable = 0 then l.fmt
    else
      match used.find? fun p => p.1 == b with
      | some p => ((bands.find? fun q => q.1 == p.2).map (·.2)).getD 8
      | none => 8 + (Config.freeBand (draws * 8 + b)).val

/-- A bit set of the rows that satisfy a test. -/
def rowMask (rows : List TileRow) (f : TileRow → Bool) : BitVec 256 :=
  BitVec.ofNat 256 (rows.zipIdx.foldl (fun x p => if f p.1 then x + 2 ^ p.2 else x) 0)
/-- The row mask of R247: rows that are fetched. -/
def fetched : TileRow → Bool
  | .row _ _ => true
  | .at _ => true
  | _ => false

/-- A tile command at acceptance (R255, R257, R258): `perLane` gives the row of each tile row where the command replaces it
(R258), from the snapshot under .SH. -/
def State.acceptTile (s : State) (kind : CmdKind) (o : Args) (m : CmdMods)
    (perLane : Option (Layout → Option ShapeImage → Nat → TileRow)) : State × Accept :=
  let g := s.curWg
  let b := s.block o.b
  let h := blkHandle b
  match blkBounds b with
  | none => (s, .illegal)
  | some (rows, cols) =>
    if perLane.isSome && rows > s.curWarp.width then (s, .illegal)
    else
      match s.layoutRecord o.a with
      | .inr f => (s, .ofFault f)
      | .inl (l, loc) =>
        if !l.ok then (s, .trap 0x33 loc 0)
        else
          let reg := g.shape (handleShape h)
          let (vr, vc) := blkValid b rows cols
          let i1 : Int := (blk b 3).toInt
          let img : Option ShapeImage := if m.sh then some reg.image else none
          let rowOf (t : Nat) : TileRow :=
            match perLane with
            | some f => f l img t
            | none =>
              if m.sh then
                (if m.seq then seqRow reg.image (blk b 4).toNat ((blk b 3).toNat + t) else packedRow reg.image (i1 + t))
              else denseRow l (i1 + t)
          let rowList := (List.range vr).map rowOf
          let store := kind == .tstore || kind == .tscatter
          let old := (g.tile (handleSlot h)).mask
          let used := bandsUsed (if store then rowList.mapIdx fun t r => if old.getLsbD t then r else .skip else rowList)
          let (s1, got) := if l.bandTable = 0 || (m.sh && !reg.bound) then (s, .inl [])
            else s.readBands l loc (used.map (·.2)).eraseDups
          match got with
          | .inr e => (s1, e)
          | .inl bands =>
            let tile : TileSlot :=
              { fmt := if l.bandTable = 0 then l.fmt else 14, bands := slotBands l used bands s.draws, cols := cols, rows := rows,
                mask := if store then old else rowMask rowList fetched }
            match s1.tileChecks h tile with
            | .inr e => (s1, e)
            | .inl phase =>
              if m.sh && !reg.declared then (s1, .illegal)
              else if m.sh && !reg.bound then (s1, .trap 0x32 0 (handleShape h))
              else if m.sh && l.dims ≠ 2 then (s1, .illegal)
              else if m.seq && !m.sh then (s1, .trap 0x06 0 4)
              else if l.bfp && (cols % 32 ≠ 0 || vc % 32 ≠ 0 || (blk b 2).toNat % 32 ≠ 0 || !(l.bandTable == 0 || oneBand used)) then
                (s1, .illegal)
              else
                let inside (d i : Nat) : Bool := m.sh || l.inside d (blk b i).toInt
                let x : Region :=
                  { lay := l, tile := tile, base := handleBase h, i0 := (blk b 2).toInt, i2 := if m.sh then 0 else l.clamp 2 (blk b 4).toInt,
                    i3 := if m.sh then 0 else l.clamp 3 (blk b 5).toInt, inside23 := inside 2 4 && inside 3 5, rows := rowList, vc := vc,
                    fill := img.map (·.fill), bands := bands }
                let todo := if store then plainWorks l.space (x.writes tile.mask) else sectorWorks (x.reads s.draws)
                let c : Cmd :=
                  { kind := kind, wg := s.cur.wg, warp := s.cur.warp, pc := s.curSplit.pc, ctx := g.ctx, number := 0, handle := h,
                    block := b, bar := some (handleBar h), phase := phase, sectors := if store then 0 else todo.length, todo := todo,
                    crc := if m.crc then some (s.uni o.c) else none,
                    reads := if store && m.crc then x.readOffsets tile.mask else [] }
                ({ s1 with draws := s1.draws + 1 }, .ok c (if store then none else some (handleSlot h, tile)))

/-- The row that a lane of C gives (R258): a row index, or the address of the row under .ADDR; none outside LIVE. -/
def State.laneRow (s : State) (op : Nat) (o : Args) (gm : GatherMode) (l : Layout) (img : Option ShapeImage) (t : Nat) : TileRow :=
  let live := s.active op o.g
  if !live.getLsbD t then .skip
  else
    match gm with
    | .addr => .at (s.opnd64 .bits o.c t).toNat
    | .rows =>
      let r := (s.opnd .bits o.c t).toInt
      match img with
      | some i => packedRow i r
      | none => denseRow l r

/-- TFILL at acceptance (R259). -/
def State.acceptFill (s : State) (o : Args) : State × Accept :=
  let b := s.block o.b
  let h := blkHandle b
  let fmt := (blk b 2).toNat
  match blkBounds b with
  | none => (s, .illegal)
  | some (rows, cols) =>
    if fmt > 6 || blk b 3 ≠ 0 || blk b 4 ≠ 0 || blk b 5 ≠ 0 then (s, .illegal)
    else
      let (vr, vc) := blkValid b rows cols
      let tile : TileSlot :=
        { fmt := fmt, bands := bandsOf fun _ => fmt, cols := cols, rows := rows, mask := BitVec.ofNat 256 (2 ^ vr - 1) }
      match s.tileChecks h tile with
      | .inr e => (s, e)
      | .inl phase =>
        let e := elemBytes fmt
        let x := s.uni o.c
        let puts := (List.range vr).flatMap fun t => (List.range (vc * e)).map fun k =>
          ({ row := t, addr := handleBase h + t * tile.pitch + k, cell := .lit (fillByte x (k % e)) } : Put)
        let todo := sectorWorks puts
        (s, .ok { kind := .tfill, wg := s.cur.wg, warp := s.cur.warp, pc := s.curSplit.pc, ctx := s.curWg.ctx, number := 0, handle := h,
                  block := b, bar := some (handleBar h), phase := phase, sectors := todo.length, todo := todo } (some (handleSlot h, tile)))

/-- Do two ranges overlap (R261)? -/
def rangesOverlap (sp1 a1 n1 sp2 a2 n2 : Nat) : Bool := sp1 == sp2 && a1 < a2 + n2 && a2 < a1 + n1 && n1 != 0 && n2 != 0

/-- The scratchpad sectors of a range. -/
def rangeSectors (space addr n : Nat) : Nat := if space = 2 && n ≠ 0 then (addr + n - 1) / 32 - addr / 32 + 1 else 0

/-- A plain copy as work (R260, R261): from the end down where the destination lies above its source, so that every byte is
read before it is overwritten. -/
def plainCopy (ss src ds dst n : Nat) : List Work :=
  let puts := (List.range n).map fun k => ({ row := k, addr := (dst + k) % 2 ^ 64, cell := .mem ss ((src + k) % 2 ^ 64) } : Put)
  let works := if ds = 2 then sectorWorks puts else groupPuts ds 128 false false puts
  if ss = ds && src < dst then works.reverse else works

/-! A routine's image (R393, R395). -/

/-- The number in bits [lo + n − 1 : lo] of bytes. -/
def bytesAt (bs : List Byte) (lo n : Nat) : Nat := ofBytes (bs.take 64) / 2 ^ lo % 2 ^ n
/-- A length rounded up to the next boundary of 64 bytes (R393). -/
def up64 (n : Nat) : Nat := (n + 63) / 64 * 64
/-- RIMG.CODE and RIMG.DATA of the latched image. -/
def Routine.codeLen (r : Routine) : Nat := bytesAt r.image 96 32
def Routine.dataLen (r : Routine) : Nat := bytesAt r.image 128 32
/-- The core cycles that a command may take (R400). -/
def Routine.budget (r : Routine) : Nat := bytesAt r.image 192 32 * (1 + (r.srcLen + 1023) / 1024)

/-- The routine as each command starts it (R396): the data from the image, every register of the core zero but vtype, the pc at
RIMG.ENTRY. Its buffers start as zeros (DESIGN CHOICE, log entry 78). -/
def Routine.start (r : Routine) : Routine :=
  { r with filled := 0, released := 0, committed := 0, window := [], ahead := [], buf1 := [], partWord := [], acts := [], cycles := 0,
           waits := none, done := none, data := (r.image.drop (64 + up64 r.codeLen)).take r.dataLen,
           rv := { pc := BitVec.ofNat 64 (bytesAt r.image 160 32) } }

/-- May a space be a TXFORM's (R260)? -/
def xformSpace (n : Nat) : Bool := n == 0 || n == 2 || n == 4

/-- TXFORM at acceptance (R255, R260, R261, R395). -/
def State.acceptXform (s : State) (o : Args) : State × Accept :=
  let g := s.curWg
  let b := s.block o.b
  let ix := (s.uni o.a).toNat
  let pair (i : Nat) : Nat := (blk b (i + 1) ++ blk b i).toNat
  let src := pair 0
  let dst := pair 2
  let n := (blk b 4).toNat
  let nd := (blk b 5).toNat
  let bar : Option Nat := if blk b 6 = 0xFFFFFFFF then none else some (blk b 6).toNat
  let sp := (blk b 7).toNat
  let ss := sp % 8
  let ds := sp / 16 % 8
  let entry := sget (fun _ => ({} : RoutineEntry)) s.routines ix
  if ix > 63 || !entry.valid || (ix = 0 && n ≠ nd) || sp / 128 ≠ 0 || sp / 8 % 2 ≠ 0 || !xformSpace ss || !xformSpace ds then (s, .illegal)
  else if ss = 2 && src + n > g.userBytes then (s, .trap 0x20 src 2)
  else if ds = 2 && dst + nd > g.userBytes then (s, .trap 0x20 dst 2)
  else
    match bar.bind fun off => g.tbFault off with
    | some f => (s, .ofFault f)
    | none =>
      if bar.any fun off => !(s.tbar s.cur.wg off).live then (s, .trap 0x16 0 (bar.getD 0))
      else if ix ≠ 0 && rangesOverlap ss src n ds dst nd then (s, .trap 0x34 0 0)
      else
        let c : Cmd :=
          { kind := .txform, wg := s.cur.wg, warp := s.cur.warp, pc := s.curSplit.pc, ctx := g.ctx, number := 0, block := b, bar := bar,
            phase := (bar.map fun off => (s.tbar s.cur.wg off).phase).getD 0, sectors := rangeSectors ds dst nd,
            todo := if ix = 0 then plainCopy ss src ds dst n else [],
            routine := if ix = 0 then none
              else some ({ index := ix, id := entry.id, ver := entry.ver, image := entry.bytes, args := s.block o.c, src := (ss, src),
                           srcLen := n, dst := (ds, dst), dstLen := nd } : Routine).start }
        (s, .ok c none)

/-- TCOLL at acceptance (R262): the tile is read and, but for .ROOT off rank 0, written. -/
def State.acceptColl (s : State) (o : Args) (op : CollOp) (root : Bool) : State × Accept :=
  let b := s.block o.b
  let h := blkHandle b
  let fmt := (blk b 2).toNat
  let fmtOk : Bool := match op with
    | .sumi => fmt == 6
    | .maxi => fmt == 6
    | .sumf => fmt == 5
    | .maxf => fmt == 5
    | .bcast => fmt < 15 && fmt != 7
  match blkBounds b with
  | none => (s, .illegal)
  | some (rows, cols) =>
    if !fmtOk || blk b 3 ≠ 0 || blk b 4 ≠ 0 || blk b 5 ≠ 0 then (s, .illegal)
    else
      let (vr, vc) := blkValid b rows cols
      let tile : TileSlot :=
        { fmt := fmt, bands := bandsOf fun _ => fmt, cols := cols, rows := rows, mask := BitVec.ofNat 256 (2 ^ vr - 1) }
      match s.tileChecks h tile with
      | .inr e => (s, e)
      | .inl phase =>
        if isBfp fmt && (cols % 32 ≠ 0 || vc % 32 ≠ 0) then (s, .illegal)
        else
          let writes := !root || s.curWg.rank == 0
          let sp (p : Put) : Put := { p with cell := .mem 2 p.addr }
          let all := collPuts tile (handleBase h) vr vc
          let todo := if writes then sectorWorks (all.map sp) else []
          (s, .ok { kind := .tcoll, wg := s.cur.wg, warp := s.cur.warp, pc := s.curSplit.pc, ctx := s.curWg.ctx, number := 0, handle := h,
                    block := b, bar := some (handleBar h), phase := phase, sectors := todo.length, todo := todo,
                    coll := some (op, root) } (if writes then some (handleSlot h, tile) else none))
where
  /-- The bytes of a tile's elements below the valid counts, mantissas before exponents. -/
  collPuts (t : TileSlot) (base vr vc : Nat) : List Put :=
    let put (row addr : Nat) : Put := { row := row, addr := addr, cell := .lit 0 }
    if isBfp t.fmt then
      ((List.range vr).flatMap fun r => (List.range (vc / 32 * (4 * bfpM t.fmt))).map fun k => put r (base + r * t.pitch + k))
      ++ (List.range vr).flatMap fun r => (List.range (vc / 32)).map fun k => put r (base + t.expAt + r * (t.cols / 32) + k)
    else (List.range vr).flatMap fun r => (List.range (vc * elemBytes t.fmt)).map fun k => put r (base + r * t.pitch + k)

/-- The timeline on which the issuing workgroup's command takes its number (R246). -/
def State.cmdTimeline (s : State) (kind : CmdKind) : Nat :=
  if kind = .tcoll then 2 ^ 28 + s.curWg.core / Config.coresPerDie else s.curWg.core

/-- The issuing split's command is accepted, or traps (R246, R255); the lane field of a fault is the lowest lane of LIVE (R373). -/
def State.accept (s : State) (i : Instr) (o : Args) (n : Bool) (r : State × Accept) : State :=
  let lane := s.liveLane i.op o.g
  match r.2 with
  | .trap code addr data => r.1.trapAt code addr (if 0x20 ≤ code && code ≤ 0x23 then data + lane * 256 else data)
  | .poison pa => r.1.consumePoison s.cur.wg pa
  | .walk va => r.1.walkWait i va .read lane
  | .ok c slot =>
    let (s1, num) := r.1.takeNumber c.ctx (s.cmdTimeline c.kind)
    let s2 := s1.updCurCore fun x => { x with cmds := x.cmds ++ [{ c with number := num, engine := s.cmdTimeline c.kind }] }
    let s3 := match slot with
      | some (k, t) => s2.updCurWg fun g => { g with tiles := sset (fun _ => {}) g.tiles k t }
      | none => s2
    (if n then s3.updCurWarp fun w => w.setK64 o.d (BitVec.ofNat 64 num) else s3).advance

/-- What acceptance of an instruction's command does; none where it is no command. -/
def State.acceptInstr (s : State) (i : Instr) : Option State :=
  match i with
  | .tcopy o m => some (s.accept i o m.n (s.acceptTile .tcopy o m none))
  | .tstore o m => some (s.accept i o m.n (s.acceptTile .tstore o m none))
  | .tgather o gm sh n => some (s.accept i o n (s.acceptTile .tgather o { sh := sh, n := n } (some (s.laneRow 0x302 o gm))))
  | .tscatter o gm sh n => some (s.accept i o n (s.acceptTile .tscatter o { sh := sh, n := n } (some (s.laneRow 0x303 o gm))))
  | .txform o n => some (s.accept i o n (s.acceptXform o))
  | .tfill o n => some (s.accept i o n (s.acceptFill o))
  | .tcoll o op root n => some (s.accept i o n (s.acceptColl o op root))
  | _ => none

/-- A command at issue (R246): with room in the queue it is accepted, otherwise its split waits for room. Its reads are no older than
the stores of its own warp (R85). -/
def State.command (s0 : State) (i : Instr) (op : Nat) (o : Args) : State :=
  let s := if s0.acts op o.g then s0.fenceCur .wg else s0
  if !s.acts op o.g then s.advance
  else if s.curCore.cmds.length < Config.copyQueue && s.curCore.copyWait.isEmpty then (s.acceptInstr i).getD s
  else
    (s.waitIn i .copyRoom).updCurCore fun x => { x with copyWait := x.copyWait ++ [(s.cur.wg, s.cur.warp, s.cur.split)] }

/-- TCOPY. -/
def execTcopy (o : Args) (m : CmdMods) (s : State) : Out := .next (s.command (.tcopy o m) 0x300 o)
/-- TSTORE. -/
def execTstore (o : Args) (m : CmdMods) (s : State) : Out := .next (s.command (.tstore o m) 0x301 o)
/-- TGATHER. -/
def execTgather (o : Args) (gm : GatherMode) (sh n : Bool) (s : State) : Out := .next (s.command (.tgather o gm sh n) 0x302 o)
/-- TSCATTER. -/
def execTscatter (o : Args) (gm : GatherMode) (sh n : Bool) (s : State) : Out := .next (s.command (.tscatter o gm sh n) 0x303 o)
/-- TXFORM. -/
def execTxform (o : Args) (n : Bool) (s : State) : Out := .next (s.command (.txform o n) 0x304 o)
/-- TFILL. -/
def execTfill (o : Args) (n : Bool) (s : State) : Out := .next (s.command (.tfill o n) 0x305 o)
/-- TCOLL. -/
def execTcoll (o : Args) (op : CollOp) (root n : Bool) (s : State) : Out := .next (s.command (.tcoll o op root n) 0x306 o)

/-- A store to a barrier by TFILL.TB or TFILL.TBINV (R259), with the checks of R44. -/
def State.fillBarrier (s0 : State) (off : Nat) (f : TBar → TBar) (g : Guard) : State :=
  let s := s0.fenceCur .wg
  match checkRange 2 s.curWg.userBytes off 16 (.sp 0 0) with
  | .fault x => s.accessTrap x (s.liveLane 0x305 g)
  | _ => (s.setTbar s.cur.wg off (f (s.tbar s.cur.wg off))).advance

/-- TFILL.TB (R259). -/
def execTfillTb (o : Args) (s : State) : Out :=
  let count := (s.uni o.b).toNat
  if count = 0 || count > 65535 then .next (s.illegalOperand 7)
  else if !s.acts 0x305 o.g then .next s.advance
  else .next (s.fillBarrier (s.uni o.a).toNat (fun _ => TBar.init count) o.g)
/-- TFILL.TBINV (R259). -/
def execTfillTbinv (o : Args) (s : State) : Out :=
  if !s.acts 0x305 o.g then .next s.advance
  else .next (s.fillBarrier (s.uni o.a).toNat (fun b => b.setField 4 1 0) o.g)

/-- TCANCEL (R263): the commands are cancelled and complete before the split's next instruction; one whose check has failed completes
with its record (R386), for which the split waits. -/
def execTcancel (o : Args) (s : State) : Out :=
  if !s.acts 0x307 o.g then .next s.advance
  else
    let n := (s.uni64 o.a).toNat
    let t := s.cancelFrom s.cur.wg n
    .next (if t.cancelling s.cur.wg n then t.waitIn (.tcancel o) (.cancel n) else t.advance)

/-! ## The queue (R246) -/

/-- COPY_QUEUE_ROOM (R246): the split that has waited longest has its command accepted; one whose warp stands still for a handler keeps
its place (R377). -/
def execCopyQueueRoom (core : Nat) (s : State) : Out :=
  match (s.core core).copyWait.find? fun p => !s.frozen p.1 p.2.1 p.2.2 with
  | none => .next s
  | some (g, w, n) =>
    if (s.core core).cmds.length < Config.copyQueue then
      let x := s.split g w n
      let s1 := s.updCore core fun c => { c with copyWait := c.copyWait.filter (· != (g, w, n)) }
      match x.pend with
      | some i =>
        if x.live && x.st == .wait && x.wait == .copyRoom then
          let s2 := (s1.actAs g w n).updSplit g w n fun y => { y with st := .run, pend := none, wait := .nothing, since := s.tick }
          .next ((s2.acceptInstr i).getD s2)
        else .next s1
      | none => .next s1
    else .next s

/-! ## Collectives (R262) -/

/-- The first TCOLL of a member that has not completed, with its core: one that its copy engine has started, or may start (R246, R381). -/
def State.memberColl (s : State) (g : Nat) : Option (Nat × Cmd) :=
  let core := (s.wg g).core
  (((s.core core).cmds.find? fun c => c.wg == g && c.kind == .tcoll).filter fun c => c.arrived || s.engineStarts core).map fun c => (core, c)

/-- Do two collectives agree in op, format, bounds and valid counts, none of which is above its bound (R250, R262)? -/
def Cmd.agrees (a b : Cmd) : Bool :=
  let valid (c : Cmd) : Nat × Nat := let x := (blkBounds c.block).getD (0, 0); blkValid c.block x.1 x.2
  a.coll.map (·.1) == b.coll.map (·.1) && blk a.block 2 == blk b.block 2 && valid a == valid b && blk a.block 7 == blk b.block 7

/-- The greatest of two FP32 values as FMAX gives it, without NANP or flushing (R218, R262). -/
def collMax (a b : Word) : Word :=
  BitVec.ofNat 32 (minMaxVal fp32 {} true (fp32.value false a.toNat) (fp32.value false b.toNat) a.toNat b.toNat).1

/-- A NaN as the canonical NaN (R94). -/
def canonF32 (x : Word) : Word := if (fp32.value false x.toNat).isNan then BitVec.ofNat 32 fp32.canon else x

/-- Members' words combined in rank order (R262). -/
def collWord (op : CollOp) : List Word → Word
  | [] => 0
  | x :: r =>
    match op with
    | .sumi => r.foldl (· + ·) x
    | .maxi => r.foldl (fun a b => if a.toInt < b.toInt then b else a) x
    | .sumf => if r.isEmpty then canonF32 x else r.foldl addF32 x
    | .maxf => r.foldl collMax x
    | .bcast => x

/-- The word of a member's tile that holds the byte at offset `rel` from its base. -/
def State.memberWord (s : State) (core : Nat) (c : Cmd) (rel : Nat) : Word :=
  let wg := s.wg c.wg
  BitVec.ofNat 32 (ofBytes ((s.core core).spRead (wg.user + handleBase c.handle + rel / 4 * 4) 4))

/-- The result byte at offset `rel` of the tile: rank 0's under .BCAST, else a byte of the combined word. -/
def State.collByte (s : State) (op : CollOp) (members : List (Nat × Cmd)) (rel : Nat) : Byte :=
  fillByte (collWord op (members.map fun p => s.memberWord p.1 p.2 rel)) (rel % 4)

/-- A member's command writes the result and completes. -/
def State.collEnd (s0 s : State) (op : CollOp) (members : List (Nat × Cmd)) (p : Nat × Cmd) : State :=
  let c := p.2
  let s1 := if c.arrived then s else (s.cmdBarrier c (.arrive c.sectors)).1
  let s2 := c.todo.foldl (fun t w =>
    let t1 := (t.engWrite c.wg 2 false (w.puts.map fun q => (q.addr, s0.collByte op members (q.addr - handleBase c.handle))) none).1
    (t1.cmdBarrier c .sector).1) s1
  s2.dropCmd p.1 c

/-- A member of a collective whose commands differ completes without writing (R262). -/
def State.collFail (s : State) (p : Nat × Cmd) : State :=
  let c := p.2
  ((s.poisonBarrier c).engineRecord
    { wg := c.wg, warp := c.warp, pc := c.pc, code := 0x83, addr := c.bar.getD 0, number := c.number }).dropCmd p.1 c

/-- COLLECTIVE_COMPLETION (R262): the next collective of a cluster, once every member has given its command. -/
def execCollectiveCompletion (cluster : Nat) (s : State) : Out :=
  let wgs := (s.cluster cluster).wgs
  let members := wgs.filterMap s.memberColl
  match members with
  | [] => .next s
  | (_, c) :: _ =>
    if members.length ≠ wgs.length then .next s
    else if members.all fun p => p.2.agrees c then
      match c.coll with
      | some (op, _) => .next (members.foldl (fun t p => State.collEnd s t op members p) s)
      | none => .next s
    else .next (members.foldl State.collFail s)

end Sys2Proof.Machine
end

