-- ==== Sys2Proof/Machine/RvInt.lean ====
section
/-! DEFINITION. The RV64GCV core of a copy engine (R13, R396): registers, the compressed instructions, the base integer instructions, M, A,
Zicsr and Zifencei. The manual names RISC-V and does not define it: these are the RISC-V unprivileged ISA's (log entry 5). -/
namespace Sys2Proof
open Machine

/-- What an instruction of the core answers: the core after it and its stores in order, or none where it traps (R400). -/
abbrev RvOut := Option (RvCore × List (Nat × Byte))

/-- `n` bits of an instruction from bit `lo`. -/
def rvField (i : Word) (lo n : Nat) : Nat := i.toNat / 2 ^ lo % 2 ^ n
/-- An `n`-bit number as a two's complement integer. -/
def rvSigned (n x : Nat) : Int := (BitVec.ofNat n x).toInt
/-- A sign-extended number as a 64-bit word. -/
def rvSext (n x : Nat) : DWord := (BitVec.ofNat n x).signExtend 64

/-- Register x`r`: x0 is zero. -/
def RvCore.getX (c : RvCore) (r : Nat) : DWord := if r = 0 then 0 else sget (fun _ => 0) c.x r
/-- The core with register x`r` written. -/
def RvCore.setX (c : RvCore) (r : Nat) (v : DWord) : RvCore := if r = 0 then c else { c with x := sset (fun _ => 0) c.x r v }

/-- rd, rs1, rs2 and funct3 of an instruction. -/
def rvRd (i : Word) : Nat := rvField i 7 5
def rvRs1 (i : Word) : Nat := rvField i 15 5
def rvRs2 (i : Word) : Nat := rvField i 20 5
def rvF3 (i : Word) : Nat := rvField i 12 3
/-- The immediates of the I, S, B, U and J formats. -/
def rvImmI (i : Word) : DWord := rvSext 12 (rvField i 20 12)
def rvImmS (i : Word) : DWord := rvSext 12 (rvField i 7 5 + rvField i 25 7 * 2 ^ 5)
def rvImmB (i : Word) : DWord := rvSext 13 (rvField i 8 4 * 2 + rvField i 25 6 * 2 ^ 5 + rvField i 7 1 * 2 ^ 11 + rvField i 31 1 * 2 ^ 12)
def rvImmU (i : Word) : DWord := rvSext 32 (rvField i 12 20 * 2 ^ 12)
def rvImmJ (i : Word) : DWord := rvSext 21 (rvField i 21 10 * 2 + rvField i 20 1 * 2 ^ 11 + rvField i 12 8 * 2 ^ 12 + rvField i 31 1 * 2 ^ 20)

/-- `n` addresses from `a`. -/
def rvSpan (a : DWord) (n : Nat) : List Nat := (List.range n).map fun k => (a.toNat + k) % 2 ^ 64
/-- Is an access of `n` bytes one that the core completes: aligned, or misaligned and supported (log entry 5)? -/
def rvAligned (a : DWord) (n : Nat) : Bool := a.toNat % n == 0 || Config.rvMisaligned
/-- The stores of the low `n` bytes of a number. -/
def rvPut (a : DWord) (n x : Nat) : List (Nat × Byte) := (rvSpan a n).zip (toBytes n x)

/-! ## Compressed instructions -/

/-- Instructions of the six formats, from their fields. -/
def rvR (op f3 f7 rd rs1 rs2 : Nat) : Word := BitVec.ofNat 32 (op + rd * 2 ^ 7 + f3 * 2 ^ 12 + rs1 * 2 ^ 15 + rs2 * 2 ^ 20 + f7 * 2 ^ 25)
def rvI (op f3 rd rs1 : Nat) (imm : Int) : Word := BitVec.ofNat 32 (op + rd * 2 ^ 7 + f3 * 2 ^ 12 + rs1 * 2 ^ 15 + (imm % 4096).toNat * 2 ^ 20)
def rvS (op f3 rs1 rs2 imm : Nat) : Word :=
  BitVec.ofNat 32 (op + imm % 32 * 2 ^ 7 + f3 * 2 ^ 12 + rs1 * 2 ^ 15 + rs2 * 2 ^ 20 + imm / 32 * 2 ^ 25)
def rvB (f3 rs1 rs2 : Nat) (imm : Int) : Word :=
  let n := (imm % 8192).toNat
  BitVec.ofNat 32 (0x63 + n / 2 ^ 11 % 2 * 2 ^ 7 + n / 2 % 16 * 2 ^ 8 + f3 * 2 ^ 12 + rs1 * 2 ^ 15 + rs2 * 2 ^ 20 + n / 2 ^ 5 % 64 * 2 ^ 25 + n / 2 ^ 12 * 2 ^ 31)
def rvJ (rd : Nat) (imm : Int) : Word :=
  let n := (imm % 2 ^ 21).toNat
  BitVec.ofNat 32 (0x6F + rd * 2 ^ 7 + n / 2 ^ 12 % 2 ^ 8 * 2 ^ 12 + n / 2 ^ 11 % 2 * 2 ^ 20 + n / 2 % 2 ^ 10 * 2 ^ 21 + n / 2 ^ 20 * 2 ^ 31)

/-- Quadrant 0: the stack-pointer sum, and loads and stores of registers x8 to x15. -/
def rvExpand0 (i : Word) : Option Word :=
  let rd := 8 + rvField i 2 3
  let rs := 8 + rvField i 7 3
  let dbl := rvField i 10 3 * 8 + rvField i 5 2 * 64
  let wrd := rvField i 6 1 * 4 + rvField i 10 3 * 8 + rvField i 5 1 * 64
  match rvField i 13 3 with
  | 0 =>
    let n := rvField i 6 1 * 4 + rvField i 5 1 * 8 + rvField i 11 2 * 16 + rvField i 7 4 * 64
    if n = 0 then none else some (rvI 0x13 0 rd 2 n)
  | 1 => some (rvI 0x07 3 rd rs dbl)
  | 2 => some (rvI 0x03 2 rd rs wrd)
  | 3 => some (rvI 0x03 3 rd rs dbl)
  | 5 => some (rvS 0x27 3 rs rd dbl)
  | 6 => some (rvS 0x23 2 rs rd wrd)
  | 7 => some (rvS 0x23 3 rs rd dbl)
  | _ => none

/-- Quadrant 1: immediates, arithmetic on x8 to x15, jumps and branches. -/
def rvExpand1 (i : Word) : Option Word :=
  let rd := rvField i 7 5
  let r := 8 + rvField i 7 3
  let r2 := 8 + rvField i 2 3
  let sh := rvField i 2 5 + rvField i 12 1 * 32
  let imm := rvSigned 6 sh
  let far := rvSigned 12 (rvField i 3 3 * 2 + rvField i 11 1 * 16 + rvField i 2 1 * 32 + rvField i 7 1 * 64 + rvField i 6 1 * 128
    + rvField i 9 2 * 256 + rvField i 8 1 * 1024 + rvField i 12 1 * 2048)
  let near := rvSigned 9 (rvField i 3 2 * 2 + rvField i 10 2 * 8 + rvField i 2 1 * 32 + rvField i 5 2 * 64 + rvField i 12 1 * 256)
  match rvField i 13 3 with
  | 0 => some (rvI 0x13 0 rd rd imm)
  | 1 => if rd = 0 then none else some (rvI 0x1B 0 rd rd imm)
  | 2 => some (rvI 0x13 0 rd 0 imm)
  | 3 =>
    if rd = 2 then
      let n := rvSigned 10 (rvField i 6 1 * 16 + rvField i 2 1 * 32 + rvField i 5 1 * 64 + rvField i 3 2 * 128 + rvField i 12 1 * 512)
      if n = 0 then none else some (rvI 0x13 0 2 2 n)
    else if imm = 0 then none
    else some (BitVec.ofNat 32 (0x37 + rd * 2 ^ 7 + (imm % 2 ^ 20).toNat * 2 ^ 12))
  | 4 =>
    match rvField i 10 2 with
    | 0 => some (rvI 0x13 5 r r sh)
    | 1 => some (rvI 0x13 5 r r (1024 + sh))
    | 2 => some (rvI 0x13 7 r r imm)
    | _ =>
      match rvField i 12 1, rvField i 5 2 with
      | 0, 0 => some (rvR 0x33 0 0x20 r r r2)
      | 0, 1 => some (rvR 0x33 4 0 r r r2)
      | 0, 2 => some (rvR 0x33 6 0 r r r2)
      | 0, _ => some (rvR 0x33 7 0 r r r2)
      | _, 0 => some (rvR 0x3B 0 0x20 r r r2)
      | _, 1 => some (rvR 0x3B 0 0 r r r2)
      | _, _ => none
  | 5 => some (rvJ 0 far)
  | 6 => some (rvB 0 r 0 near)
  | _ => some (rvB 1 r 0 near)

/-- Quadrant 2: shifts, loads and stores from the stack pointer, moves and jumps by register. -/
def rvExpand2 (i : Word) : Option Word :=
  let rd := rvField i 7 5
  let r2 := rvField i 2 5
  let sh := r2 + rvField i 12 1 * 32
  let dbl := rvField i 5 2 * 8 + rvField i 12 1 * 32 + rvField i 2 3 * 64
  let wrd := rvField i 4 3 * 4 + rvField i 12 1 * 32 + rvField i 2 2 * 64
  let outD := rvField i 10 3 * 8 + rvField i 7 3 * 64
  let outW := rvField i 9 4 * 4 + rvField i 7 2 * 64
  match rvField i 13 3 with
  | 0 => some (rvI 0x13 1 rd rd sh)
  | 1 => some (rvI 0x07 3 rd 2 dbl)
  | 2 => if rd = 0 then none else some (rvI 0x03 2 rd 2 wrd)
  | 3 => if rd = 0 then none else some (rvI 0x03 3 rd 2 dbl)
  | 4 =>
    if rvField i 12 1 = 0 then
      if r2 = 0 then (if rd = 0 then none else some (rvI 0x67 0 0 rd 0)) else some (rvR 0x33 0 0 rd 0 r2)
    else if r2 = 0 then (if rd = 0 then some 0x00100073 else some (rvI 0x67 0 1 rd 0)) else some (rvR 0x33 0 0 rd rd r2)
  | 5 => some (rvS 0x27 3 2 r2 outD)
  | 6 => some (rvS 0x23 2 2 r2 outW)
  | _ => some (rvS 0x23 3 2 r2 outD)

/-- The 32-bit instruction that an instruction of 16 bits stands for, or itself; none for an undefined one. -/
def rvExpand (i : Word) : Option Word :=
  match i.toNat % 4 with
  | 0 => rvExpand0 i
  | 1 => rvExpand1 i
  | 2 => rvExpand2 i
  | _ => some i
/-- The bytes that an instruction takes. -/
def rvLength (i : Word) : Nat := if i.toNat % 4 = 3 then 4 else 2

/-! ## Base integer instructions, M and A -/

/-- OP and OP-IMM on two words, by funct3 and by whether bit 30 chooses the other of two. -/
def rvAlu (f3 : Nat) (alt : Bool) (a b : DWord) : DWord :=
  match f3 with
  | 0 => if alt then a - b else a + b
  | 1 => a <<< (b.toNat % 64)
  | 2 => if a.slt b then 1 else 0
  | 3 => if a < b then 1 else 0
  | 4 => a ^^^ b
  | 5 => if alt then a.sshiftRight (b.toNat % 64) else a >>> (b.toNat % 64)
  | 6 => a ||| b
  | _ => a &&& b
/-- The same on words of 32 bits. -/
def rvAluW (f3 : Nat) (alt : Bool) (a b : Word) : Option Word :=
  match f3 with
  | 0 => some (if alt then a - b else a + b)
  | 1 => some (a <<< (b.toNat % 32))
  | 5 => some (if alt then a.sshiftRight (b.toNat % 32) else a >>> (b.toNat % 32))
  | _ => none
/-- Quotient and remainder of `n`-bit numbers, with the results of M for a zero divisor; the overflow of the signed ones wraps. -/
def rvDiv {n : Nat} (signed : Bool) (a b : BitVec n) : BitVec n :=
  if b = 0 then BitVec.allOnes n else if signed then BitVec.ofInt n (a.toInt.tdiv b.toInt) else a / b
def rvRem {n : Nat} (signed : Bool) (a b : BitVec n) : BitVec n :=
  if b = 0 then a else if signed then BitVec.ofInt n (a.toInt.tmod b.toInt) else a % b
/-- The upper half of a product of `n`-bit numbers, each signed or not. -/
def rvMulh {n : Nat} (sa sb : Bool) (a b : BitVec n) : BitVec n :=
  let v (s : Bool) (x : BitVec n) : Int := if s then x.toInt else x.toNat
  BitVec.ofInt n (v sa a * v sb b / (2 ^ n : Nat))
/-- M on two words. -/
def rvMul (f3 : Nat) (a b : DWord) : DWord :=
  match f3 with
  | 0 => a * b
  | 1 => rvMulh true true a b
  | 2 => rvMulh true false a b
  | 3 => rvMulh false false a b
  | 4 => rvDiv true a b
  | 5 => rvDiv false a b
  | 6 => rvRem true a b
  | _ => rvRem false a b
/-- M on words of 32 bits. -/
def rvMulW (f3 : Nat) (a b : Word) : Option Word :=
  match f3 with
  | 0 => some (a * b)
  | 4 => some (rvDiv true a b)
  | 5 => some (rvDiv false a b)
  | 6 => some (rvRem true a b)
  | 7 => some (rvRem false a b)
  | _ => none
/-- Does a branch go? -/
def rvBranch (f3 : Nat) (a b : DWord) : Option Bool :=
  match f3 with
  | 0 => some (a == b)
  | 1 => some (a != b)
  | 4 => some (a.slt b)
  | 5 => some (!a.slt b)
  | 6 => some (decide (a < b))
  | 7 => some (decide (b ≤ a))
  | _ => none
/-- What an atomic memory operation stores. -/
def rvAmo {n : Nat} (op : Nat) (old x : BitVec n) : Option (BitVec n) :=
  match op with
  | 0x00 => some (old + x)
  | 0x01 => some x
  | 0x04 => some (old ^^^ x)
  | 0x08 => some (old ||| x)
  | 0x0C => some (old &&& x)
  | 0x10 => some (if x.slt old then x else old)
  | 0x14 => some (if old.slt x then x else old)
  | 0x18 => some (if x < old then x else old)
  | 0x1C => some (if old < x then x else old)
  | _ => none

/-! ## Control and status registers -/

/-- The CSRs that a routine reads: no counter and no timer (R396). VLENB is 64. -/
def RvCore.csr (c : RvCore) (n : Nat) : Option DWord :=
  match n with
  | 0x001 => some (c.fcsr.setWidth 64 &&& 0x1F)
  | 0x002 => some ((c.fcsr.setWidth 64 >>> 5) &&& 7)
  | 0x003 => some (c.fcsr.setWidth 64 &&& 0xFF)
  | 0x008 => some c.vstart
  | 0x009 => some (c.vcsr &&& 1)
  | 0x00A => some ((c.vcsr >>> 1) &&& 3)
  | 0x00F => some (c.vcsr &&& 7)
  | 0xC20 => some c.vl
  | 0xC21 => some c.vtype
  | 0xC22 => some 64
  | _ => none
/-- A write of one of them: those from 0xC00 on are read-only. vstart holds an element's index, below 512. -/
def RvCore.setCsr (c : RvCore) (n : Nat) (v : DWord) : Option RvCore :=
  let w : Word := v.setWidth 32
  match n with
  | 0x001 => some { c with fcsr := (c.fcsr &&& 0xE0) ||| (w &&& 0x1F) }
  | 0x002 => some { c with fcsr := (c.fcsr &&& 0x1F) ||| ((w &&& 7) <<< 5) }
  | 0x003 => some { c with fcsr := w &&& 0xFF }
  | 0x008 => some { c with vstart := v &&& 0x1FF }
  | 0x009 => some { c with vcsr := (c.vcsr &&& 6) ||| (v &&& 1) }
  | 0x00A => some { c with vcsr := (c.vcsr &&& 1) ||| ((v &&& 3) <<< 1) }
  | 0x00F => some { c with vcsr := v &&& 7 }
  | _ => none
/-- CSRRW, CSRRS and CSRRC, of a register or of five immediate bits: a set or clear of x0, or of none, does not write. -/
def RvCore.csrOp (c : RvCore) (i : Word) : Option RvCore :=
  let f3 := rvF3 i
  let n := rvField i 20 12
  let r := rvRs1 i
  let x : DWord := if f3 ≥ 4 then BitVec.ofNat 64 r else c.getX r
  match c.csr n with
  | none => none
  | some old =>
    let d := c.setX (rvRd i) old
    match f3 % 4 with
    | 1 => d.setCsr n x
    | 2 => if r = 0 then some d else d.setCsr n (old ||| x)
    | _ => if r = 0 then some d else d.setCsr n (old &&& ~~~x)

/-- The core that goes on at `pc`. -/
def RvCore.at_ (c : RvCore) (pc : DWord) : RvCore := { c with pc := pc }

/-- A load's word, extended as funct3 says. -/
def rvLoaded (f3 : Nat) (x : Nat) : Option DWord :=
  match f3 with
  | 0 => some (rvSext 8 x)
  | 1 => some (rvSext 16 x)
  | 2 => some (rvSext 32 x)
  | 3 => some (BitVec.ofNat 64 x)
  | 4 | 5 | 6 => some (BitVec.ofNat 64 x)
  | _ => none

/-- LR, SC and the atomic memory operations, on 4 or 8 aligned bytes whose value is `old`. -/
def RvCore.amo (c : RvCore) (i : Word) (old : Nat) : RvOut :=
  let f3 := rvF3 i
  let a := c.getX (rvRs1 i)
  let x := c.getX (rvRs2 i)
  let n := 2 ^ f3
  let got : DWord := if f3 = 2 then rvSext 32 old else BitVec.ofNat 64 old
  if (f3 ≠ 2 && f3 ≠ 3) || a.toNat % n ≠ 0 then none
  else
    match rvField i 27 5 with
    | 2 => if rvRs2 i = 0 then some ({ c.setX (rvRd i) got with reserved := some a.toNat }, []) else none
    | 3 =>
      if c.reserved = some a.toNat then some ({ c.setX (rvRd i) 0 with reserved := none }, rvPut a n x.toNat)
      else some ({ c.setX (rvRd i) 1 with reserved := none }, [])
    | op =>
      if f3 = 2 then (rvAmo op (BitVec.ofNat 32 old) (x.setWidth 32)).map fun y => (c.setX (rvRd i) got, rvPut a 4 y.toNat)
      else (rvAmo op (BitVec.ofNat 64 old) x).map fun y => (c.setX (rvRd i) got, rvPut a 8 y.toNat)

/-- An integer instruction of 32 bits, in a core whose next instruction is at `next`, with the bytes that it loads; none where it traps:
ecall, ebreak and every undefined instruction (R400). -/
def RvCore.intOp (c : RvCore) (i : Word) (next : DWord) (loaded : List Byte) : RvOut :=
  let rd := rvRd i
  let f3 := rvF3 i
  let f7 := rvField i 25 7
  let a := c.getX (rvRs1 i)
  let b := c.getX (rvRs2 i)
  let on := c.at_ next
  let plain (v : DWord) : RvOut := some (on.setX rd v, [])
  let word (v : Option Word) : RvOut := v.map fun x => (on.setX rd (x.signExtend 64), [])
  match i.toNat % 128 with
  | 0x37 => plain (rvImmU i)
  | 0x17 => plain (c.pc + rvImmU i)
  | 0x6F => some ((c.setX rd next).at_ (c.pc + rvImmJ i), [])
  | 0x67 => if f3 = 0 then some ((c.setX rd next).at_ ((a + rvImmI i) &&& ~~~1), []) else none
  | 0x63 => (rvBranch f3 a b).map fun go => (if go then c.at_ (c.pc + rvImmB i) else on, [])
  | 0x03 => if rvAligned (a + rvImmI i) (2 ^ (f3 % 4)) then (rvLoaded f3 (ofBytes loaded)).bind plain else none
  | 0x23 => if f3 ≤ 3 && rvAligned (a + rvImmS i) (2 ^ f3) then some (on, rvPut (a + rvImmS i) (2 ^ f3) b.toNat) else none
  | 0x13 =>
    let sh := rvField i 26 6
    if f3 = 1 then (if sh = 0 then plain (rvAlu 1 false a (rvImmI i)) else none)
    else if f3 = 5 then (if sh = 0 || sh = 0x10 then plain (rvAlu 5 (sh == 0x10) a (rvImmI i)) else none)
    else plain (rvAlu f3 false a (rvImmI i))
  | 0x1B =>
    if f3 = 0 then word (rvAluW 0 false (a.setWidth 32) ((rvImmI i).setWidth 32))
    else if f7 = 0 || (f7 = 0x20 && f3 = 5) then word (rvAluW f3 (f7 == 0x20) (a.setWidth 32) ((rvImmI i).setWidth 32)) else none
  | 0x33 =>
    if f7 = 1 then plain (rvMul f3 a b)
    else if f7 = 0 || (f7 = 0x20 && (f3 = 0 || f3 = 5)) then plain (rvAlu f3 (f7 == 0x20) a b) else none
  | 0x3B =>
    if f7 = 1 then word (rvMulW f3 (a.setWidth 32) (b.setWidth 32))
    else if f7 = 0 || (f7 = 0x20 && (f3 = 0 || f3 = 5)) then word (rvAluW f3 (f7 == 0x20) (a.setWidth 32) (b.setWidth 32)) else none
  | 0x0F => if f3 ≤ 1 then some (on, []) else none
  | 0x73 => if f3 % 4 = 0 then none else (on.csrOp i).map fun d => (d, [])
  | 0x2F => on.amo i (ofBytes loaded)
  | _ => none

/-- The addresses that a load or an atomic of the integer instructions reads. -/
def RvCore.intLoads (c : RvCore) (i : Word) : List Nat :=
  let a := c.getX (rvRs1 i)
  match i.toNat % 128 with
  | 0x03 => rvSpan (a + rvImmI i) (2 ^ (rvF3 i % 4))
  | 0x2F => if rvField i 27 5 = 3 then [] else rvSpan a (2 ^ (rvF3 i % 4))
  | _ => []

end Sys2Proof
end

