-- ==== Sys2Proof/Machine/RvFloat.lean ====
section
/-! DEFINITION. F and D of a copy engine's RV64GCV core (R13, R396), with the formats and the one rounding of `Machine/Float.lean`. The
instructions are RISC-V's (log entry 5). -/
namespace Sys2Proof
open Machine

/-- FP64. -/
def fp64 : FFmt := { ebits := 11, fbits := 52, bias := 1023 }
/-- The format of 32 or 64 bits. -/
def rvFmt (n : Nat) : FFmt := if n = 64 then fp64 else fp32

/-- Register f`r`. -/
def RvCore.getF (c : RvCore) (r : Nat) : DWord := sget (fun _ => 0) c.f r
/-- The core with register f`r` written. -/
def RvCore.setF (c : RvCore) (r : Nat) (v : DWord) : RvCore := { c with f := sset (fun _ => 0) c.f r v }
/-- An operand of `n` bits: one of 32 that is not boxed in ones reads as the canonical NaN. -/
def RvCore.fbits (c : RvCore) (n r : Nat) : Nat :=
  let v := (c.getF r).toNat
  if n = 64 then v else if v / 2 ^ 32 = 2 ^ 32 - 1 then v % 2 ^ 32 else fp32.canon
/-- Its value. -/
def RvCore.fval (c : RvCore) (n r : Nat) : FVal := (rvFmt n).value false (c.fbits n r)
/-- A result of `n` bits, boxed. -/
def rvBox (n x : Nat) : DWord := BitVec.ofNat 64 (if n = 64 then x else x % 2 ^ 32 + (2 ^ 32 - 1) * 2 ^ 32)
/-- The core with such a result written. -/
def RvCore.putF (c : RvCore) (n r x : Nat) : RvCore := c.setF r (rvBox n x)

/-- fflags of the flags of an operation: NX, UF, OF, DZ, NV from bit 0 on. -/
def rvFlags (f : Flags) : Word :=
  (if f &&& flagInexact ≠ 0 then 1 else 0) ||| (if f &&& flagUnderflow ≠ 0 then 2 else 0) ||| (if f &&& flagOverflow ≠ 0 then 4 else 0)
    ||| (if f &&& flagDivzero ≠ 0 then 8 else 0) ||| (if f &&& flagInvalid ≠ 0 then 16 else 0)
/-- The core with flags accrued. -/
def RvCore.raise (c : RvCore) (f : Flags) : RvCore := { c with fcsr := c.fcsr ||| rvFlags f }

/-- The rounding mode of three bits, 7 for frm; none for an invalid one. -/
def RvCore.rnd (c : RvCore) (rm : Nat) : Option FMode :=
  match (if rm = 7 then c.fcsr.toNat / 32 % 8 else rm) with
  | 0 => some { rnd := .rne }
  | 1 => some { rnd := .rz }
  | 2 => some { rnd := .rd }
  | 3 => some { rnd := .ru }
  | 4 => some { rnd := .rna }
  | _ => none

/-- a / b. -/
def rvFdiv (f : FFmt) (md : FMode) (a b : FVal) : Nat × Flags :=
  if a.isNan || b.isNan then f.nanOf md [a, b]
  else
    let neg := a.neg != b.neg
    match a, b with
    | .inf _, .inf _ => f.invalid md [a, b]
    | .inf _, _ => f.infinity md neg
    | _, .inf _ => (f.signed neg 0, 0)
    | .fin _ m e, .fin _ n k =>
      if n = 0 then (if m = 0 then f.invalid md [a, b] else ((f.infinity md neg).1, flagDivzero))
      else
        let up := Nat.log2 n + f.fbits + 4
        f.round md neg (m * 2 ^ up / n) (e - k - up) (m * 2 ^ up % n != 0)
    | _, _ => f.nanOf md [a, b]
/-- √a. -/
def rvFsqrt (f : FFmt) (md : FMode) (a : FVal) : Nat × Flags :=
  match a with
  | .fin neg m e =>
    if m = 0 then (f.signed neg 0, 0)
    else if neg then f.invalid md [a]
    else
      let odd := e % 2 != 0
      let n := (if odd then 2 * m else m) * 2 ^ (2 * f.fbits + 8)
      let r := natSqrt n
      f.round md false r ((if odd then e - 1 else e) / 2 - (f.fbits + 4)) (r * r != n)
  | .inf neg => if neg then f.invalid md [a] else f.infinity md false
  | _ => f.nanOf md [a]
/-- ±(a × b) ± c, rounded once. -/
def rvFma (f : FFmt) (md : FMode) (negProd negAdd : Bool) (a b c : FVal) : Nat × Flags :=
  f.dot md [(if negProd then a.negate else a, b)] (if negAdd then c.negate else c)
/-- FSGNJ, FSGNJN and FSGNJX on bits. -/
def rvSgnj (f : FFmt) (k a b : Nat) : Nat :=
  let s (x : Nat) : Nat := x / f.signBit % 2
  a % f.signBit + f.signBit * (match k with | 0 => s b | 1 => 1 - s b | _ => (s a + s b) % 2)
/-- FCLASS. -/
def rvFclass (f : FFmt) (b : Nat) : Nat :=
  match f.value false b with
  | .inf neg => if neg then 2 ^ 0 else 2 ^ 7
  | .nan _ _ s => if s then 2 ^ 8 else 2 ^ 9
  | .fin neg m _ => if m = 0 then (if neg then 2 ^ 3 else 2 ^ 4) else if m < 2 ^ f.fbits then (if neg then 2 ^ 2 else 2 ^ 5) else if neg then 2 ^ 1 else 2 ^ 6
/-- FEQ, FLT and FLE: the last two raise NV for any NaN. -/
def rvFcmp (k : Nat) (a b : FVal) : Bool × Flags :=
  let bad : Bool := if k = 2 then a.isSnan || b.isSnan else a.isNan || b.isNan
  let holds := match k with | 0 => fcondHolds .le a b | 1 => fcondHolds .lt a b | _ => fcondHolds .eq a b
  (holds, if bad then flagInvalid else 0)
/-- A float as an integer of `n` bits, rounded, and clamped with NV; a NaN gives the largest. -/
def rvToInt (md : FMode) (n : Nat) (signed : Bool) (a : FVal) : Nat × Flags :=
  let hi : Int := if signed then 2 ^ (n - 1) - 1 else 2 ^ n - 1
  let lo : Int := if signed then -(2 ^ (n - 1)) else 0
  let bits (x : Int) : Nat := (x % (2 ^ n : Nat)).toNat
  match a with
  | .fin neg m e =>
    let (x, inexact) := roundInt md.rnd neg m e
    if x > hi then (bits hi, flagInvalid) else if x < lo then (bits lo, flagInvalid) else (bits x, if inexact then flagInexact else 0)
  | .inf neg => (bits (if neg then lo else hi), flagInvalid)
  | _ => (bits hi, flagInvalid)
/-- An integer as a float. -/
def rvFromInt (f : FFmt) (md : FMode) (x : Int) : Nat × Flags := f.round md (decide (x < 0)) x.natAbs 0 false

/-- An instruction of F or D, of 32 bits, in a core whose next instruction is at `next`, with the bytes that it loads; none where it traps. -/
def RvCore.floatOp (c : RvCore) (i : Word) (next : DWord) (loaded : List Byte) : RvOut :=
  let rd := rvRd i
  let r1 := rvRs1 i
  let r2 := rvRs2 i
  let f3 := rvF3 i
  let n := if rvField i 25 2 = 1 then 64 else 32
  let f := rvFmt n
  let a := c.fval n r1
  let b := c.fval n r2
  let on := c.at_ next
  let put (x : Nat × Flags) : RvOut := some ((on.putF n rd x.1).raise x.2, [])
  let toX (x : DWord) (fl : Flags) : RvOut := some ((on.setX rd x).raise fl, [])
  let rounded (g : FMode → Nat × Flags) : RvOut := (c.rnd f3).bind fun md => put (g md)
  let fma (np na : Bool) : RvOut :=
    if rvField i 25 2 ≤ 1 then rounded fun md => rvFma f md np na a b (c.fval n (rvField i 27 5)) else none
  match i.toNat % 128 with
  | 0x07 =>
    let w := 2 ^ f3
    if (f3 = 2 || f3 = 3) && rvAligned (c.getX r1 + rvImmI i) w then some (on.putF (8 * w) rd (ofBytes loaded), []) else none
  | 0x27 =>
    let w := 2 ^ f3
    if (f3 = 2 || f3 = 3) && rvAligned (c.getX r1 + rvImmS i) w then some (on, rvPut (c.getX r1 + rvImmS i) w (c.getF r2).toNat) else none
  | 0x43 => fma false false
  | 0x47 => fma false true
  | 0x4B => fma true false
  | 0x4F => fma true true
  | 0x53 =>
    if rvField i 25 2 > 1 then none
    else
      match rvField i 27 5 with
      | 0x00 => rounded fun md => f.add md a b
      | 0x01 => rounded fun md => f.sub md a b
      | 0x02 => rounded fun md => f.mul md a b
      | 0x03 => rounded fun md => rvFdiv f md a b
      | 0x0B => if r2 = 0 then rounded fun md => rvFsqrt f md a else none
      | 0x04 => if f3 ≤ 2 then put (rvSgnj f f3 (c.fbits n r1) (c.fbits n r2), 0) else none
      | 0x05 => if f3 ≤ 1 then put (minMaxVal f {} (f3 == 1) a b (c.fbits n r1) (c.fbits n r2)) else none
      | 0x08 => if n = 32 && r2 = 1 then rounded fun md => fp32.roundVal md (c.fval 64 r1)
                else if n = 64 && r2 = 0 then rounded fun md => fp64.roundVal md (c.fval 32 r1) else none
      | 0x14 => if f3 ≤ 2 then let (h, fl) := rvFcmp f3 a b; toX (if h then 1 else 0) fl else none
      | 0x18 =>
        if r2 ≤ 3 then (c.rnd f3).bind fun md =>
          let w := if r2 ≤ 1 then 32 else 64
          let (x, fl) := rvToInt md w (r2 % 2 == 0) a
          toX (rvSext w x) fl
        else none
      | 0x1A =>
        if r2 ≤ 3 then rounded fun md =>
          let x := c.getX r1
          rvFromInt f md (match r2 with | 0 => (x.setWidth 32).toInt | 1 => ((x.setWidth 32).toNat : Int) | 2 => x.toInt | _ => (x.toNat : Int))
        else none
      | 0x1C =>
        if r2 ≠ 0 then none
        else if f3 = 0 then toX (if n = 64 then c.getF r1 else rvSext 32 (c.getF r1).toNat) 0
        else if f3 = 1 then toX (BitVec.ofNat 64 (rvFclass f (c.fbits n r1))) 0 else none
      | 0x1E => if r2 = 0 && f3 = 0 then put ((c.getX r1).toNat, 0) else none
      | _ => none
  | _ => none

/-- The addresses that a float load reads. -/
def RvCore.floatLoads (c : RvCore) (i : Word) : List Nat :=
  if i.toNat % 128 = 0x07 then rvSpan (c.getX (rvRs1 i) + rvImmI i) (2 ^ (rvF3 i % 4)) else []

end Sys2Proof
end

