-- ==== Sys2Proof/Machine/RvVec.lean ====
section
/-! DEFINITION. The vector state of a copy engine's RV64GCV core (R13, R396): VLEN 512, ELEN 64; configuration, register groups, masks, which
encodings are legal, loads and stores. The instructions are RISC-V's vector extension 1.0 (log entry 5). -/
namespace Sys2Proof
open Machine

/-! ## Configuration -/

/-- Eight times LMUL, of the three bits of vlmul; 0 for the reserved code. -/
def rvLmul8 (code : Nat) : Nat :=
  match code with
  | 0 => 8 | 1 => 16 | 2 => 32 | 3 => 64 | 5 => 1 | 6 => 2 | 7 => 4 | _ => 0
/-- Is a vtype one that the core supports? -/
def rvVtypeOk (t : Nat) : Bool :=
  t < 256 && rvLmul8 (t % 8) != 0 && t / 8 % 8 ≤ 3 && 2 ^ (t / 8 % 8 + 3) ≤ rvLmul8 (t % 8) * 8
/-- VLMAX. -/
def rvVlmax (t : Nat) : Nat := rvLmul8 (t % 8) * 64 / 2 ^ (t / 8 % 8 + 3)
/-- The vl that vset{i}vl{i} gives: it may choose where the length lies between VLMAX and twice that. -/
def rvNewVl (avl vlmax : Nat) : Nat :=
  if avl ≤ vlmax then avl else if 2 * vlmax ≤ avl then vlmax else max ((avl + 1) / 2) (min vlmax (Config.rvLength avl vlmax))
/-- vset{i}vl{i}: with x0 as source and destination vl stays, and a VLMAX that differs is a vtype that is not supported. -/
def RvCore.vset (c : RvCore) (i : Word) : Option RvCore :=
  let rd := rvRd i
  let r1 := rvRs1 i
  let imm := rvField i 30 2 == 3
  let byReg := rvField i 31 1 == 1 && !imm
  if byReg && rvField i 25 7 ≠ 0x40 then none
  else
    let t := if byReg then (c.getX (rvRs2 i)).toNat else if imm then rvField i 20 10 else rvField i 20 11
    let keeps := !imm && r1 = 0 && rd = 0
    let avl := if imm then r1 else if r1 ≠ 0 then (c.getX r1).toNat else if rd ≠ 0 then 2 ^ 64 - 1 else c.vl.toNat
    let same := c.vtype.toNat < 2 ^ 63 && rvVlmax c.vtype.toNat == rvVlmax t
    if rvVtypeOk t && (!keeps || same) then
      let vl := BitVec.ofNat 64 (rvNewVl avl (rvVlmax t))
      some { c.setX rd vl with vl := vl, vtype := BitVec.ofNat 64 t, vstart := 0 }
    else some { c.setX rd 0 with vl := 0, vtype := 0x8000000000000000, vstart := 0 }

/-! ## Register groups -/

/-- Register v`r`. -/
def RvCore.getV (c : RvCore) (r : Nat) : BitVec 512 := sget (fun _ => 0) c.v r
/-- `k` registers from v`r` on, as one number. -/
def RvCore.group (c : RvCore) (r k : Nat) : Nat := (List.range k).foldl (fun n j => n + (c.getV (r + j)).toNat * 2 ^ (512 * j)) 0
/-- The core with such a group written. -/
def RvCore.setGroup (c : RvCore) (r k x : Nat) : RvCore :=
  { c with v := (List.range k).foldl (fun v j => sset (fun _ => 0) v (r + j) (BitVec.ofNat 512 (x / 2 ^ (512 * j)))) c.v }
/-- Element `i` of `n` bits. -/
def rvElem (n x i : Nat) : Nat := x / 2 ^ (n * i) % 2 ^ n
/-- The number of elements of `n` bits. -/
def rvPack (n : Nat) (l : List Nat) : Nat := l.foldr (fun x r => x % 2 ^ n + 2 ^ n * r) 0

/-- What a vector instruction works under: the element width, eight times LMUL, the body's bounds, the policies, its mask, the draw. -/
structure RvVecEnv where
  sew : Nat
  lmul8 : Nat
  vl : Nat
  vstart : Nat
  ta : Bool
  ma : Bool
  /-- Bit vm: the instruction has no mask. -/
  vm : Bool
  mask : Nat
  draw : Nat
  deriving DecidableEq, Repr

/-- It, for an instruction; none where vtype is not supported. -/
def RvCore.env (c : RvCore) (i : Word) (draw : Nat) : Option RvVecEnv :=
  let t := c.vtype.toNat
  if 2 ^ 63 ≤ t then none
  else some { sew := 2 ^ (t / 8 % 8 + 3), lmul8 := rvLmul8 (t % 8), vl := c.vl.toNat, vstart := c.vstart.toNat, ta := t / 64 % 2 == 1, ma := t / 128 % 2 == 1,
              vm := rvField i 25 1 == 1, mask := (c.getV 0).toNat, draw := draw }

/-- VLMAX. -/
def RvVecEnv.vlmax (e : RvVecEnv) : Nat := e.lmul8 * 64 / e.sew
/-- Eight times the EMUL of elements of `n` bits, and the registers of such a group. -/
def RvVecEnv.emul8 (e : RvVecEnv) (n : Nat) : Nat := e.lmul8 * n / e.sew
def RvVecEnv.regs (e : RvVecEnv) (n : Nat) : Nat := max 1 (e.emul8 n / 8)
/-- Is an element of the body active? -/
def RvVecEnv.active (e : RvVecEnv) (i : Nat) : Bool := e.vm || e.mask.testBit i
/-- The active elements of the body. -/
def RvVecEnv.actives (e : RvVecEnv) : List Nat := (List.range e.vl).filter fun i => e.vstart ≤ i && e.active i
/-- The same without a mask. -/
def RvVecEnv.unmasked (e : RvVecEnv) : RvVecEnv := { e with vm := true }

/-! ## Legal encodings: the reserved ones trap (log entry 5) -/

/-- May `r` be a group of elements of `n` bits? -/
def RvVecEnv.groupOk (e : RvVecEnv) (r n : Nat) : Bool := 8 ≤ n && n ≤ 64 && 1 ≤ e.emul8 n && e.emul8 n ≤ 64 && r % e.regs n == 0
/-- Do two ranges of registers meet? -/
def rvMeet (a k b l : Nat) : Bool := a < b + l && b < a + k
/-- May a destination of `n` bits overlap a source of `m`: of one width always, and else in the lowest part of a wider source, or in the
highest part of the destination of a narrower one that fills a register. -/
def RvVecEnv.overlapOk (e : RvVecEnv) (d n s m : Nat) : Bool :=
  !rvMeet d (e.regs n) s (e.regs m) || n == m || (n < m && d == s) || (m < n && 8 ≤ e.emul8 m && s + e.regs m == d + e.regs n)
/-- Is an instruction legal that writes a group of `n` bits from groups of the given registers and widths? -/
def RvVecEnv.legal (e : RvVecEnv) (d n : Nat) (srcs : List (Nat × Nat)) : Bool :=
  e.groupOk d n && (e.vm || d != 0) && srcs.all fun p => e.groupOk p.1 p.2 && e.overlapOk d n p.1 p.2
/-- The same for a mask as the destination. -/
def RvVecEnv.legalMask (e : RvVecEnv) (d : Nat) (srcs : List (Nat × Nat)) : Bool :=
  srcs.all fun p => e.groupOk p.1 p.2 && (!rvMeet d 1 p.1 (e.regs p.2) || d == p.1)

/-! ## Results -/

/-- What an element that a policy leaves open holds: ones or its old value. -/
def RvVecEnv.open_ (e : RvVecEnv) (agnostic : Bool) (n old i : Nat) : Nat := if agnostic && Config.rvAgnostic e.draw i then 2 ^ n - 1 else old
/-- A group of `k` registers from v`d` on written: the body from element `low` on by `f`, the rest by the policies. -/
def RvCore.vputFrom (c : RvCore) (e : RvVecEnv) (low d n k : Nat) (f : Nat → Nat) : RvCore :=
  if e.vl ≤ e.vstart then c
  else
    let old := c.group d k
    c.setGroup d k (rvPack n ((List.range (k * 512 / n)).map fun i =>
      if i < e.vl then (if i < max low e.vstart then rvElem n old i else if e.active i then f i else e.open_ e.ma n (rvElem n old i) i)
      else e.open_ e.ta n (rvElem n old i) i))
/-- The whole body written. -/
def RvCore.vput (c : RvCore) (e : RvVecEnv) (d n : Nat) (f : Nat → Nat) : RvCore := c.vputFrom e 0 d n (e.regs n) f
/-- A mask written: what lies beyond its body is open. -/
def RvCore.vputMask (c : RvCore) (e : RvVecEnv) (d : Nat) (f : Nat → Bool) : RvCore :=
  if e.vl ≤ e.vstart then c
  else
    let old := (c.getV d).toNat
    let bit (i : Nat) : Nat :=
      if i < e.vl then (if i < e.vstart then rvElem 1 old i else if e.active i then boolBit (f i) else e.open_ e.ma 1 (rvElem 1 old i) i)
      else boolBit (Config.rvAgnostic e.draw i)
    c.setGroup d 1 (rvPack 1 ((List.range 512).map bit))
/-- Element 0 of v`d` written; the others are a tail. -/
def RvCore.vputFirst (c : RvCore) (e : RvVecEnv) (d n x : Nat) : RvCore :=
  if e.vl ≤ e.vstart then c else c.vputFrom { e.unmasked with vl := 1, vstart := 0 } 0 d n 1 fun _ => x
/-- Flags accrued: of floats in fflags, of saturation in vxsat. -/
def RvCore.accrue (c : RvCore) (fl : Flags) : RvCore := { c.raise fl with vcsr := if fl &&& flagSat ≠ 0 then c.vcsr ||| 1 else c.vcsr }
/-- The core after a vector instruction. -/
def RvCore.vdone (c : RvCore) : RvCore := { c with vstart := 0 }
/-- Results with flags, of the active elements. -/
def RvCore.vdo (c : RvCore) (e : RvVecEnv) (d n : Nat) (f : Nat → Nat × Flags) : RvCore :=
  ((c.vput e d n fun i => (f i).1).accrue (orFlags (e.actives.map fun i => (f i).2))).vdone
/-- Conditions with flags, into a mask. -/
def RvCore.vdoMask (c : RvCore) (e : RvVecEnv) (d : Nat) (f : Nat → Bool × Flags) : RvCore :=
  ((c.vputMask e d fun i => (f i).1).accrue (orFlags (e.actives.map fun i => (f i).2))).vdone

/-! ## Loads and stores -/

/-- A vector load or store: its elements' width and fields, eight times EMUL, the body, the addresses by element and field. -/
structure RvVecMem where
  env : RvVecEnv
  width : Nat
  fields : Nat
  regs : Nat
  addr : Nat → Nat → Nat
  firstFault : Bool := false

/-- The load or store that an instruction is; none where it is reserved. Its element width is 8, 16, 32 or 64 for funct3 0, 5, 6 and 7. -/
def RvCore.vecMem (c : RvCore) (i : Word) (load : Bool) (draw : Nat) : Option RvVecMem :=
  let f3 := rvF3 i
  if f3 ≠ 0 && f3 < 5 || rvField i 28 1 = 1 then none
  else
    let w := if f3 = 0 then 8 else 2 ^ (f3 - 1)
    let nf := rvField i 29 3 + 1
    let base := (c.getX (rvRs1 i)).toNat
    let vm := rvField i 25 1 == 1
    let d := rvRd i
    let unit (n : Nat) (e f : Nat) : Nat := (base + (e * nf + f) * (n / 8)) % 2 ^ 64
    if rvField i 26 2 = 0 && rvRs2 i = 8 then
      if vm && (nf = 1 || nf = 2 || nf = 4 || nf = 8) && d % nf == 0 && (load || w = 8) then
        some { env := { sew := w, lmul8 := 8 * nf, vl := nf * 512 / w, vstart := c.vstart.toNat, ta := false, ma := false, vm := true, mask := 0, draw := draw },
               width := w, fields := 1, regs := nf, addr := fun e _ => (base + e * (w / 8)) % 2 ^ 64 }
      else none
    else
      match c.env i draw with
      | none => none
      | some e =>
        match rvField i 26 2 with
        | 0 =>
          if rvRs2 i = 0x0B then
            if vm && nf = 1 && w = 8 then
              some { env := { e with sew := 8, lmul8 := 8, vl := (e.vl + 7) / 8, ta := true }, width := 8, fields := 1, regs := 1, addr := unit 8 }
            else none
          else if rvRs2 i ≠ 0 && (rvRs2 i ≠ 0x10 || !load) then none
          else if e.groupOk d w && nf * e.regs w ≤ 8 && d + nf * e.regs w ≤ 32 && (!load || vm || d != 0) then
            some { env := e, width := w, fields := nf, regs := e.regs w, addr := unit w, firstFault := rvRs2 i == 0x10 }
          else none
        | 2 =>
          if e.groupOk d w && nf * e.regs w ≤ 8 && d + nf * e.regs w ≤ 32 && (!load || vm || d != 0) then
            let stride := (c.getX (rvRs2 i)).toNat
            some { env := e, width := w, fields := nf, regs := e.regs w, addr := fun k f => (base + k * stride + f * (w / 8)) % 2 ^ 64 }
          else none
        | _ =>
          let s := rvRs2 i
          let k := e.regs e.sew
          if e.groupOk d e.sew && e.groupOk s w && nf * k ≤ 8 && d + nf * k ≤ 32 && (!load || vm || d != 0)
              && (!load || (if nf = 1 then e.overlapOk d e.sew s w else !rvMeet d (nf * k) s (e.regs w))) then
            let index := c.group s (e.regs w)
            some { env := e, width := e.sew, fields := nf, regs := k, addr := fun n f => (base + rvElem w index n + f * (e.sew / 8)) % 2 ^ 64 }
          else none

/-- The elements of an access with their addresses, in order. -/
def RvVecMem.places (m : RvVecMem) : List (Nat × Nat × Nat) :=
  m.env.actives.flatMap fun e => (List.range m.fields).map fun f => (e, f, m.addr e f)
/-- Are they all such as the core completes? -/
def RvVecMem.aligned (m : RvVecMem) : Bool := m.places.all fun p => rvAligned (BitVec.ofNat 64 p.2.2) (m.width / 8)
/-- The addresses of its bytes. -/
def RvVecMem.bytes (m : RvVecMem) : List Nat := m.places.flatMap fun p => rvSpan (BitVec.ofNat 64 p.2.2) (m.width / 8)

/-- A load's results: a fault-only-first load is cut at the first element whose bytes are not there, but for element 0. -/
def RvCore.vecLoad (c : RvCore) (d : Nat) (m : RvVecMem) (loaded : List Byte) : Option RvCore :=
  let per := m.fields * (m.width / 8)
  let els := m.env.actives
  let there := loaded.length / per
  match (if m.firstFault then els[there]? else none) with
  | some 0 => none
  | cut =>
    let vl := cut.getD m.env.vl
    let e := { m.env with vl := vl }
    let x (k f : Nat) : Nat := ofBytes ((loaded.drop ((els.takeWhile (· != k)).length * per + f * (m.width / 8))).take (m.width / 8))
    let done := (List.range m.fields).foldl (fun (y : RvCore) f => y.vputFrom e 0 (d + f * m.regs) m.width m.regs fun k => x k f) c
    some ({ done with vl := if cut.isSome then BitVec.ofNat 64 vl else done.vl }).vdone
/-- A store's bytes. -/
def RvCore.vecStore (c : RvCore) (d : Nat) (m : RvVecMem) : List (Nat × Byte) :=
  m.places.flatMap fun p => rvPut (BitVec.ofNat 64 p.2.2) (m.width / 8) (rvElem m.width (c.group (d + p.2.1 * m.regs) m.regs) p.1)

end Sys2Proof
end

