-- ==== Sys2Proof/Machine/RvVecOps.lean ====
section
/-! DEFINITION. Vector arithmetic, permutations, reductions and masks of a copy engine's RV64GCV core, and the whole of what one of its
instructions does (R13, R396, R400). The instructions are RISC-V's vector extension 1.0 (log entry 5). -/
namespace Sys2Proof
open Machine

/-! ## Operands -/

/-- Is the second operand a vector? -/
def rvIsVV (i : Word) : Bool := rvF3 i ≤ 2
/-- The second operand of element `k`, of `n` bits: v, x, f or five immediate bits, signed. -/
def RvCore.vopnd (c : RvCore) (e : RvVecEnv) (i : Word) (n k : Nat) : Nat :=
  match rvF3 i with
  | 3 => (rvSext 5 (rvRs1 i)).toNat % 2 ^ n
  | 4 | 6 => (c.getX (rvRs1 i)).toNat % 2 ^ n
  | 5 => c.fbits n (rvRs1 i)
  | _ => rvElem n (c.group (rvRs1 i) (e.regs n)) k
/-- The vector sources of an instruction with operands of `n2` and `n1` bits. -/
def rvSrcs (i : Word) (n2 n1 : Nat) : List (Nat × Nat) := (rvRs2 i, n2) :: if rvIsVV i then [(rvRs1 i, n1)] else []
/-- An operation on elements of v[rs2], the second operand and the destination, of the given widths. -/
def RvCore.vbin (c : RvCore) (e : RvVecEnv) (i : Word) (n2 n1 n : Nat) (f : Nat → Nat → Nat → Nat × Flags) : Option RvCore :=
  let d := rvRd i
  if e.legal d n (rvSrcs i n2 n1) then
    let a := c.group (rvRs2 i) (e.regs n2)
    let old := c.group d (e.regs n)
    some (c.vdo e d n fun k => f (rvElem n2 a k) (c.vopnd e i n1 k) (rvElem n old k))
  else none
/-- The same with a mask as the destination; the index of the element is given too. -/
def RvCore.vtest (c : RvCore) (e : RvVecEnv) (i : Word) (f : Nat → Nat → Nat → Bool × Flags) : Option RvCore :=
  if e.legalMask (rvRd i) (rvSrcs i e.sew e.sew) then
    let a := c.group (rvRs2 i) (e.regs e.sew)
    some (c.vdoMask e (rvRd i) fun k => f k (rvElem e.sew a k) (c.vopnd e i e.sew k))
  else none

/-- A number read as an integer, signed or not. -/
def rvInt (signed : Bool) (n x : Nat) : Int := if signed then rvSigned n x else (x % 2 ^ n : Nat)
/-- An integer's bits. -/
def rvBits (n : Nat) (x : Int) : Nat := (x % (2 ^ n : Nat)).toNat
/-- An integer clamped to `n` bits, with the flag of a saturation. -/
def rvSat (signed : Bool) (n : Nat) (x : Int) : Nat × Flags :=
  let hi : Int := if signed then 2 ^ (n - 1) - 1 else 2 ^ n - 1
  let lo : Int := if signed then -(2 ^ (n - 1)) else 0
  if x > hi then (rvBits n hi, flagSat) else if x < lo then (rvBits n lo, flagSat) else (rvBits n x, 0)
/-- A number divided by 2^d and rounded as vxrm says: to the nearest, up or to even at a tie; down; to odd. -/
def rvRoundoff (vxrm : Nat) (x : Int) (d : Nat) : Int :=
  let q := x / (2 ^ d : Nat)
  let low := (x % (2 ^ d : Nat)).toNat
  let up := match vxrm with
    | 0 => d != 0 && decide (2 ^ d ≤ 2 * low)
    | 1 => d != 0 && (decide (2 ^ d < 2 * low) || (2 ^ d == 2 * low && q % 2 == 1))
    | 2 => false
    | _ => low != 0 && q % 2 == 0
  if up then q + 1 else q
/-- vxrm. -/
def RvCore.vxrm (c : RvCore) : Nat := c.vcsr.toNat / 2 % 4

/-! ## Integer arithmetic -/

/-- The operations of OPIVV, OPIVX and OPIVI on elements of one width; none where it is another kind, or the form is reserved. Sums and
differences, minima and maxima, logic, shifts, saturating and scaling operations. -/
def rvIvAlu (vxrm n f6 f3 : Nat) : Option (Nat → Nat → Nat × Flags) :=
  let vv := f3 = 0
  let vi := f3 = 3
  let s (x : Nat) : Int := rvInt true n x
  let u (x : Nat) : Int := rvInt false n x
  let plain (g : Nat → Nat → Int) : Option (Nat → Nat → Nat × Flags) := some fun a b => (rvBits n (g a b), 0)
  let sat (signed : Bool) (g : Nat → Nat → Int) : Option (Nat → Nat → Nat × Flags) := some fun a b => rvSat signed n (g a b)
  match f6 with
  | 0x00 => plain fun a b => u a + u b
  | 0x02 => if vi then none else plain fun a b => u a - u b
  | 0x03 => if vv then none else plain fun a b => u b - u a
  | 0x04 => if vi then none else plain fun a b => min (u a) (u b)
  | 0x05 => if vi then none else plain fun a b => min (s a) (s b)
  | 0x06 => if vi then none else plain fun a b => max (u a) (u b)
  | 0x07 => if vi then none else plain fun a b => max (s a) (s b)
  | 0x09 => plain fun a b => (a &&& b : Nat)
  | 0x0A => plain fun a b => (a ||| b : Nat)
  | 0x0B => plain fun a b => (a ^^^ b : Nat)
  | 0x20 => sat false fun a b => u a + u b
  | 0x21 => sat true fun a b => s a + s b
  | 0x22 => if vi then none else sat false fun a b => u a - u b
  | 0x23 => if vi then none else sat true fun a b => s a - s b
  | 0x25 => plain fun a b => u a * (2 ^ (b % n) : Nat)
  | 0x27 => if vi then none else sat true fun a b => rvRoundoff vxrm (s a * s b) (n - 1)
  | 0x28 => plain fun a b => u a / (2 ^ (b % n) : Nat)
  | 0x29 => plain fun a b => s a / (2 ^ (b % n) : Nat)
  | 0x2A => plain fun a b => rvRoundoff vxrm (u a) (b % n)
  | 0x2B => plain fun a b => rvRoundoff vxrm (s a) (b % n)
  | _ => none
/-- The comparisons of OPIVV, OPIVX and OPIVI. -/
def rvIvCmp (n f6 f3 : Nat) : Option (Nat → Nat → Bool) :=
  let s (x : Nat) : Int := rvInt true n x
  match f6 with
  | 0x18 => some fun a b => a == b
  | 0x19 => some fun a b => a != b
  | 0x1A => if f3 = 3 then none else some fun a b => a < b
  | 0x1B => if f3 = 3 then none else some fun a b => s a < s b
  | 0x1C => some fun a b => a ≤ b
  | 0x1D => some fun a b => s a ≤ s b
  | 0x1E => if f3 = 0 then none else some fun a b => b < a
  | 0x1F => if f3 = 0 then none else some fun a b => s b < s a
  | _ => none
/-- The operations of OPMVV and OPMVX on elements of one width, with the old element of the destination. -/
def rvMvAlu (vxrm n f6 : Nat) : Option (Nat → Nat → Nat → Nat) :=
  let s (x : Nat) : Int := rvInt true n x
  let u (x : Nat) : Int := rvInt false n x
  let plain (g : Nat → Nat → Nat → Int) : Option (Nat → Nat → Nat → Nat) := some fun a b o => rvBits n (g a b o)
  let bv (g : BitVec n → BitVec n → BitVec n) : Option (Nat → Nat → Nat → Nat) := some fun a b _ => (g (BitVec.ofNat n a) (BitVec.ofNat n b)).toNat
  match f6 with
  | 0x08 => plain fun a b _ => rvRoundoff vxrm (u a + u b) 1
  | 0x09 => plain fun a b _ => rvRoundoff vxrm (s a + s b) 1
  | 0x0A => plain fun a b _ => rvRoundoff vxrm (u a - u b) 1
  | 0x0B => plain fun a b _ => rvRoundoff vxrm (s a - s b) 1
  | 0x20 => bv (rvDiv false)
  | 0x21 => bv (rvDiv true)
  | 0x22 => bv (rvRem false)
  | 0x23 => bv (rvRem true)
  | 0x24 => bv (rvMulh false false)
  | 0x25 => plain fun a b _ => u a * u b
  | 0x26 => bv (rvMulh true false)
  | 0x27 => bv (rvMulh true true)
  | 0x29 => plain fun a b o => u b * u o + u a
  | 0x2B => plain fun a b o => u a - u b * u o
  | 0x2D => plain fun a b o => u b * u a + u o
  | 0x2F => plain fun a b o => u o - u b * u a
  | _ => none
/-- Those with a destination of twice the width: whether v[rs2] is wide too, and the result. -/
def rvMvWide (n f6 : Nat) : Option (Bool × (Nat → Nat → Nat → Int)) :=
  let s (x : Nat) : Int := rvInt true n x
  let u (x : Nat) : Int := rvInt false n x
  match f6 with
  | 0x30 => some (false, fun a b _ => u a + u b)
  | 0x31 => some (false, fun a b _ => s a + s b)
  | 0x32 => some (false, fun a b _ => u a - u b)
  | 0x33 => some (false, fun a b _ => s a - s b)
  | 0x34 => some (true, fun a b _ => a + u b)
  | 0x35 => some (true, fun a b _ => a + s b)
  | 0x36 => some (true, fun a b _ => a - u b)
  | 0x37 => some (true, fun a b _ => a - s b)
  | 0x38 => some (false, fun a b _ => u a * u b)
  | 0x3A => some (false, fun a b _ => s a * u b)
  | 0x3B => some (false, fun a b _ => s a * s b)
  | 0x3C => some (false, fun a b o => o + u b * u a)
  | 0x3D => some (false, fun a b o => o + s b * s a)
  | 0x3E => some (false, fun a b o => o + u b * s a)
  | 0x3F => some (false, fun a b o => o + s b * u a)
  | _ => none

/-! ## Permutations -/

/-- The offset or index of a slide or gather: x, or five immediate bits without a sign. -/
def RvCore.vscalar (c : RvCore) (i : Word) : Nat := if rvF3 i = 3 then rvRs1 i else (c.getX (rvRs1 i)).toNat
/-- Is a permutation legal, whose destination meets none of its sources? -/
def RvVecEnv.legalApart (e : RvVecEnv) (d : Nat) (srcs : List (Nat × Nat)) : Bool :=
  e.legal d e.sew srcs && srcs.all fun p => !rvMeet d (e.regs e.sew) p.1 (e.regs p.2)
/-- vrgather, vrgatherei16, vslideup and vslidedown. -/
def RvCore.vpermute (c : RvCore) (e : RvVecEnv) (i : Word) : Option RvCore :=
  let d := rvRd i
  let n := e.sew
  let a := c.group (rvRs2 i) (e.regs n)
  let at_ (k : Nat) : Nat := if k < e.vlmax then rvElem n a k else 0
  let vv := rvF3 i = 0
  match rvField i 26 6 with
  | 0x0C =>
    if e.legalApart d (rvSrcs i n n) then
      some (c.vput e d n fun k => at_ (if vv then c.vopnd e i n k else c.vscalar i)).vdone
    else none
  | 0x0E =>
    if vv then
      if e.legalApart d [(rvRs2 i, n), (rvRs1 i, 16)] then some (c.vput e d n fun k => at_ (rvElem 16 (c.group (rvRs1 i) (e.regs 16)) k)).vdone else none
    else if e.legalApart d [(rvRs2 i, n)] then some (c.vputFrom e (c.vscalar i) d n (e.regs n) fun k => at_ (k - c.vscalar i)).vdone else none
  | 0x0F => if !vv && e.legal d n [(rvRs2 i, n)] then some (c.vput e d n fun k => at_ (k + c.vscalar i)).vdone else none
  | _ => none
/-- vslide1up and vslide1down, with the scalar that comes in. -/
def RvCore.vslide1 (c : RvCore) (e : RvVecEnv) (i : Word) (up : Bool) (x : Nat) : Option RvCore :=
  let d := rvRd i
  let n := e.sew
  let a := c.group (rvRs2 i) (e.regs n)
  if up then
    if e.legalApart d [(rvRs2 i, n)] then some (c.vput e d n fun k => if k = 0 then x else rvElem n a (k - 1)).vdone else none
  else if e.legal d n [(rvRs2 i, n)] then some (c.vput e d n fun k => if k + 1 = e.vl then x else rvElem n a (k + 1)).vdone else none
/-- vcompress: the elements that a mask selects, from element 0 on; the rest is a tail. -/
def RvCore.vcompress (c : RvCore) (e : RvVecEnv) (i : Word) : Option RvCore :=
  let d := rvRd i
  let n := e.sew
  let m := (c.getV (rvRs1 i)).toNat
  if e.vm && e.vstart = 0 && e.legalApart d [(rvRs2 i, n)] && !rvMeet d (e.regs n) (rvRs1 i) 1 then
    let a := c.group (rvRs2 i) (e.regs n)
    let sel := (List.range e.vl).filter m.testBit
    some (if e.vl = 0 then c else c.vput { e with vl := max 1 sel.length } d n fun k => if sel.isEmpty then e.open_ e.ta n (rvElem n (c.group d (e.regs n)) 0) 0 else rvElem n a (sel.getD k 0)).vdone
  else none

/-! ## Masks and reductions -/

/-- The eight operations on masks. -/
def rvMaskOp (f6 : Nat) (a b : Bool) : Bool :=
  match f6 with
  | 0x18 => a && !b
  | 0x19 => a && b
  | 0x1A => a || b
  | 0x1B => a != b
  | 0x1C => a || !b
  | 0x1D => !(a && b)
  | 0x1E => !(a || b)
  | _ => a == b
/-- vmsbf, vmsof, vmsif, viota and vid. -/
def RvCore.vmunary (c : RvCore) (e : RvVecEnv) (i : Word) : Option RvCore :=
  let d := rvRd i
  let s := rvRs2 i
  let m := (c.getV s).toNat
  let on (k : Nat) : Bool := m.testBit k && e.active k
  let first := (List.range e.vl).find? on
  let before (k : Nat) : Bool := first.all fun x => k < x
  let mask (f : Nat → Bool) : Option RvCore := if e.vstart = 0 && d != s && (e.vm || d != 0) then some (c.vputMask e d f).vdone else none
  match rvRs1 i with
  | 1 => mask before
  | 2 => mask fun k => first == some k
  | 3 => mask fun k => before k || first == some k
  | 0x10 =>
    if e.vstart = 0 && e.legal d e.sew [] && !rvMeet d (e.regs e.sew) s 1 then
      some (c.vput e d e.sew fun k => ((List.range k).filter on).length).vdone
    else none
  | 0x11 => if s = 0 && e.legal d e.sew [] then some (c.vput e d e.sew fun k => k).vdone else none
  | _ => none
/-- The reductions of OPMVV. -/
def rvRed (n f6 : Nat) (a b : Nat) : Nat :=
  let s (x : Nat) : Int := rvInt true n x
  match f6 with
  | 0 => a + b
  | 1 => a &&& b
  | 2 => a ||| b
  | 3 => a ^^^ b
  | 4 => min a b
  | 5 => if s a < s b then a else b
  | 6 => max a b
  | _ => if s a < s b then b else a
/-- A reduction of the active elements of v[rs2], of `n` bits, onto element 0 of v[rs1], of `k` bits. -/
def RvCore.vreduce (c : RvCore) (e : RvVecEnv) (i : Word) (n k : Nat) (f : Nat → Nat → Nat × Flags) : Option RvCore :=
  if e.vstart ≠ 0 || !e.groupOk (rvRs2 i) n || k > 64 then none
  else
    let a := c.group (rvRs2 i) (e.regs n)
    let r := e.actives.foldl (fun (y : Nat × Flags) j => let z := f y.1 (rvElem n a j); (z.1, y.2 ||| z.2)) (rvElem k (c.getV (rvRs1 i)).toNat 0, 0)
    some ((c.vputFirst e (rvRd i) k r.1).accrue r.2).vdone

/-! ## Floats -/

/-- 1/√x to seven bits. -/
def rvRsqrt7 (f : FFmt) (b : Nat) : Nat × Flags :=
  match f.value false b with
  | .nan _ _ s => (f.canon, if s then flagInvalid else 0)
  | .inf neg => if neg then (f.canon, flagInvalid) else (0, 0)
  | .fin neg m e =>
    if m = 0 then (f.signed neg f.infBits, flagDivzero)
    else if neg then (f.canon, flagInvalid)
    else
      -- The exponent as a normal number has it, and the six bits of the fraction below its highest.
      let ex : Int := e + Nat.log2 m + f.bias
      let hi := m * 2 ^ f.fbits / 2 ^ Nat.log2 m % 2 ^ f.fbits / 2 ^ (f.fbits - 6)
      let odd := ex % 2 != 0
      -- t is the number nearest to 256/√y for the middle y of the interval: y is (129 + 2·hi)/128, doubled for an even exponent.
      let y := (129 + 2 * hi) * (if odd then 1 else 2)
      let t := ((List.range 256).filter fun t => (2 * t + 1) * (2 * t + 1) * y < 4 * 65536 * 128).length
      ((((3 * f.bias : Nat) - 1 - ex) / 2).toNat * 2 ^ f.fbits + (t - 128) * 2 ^ (f.fbits - 7), 0)
/-- 1/x to seven bits. -/
def rvRec7 (f : FFmt) (md : FMode) (b : Nat) : Nat × Flags :=
  match f.value false b with
  | .nan _ _ s => (f.canon, if s then flagInvalid else 0)
  | .inf neg => (f.signed neg 0, 0)
  | .fin neg m e =>
    if m = 0 then (f.signed neg f.infBits, flagDivzero)
    else
      let ex : Int := e + Nat.log2 m + f.bias
      let hi := m * 2 ^ f.fbits / 2 ^ Nat.log2 m % 2 ^ f.fbits / 2 ^ (f.fbits - 7)
      let t := (2 * 65536 + (2 * hi + 257)) / (2 * (2 * hi + 257)) - 128
      let out : Int := (2 * f.bias : Nat) - 1 - ex
      if ex < -1 then (f.overflow md neg, flagOverflow ||| flagInexact)
      else if out ≥ 1 then (f.signed neg (out.toNat * 2 ^ f.fbits + t * 2 ^ (f.fbits - 7)), 0)
      else (f.signed neg ((2 ^ f.fbits + t * 2 ^ (f.fbits - 7)) / 2 ^ (1 - out).toNat), 0)

/-- The operations of OPFVV and OPFVF on elements of one width; the forms with a scalar alone are reserved with a vector. -/
def rvFvAlu (f : FFmt) (md : FMode) (vf : Bool) (f6 : Nat) : Option (Nat → Nat → Nat → Nat × Flags) :=
  let v (x : Nat) : FVal := f.value false x
  let bin (g : FVal → FVal → Nat × Flags) : Option (Nat → Nat → Nat → Nat × Flags) := some fun a b _ => g (v a) (v b)
  let fma (np na acc : Bool) : Option (Nat → Nat → Nat → Nat × Flags) :=
    some fun a b o => if acc then rvFma f md np na (v b) (v a) (v o) else rvFma f md np na (v b) (v o) (v a)
  match f6 with
  | 0x00 => bin (f.add md)
  | 0x02 => bin (f.sub md)
  | 0x04 => some fun a b _ => minMaxVal f {} false (v a) (v b) a b
  | 0x06 => some fun a b _ => minMaxVal f {} true (v a) (v b) a b
  | 0x08 => some fun a b _ => (rvSgnj f 0 a b, 0)
  | 0x09 => some fun a b _ => (rvSgnj f 1 a b, 0)
  | 0x0A => some fun a b _ => (rvSgnj f 2 a b, 0)
  | 0x20 => bin (rvFdiv f md)
  | 0x21 => if vf then bin fun a b => rvFdiv f md b a else none
  | 0x24 => bin (f.mul md)
  | 0x27 => if vf then bin fun a b => f.sub md b a else none
  | 0x28 => fma false false false
  | 0x29 => fma true true false
  | 0x2A => fma false true false
  | 0x2B => fma true false false
  | 0x2C => fma false false true
  | 0x2D => fma true true true
  | 0x2E => fma false true true
  | 0x2F => fma true false true
  | _ => none
/-- Those with a destination of twice the width. -/
def rvFvWide (md : FMode) (f6 : Nat) : Option (Bool × (Nat → Nat → Nat → Nat × Flags)) :=
  let s (x : Nat) : FVal := fp32.value false x
  let w (x : Nat) : FVal := fp64.value false x
  let fma (np na : Bool) : Option (Bool × (Nat → Nat → Nat → Nat × Flags)) := some (false, fun a b o => rvFma fp64 md np na (s b) (s a) (w o))
  match f6 with
  | 0x30 => some (false, fun a b _ => fp64.add md (s a) (s b))
  | 0x32 => some (false, fun a b _ => fp64.sub md (s a) (s b))
  | 0x34 => some (true, fun a b _ => fp64.add md (w a) (s b))
  | 0x36 => some (true, fun a b _ => fp64.sub md (w a) (s b))
  | 0x38 => some (false, fun a b _ => fp64.mul md (s a) (s b))
  | 0x3C => fma false false
  | 0x3D => fma true true
  | 0x3E => fma false true
  | 0x3F => fma true false
  | _ => none
/-- The comparisons; those with a scalar alone are reserved with a vector. -/
def rvFvCmp (f : FFmt) (vf : Bool) (f6 : Nat) : Option (Nat → Nat → Bool × Flags) :=
  let v (x : Nat) : FVal := f.value false x
  match f6 with
  | 0x18 => some fun a b => rvFcmp 2 (v a) (v b)
  | 0x19 => some fun a b => rvFcmp 0 (v a) (v b)
  | 0x1B => some fun a b => rvFcmp 1 (v a) (v b)
  | 0x1C => some fun a b => let r := rvFcmp 2 (v a) (v b); (!r.1, r.2)
  | 0x1D => if vf then some fun a b => rvFcmp 1 (v b) (v a) else none
  | 0x1F => if vf then some fun a b => rvFcmp 0 (v b) (v a) else none
  | _ => none
/-- The conversions of VFUNARY0: the widths of source and destination, and the result. -/
def rvFvConvert (md : FMode) (n r1 : Nat) : Option (Nat × Nat × (Nat → Nat × Flags)) :=
  let rz : FMode := { rnd := .rz }
  let toI (mode : FMode) (from_ dst : Nat) (signed : Bool) : Option (Nat × Nat × (Nat → Nat × Flags)) :=
    if from_ = 32 || from_ = 64 then some (from_, dst, fun x => rvToInt mode dst signed ((rvFmt from_).value false x)) else none
  let fromI (from_ dst : Nat) (signed : Bool) : Option (Nat × Nat × (Nat → Nat × Flags)) :=
    if dst = 32 || dst = 64 then some (from_, dst, fun x => rvFromInt (rvFmt dst) md (rvInt signed from_ x)) else none
  let odd (x : Nat) : Nat × Flags :=
    match fp64.value false x with
    | .fin neg m e =>
      let r := fp32.round { rnd := .rz } neg m e false
      if r.2 &&& flagInexact ≠ 0 && r.1 % 2 = 0 then (r.1 + 1, r.2) else r
    | y => fp32.roundVal md y
  match r1 with
  | 0x00 => toI md n n false
  | 0x01 => toI md n n true
  | 0x02 => fromI n n false
  | 0x03 => fromI n n true
  | 0x06 => toI rz n n false
  | 0x07 => toI rz n n true
  | 0x08 => toI md n (2 * n) false
  | 0x09 => toI md n (2 * n) true
  | 0x0A => fromI n (2 * n) false
  | 0x0B => fromI n (2 * n) true
  | 0x0C => if n = 32 then some (32, 64, fun x => fp64.roundVal md (fp32.value false x)) else none
  | 0x0E => toI rz n (2 * n) false
  | 0x0F => toI rz n (2 * n) true
  | 0x10 => toI md (2 * n) n false
  | 0x11 => toI md (2 * n) n true
  | 0x12 => fromI (2 * n) n false
  | 0x13 => fromI (2 * n) n true
  | 0x14 => if n = 32 then some (64, 32, fun x => fp32.roundVal md (fp64.value false x)) else none
  | 0x15 => if n = 32 then some (64, 32, odd) else none
  | 0x16 => toI rz (2 * n) n false
  | 0x17 => toI rz (2 * n) n true
  | _ => none
/-- The addition or the least or greatest of a float reduction. -/
def rvFvRed (f : FFmt) (md : FMode) (f6 : Nat) (a b : Nat) : Nat × Flags :=
  let v (x : Nat) : FVal := f.value false x
  match f6 with
  | 5 => minMaxVal f {} false (v a) (v b) a b
  | 7 => minMaxVal f {} true (v a) (v b) a b
  | _ => f.add md (v a) (v b)

/-! ## The instructions -/

/-- An instruction on one source of another width: extensions, conversions and other functions of one operand. -/
def RvCore.vunary (c : RvCore) (e : RvVecEnv) (i : Word) (n2 n : Nat) (f : Nat → Nat × Flags) : Option RvCore :=
  if e.legal (rvRd i) n [(rvRs2 i, n2)] then
    let a := c.group (rvRs2 i) (e.regs n2)
    some (c.vdo e (rvRd i) n fun k => f (rvElem n2 a k))
  else none

/-- OPIVV, OPIVX and OPIVI. -/
def RvCore.vecInt (c : RvCore) (e : RvVecEnv) (i : Word) : Option RvCore :=
  let d := rvRd i
  let n := e.sew
  let f3 := rvF3 i
  let f6 := rvField i 26 6
  let m := e.mask
  let all := e.unmasked
  let cin (k : Nat) : Int := (boolBit (m.testBit k) : Nat)
  let narrow (g : Nat → Nat → Nat × Flags) : Option RvCore := c.vbin e i (2 * n) n n fun a b _ => g a (if f3 = 3 then rvRs1 i else b)
  let carry (sub : Bool) : Option RvCore :=
    if e.vm || d = 0 || !e.legal d n (rvSrcs i n n) then none
    else
      let a := c.group (rvRs2 i) (e.regs n)
      some (c.vput all d n fun k => let x : Int := rvElem n a k; let y : Int := c.vopnd e i n k; rvBits n (if sub then x - y - cin k else x + y + cin k)).vdone
  let carryOut (sub : Bool) : Option RvCore :=
    c.vtest all i fun k a b => let y : Int := b + (if e.vm then 0 else cin k); (if sub then (a : Int) < y else 2 ^ n ≤ (a : Int) + y, 0)
  match f6 with
  | 0x0C | 0x0E | 0x0F => c.vpermute e i
  | 0x10 => carry false
  | 0x11 => carryOut false
  | 0x12 => if f3 = 3 then none else carry true
  | 0x13 => if f3 = 3 then none else carryOut true
  | 0x17 =>
    if e.vm then
      if rvRs2 i = 0 && e.groupOk d n && (!rvIsVV i || e.groupOk (rvRs1 i) n) then some (c.vput all d n fun k => c.vopnd e i n k).vdone else none
    else if e.legal d n (rvSrcs i n n) then
      let a := c.group (rvRs2 i) (e.regs n)
      some (c.vput all d n fun k => if m.testBit k then c.vopnd e i n k else rvElem n a k).vdone
    else none
  | 0x2C => narrow fun a b => (a / 2 ^ (b % (2 * n)) % 2 ^ n, 0)
  | 0x2D => narrow fun a b => (rvBits n (rvInt true (2 * n) a / (2 ^ (b % (2 * n)) : Nat)), 0)
  | 0x2E => narrow fun a b => rvSat false n (rvRoundoff c.vxrm a (b % (2 * n)))
  | 0x2F => narrow fun a b => rvSat true n (rvRoundoff c.vxrm (rvInt true (2 * n) a) (b % (2 * n)))
  | 0x30 => if f3 = 0 then c.vreduce e i n (2 * n) fun a b => ((a + b) % 2 ^ (2 * n), 0) else none
  | 0x31 => if f3 = 0 then c.vreduce e i n (2 * n) fun a b => (rvBits (2 * n) (a + rvInt true n b), 0) else none
  | _ =>
    if f6 = 0x27 && f3 = 3 then
      let k := rvRs1 i + 1
      if e.vm && (k = 1 || k = 2 || k = 4 || k = 8) && d % k == 0 && rvRs2 i % k == 0 then
        let a := c.group (rvRs2 i) k
        some (c.vputFrom { e with vl := k * 512 / n } 0 d n k fun j => rvElem n a j).vdone
      else none
    else
      match rvIvCmp n f6 f3, rvIvAlu c.vxrm n f6 f3 with
      | some g, _ => c.vtest e i fun _ a b => (g a b, 0)
      | _, some g => c.vbin e i n n n fun a b _ => g a (if f3 = 3 && (f6 = 0x25 || 0x28 ≤ f6) then rvRs1 i else b)
      | _, _ => none

/-- OPMVV and OPMVX. -/
def RvCore.vecMul (c : RvCore) (e : RvVecEnv) (i : Word) : Option RvCore :=
  let d := rvRd i
  let n := e.sew
  let vv := rvF3 i = 2
  let f6 := rvField i 26 6
  let r1 := rvRs1 i
  let s := rvRs2 i
  let m := (c.getV s).toNat
  let on := e.actives.filter m.testBit
  if f6 ≤ 7 then (if vv then c.vreduce e i n n fun a b => (rvRed n f6 a b % 2 ^ n, 0) else none)
  else if f6 = 0x0E || f6 = 0x0F then (if vv then none else c.vslide1 e i (f6 = 0x0E) ((c.getX r1).toNat % 2 ^ n))
  else if f6 = 0x10 then
    if vv then
      match r1 with
      | 0 => if e.vm then some (c.setX d (rvSext n (rvElem n m 0))).vdone else none
      | 0x10 => if e.vstart = 0 then some (c.setX d (BitVec.ofNat 64 on.length)).vdone else none
      | 0x11 => if e.vstart = 0 then some (c.setX d (on.head?.elim (BitVec.allOnes 64) (BitVec.ofNat 64))).vdone else none
      | _ => none
    else if s = 0 && e.vm then some (c.vputFirst e d n ((c.getX r1).toNat % 2 ^ n)).vdone else none
  else if f6 = 0x12 then
    if !vv || r1 < 2 || 7 < r1 then none
    else
      let k := n / 2 ^ (4 - r1 / 2)
      c.vunary e i k n fun x => (rvBits n (rvInt (r1 % 2 == 1) k x), 0)
  else if f6 = 0x14 then (if vv then c.vmunary e i else none)
  else if f6 = 0x17 then (if vv then c.vcompress e i else none)
  else if 0x18 ≤ f6 && f6 ≤ 0x1F then
    if vv && e.vm then some (c.vputMask e d fun k => rvMaskOp f6 (m.testBit k) ((c.getV r1).toNat.testBit k)).vdone else none
  else if f6 ≥ 0x30 then
    match rvMvWide n f6 with
    | some (wide, g) => if f6 = 0x3E && vv then none else c.vbin e i (if wide then 2 * n else n) n (2 * n) fun a b o => (rvBits (2 * n) (g a b o), 0)
    | none => none
  else
    match rvMvAlu c.vxrm n f6 with
    | some g => c.vbin e i n n n fun a b o => (g a b o, 0)
    | none => none

/-- OPFVV and OPFVF: on 32 and 64 bits, under a rounding mode that is valid. -/
def RvCore.vecFloat (c : RvCore) (e : RvVecEnv) (draw : Nat) (i : Word) : Option RvCore :=
  let d := rvRd i
  let n := e.sew
  let vf := rvF3 i = 5
  let f6 := rvField i 26 6
  let r1 := rvRs1 i
  let f := rvFmt n
  let scalar := c.fbits n r1
  let free (k : Nat) : Nat × Flags := ((Config.rvSum draw).1.toNat % 2 ^ k, 0)
  -- An unordered sum: a free value with free flags, where it adds anything.
  let sum (k : Nat) : Option RvCore :=
    if e.actives.isEmpty then c.vreduce e i n k fun a _ => (a, 0)
    else (c.vreduce e i n k fun _ _ => free k).map fun y => { y with fcsr := y.fcsr ||| (Config.rvSum draw).2.setWidth 32 }
  match c.rnd 7 with
  | none => none
  | some md =>
    if f6 = 0x12 then
      match (if vf then none else rvFvConvert md n r1) with
      | some (k, dst, g) => c.vunary e i k dst g
      | none => none
    else if n ≠ 32 && n ≠ 64 then none
    else if f6 = 1 then (if vf then none else sum n)
    else if f6 = 3 || f6 = 5 || f6 = 7 then (if vf then none else c.vreduce e i n n (rvFvRed f md f6))
    else if f6 = 0x31 then (if vf || n ≠ 32 then none else sum 64)
    else if f6 = 0x33 then (if vf || n ≠ 32 then none else c.vreduce e i 32 64 fun a b => fp64.add md (fp64.value false a) (fp32.value false b))
    else if f6 = 0x0E || f6 = 0x0F then (if vf then c.vslide1 e i (f6 = 0x0E) scalar else none)
    else if f6 = 0x10 then
      if vf then (if rvRs2 i = 0 && e.vm then some (c.vputFirst e d n scalar).vdone else none)
      else if r1 = 0 && e.vm then some (c.putF n d (rvElem n (c.getV (rvRs2 i)).toNat 0)).vdone else none
    else if f6 = 0x13 then
      if vf then none
      else
        match r1 with
        | 0x00 => c.vunary e i n n fun x => rvFsqrt f md (f.value false x)
        | 0x04 => c.vunary e i n n (rvRsqrt7 f)
        | 0x05 => c.vunary e i n n (rvRec7 f md)
        | 0x10 => c.vunary e i n n fun x => (rvFclass f x, 0)
        | _ => none
    else if f6 = 0x17 then
      if !vf then none
      else if e.vm then (if rvRs2 i = 0 && e.groupOk d n then some (c.vput e d n fun _ => scalar).vdone else none)
      else if e.legal d n [(rvRs2 i, n)] then
        let a := c.group (rvRs2 i) (e.regs n)
        some (c.vput e.unmasked d n fun k => if e.mask.testBit k then scalar else rvElem n a k).vdone
      else none
    else if f6 ≥ 0x30 then
      match rvFvWide md f6 with
      | some (wide, g) => if n = 32 then c.vbin e i (if wide then 64 else 32) 32 64 g else none
      | none => none
    else
      match rvFvCmp f vf f6, rvFvAlu f md vf f6 with
      | some g, _ => c.vtest e i fun _ a b => g a b
      | _, some g => c.vbin e i n n n g
      | _, _ => none

/-- A vector instruction other than a load or store. -/
def RvCore.vecOp (c : RvCore) (i : Word) (draw : Nat) : Option RvCore :=
  if rvF3 i = 7 then c.vset i
  else
    match c.env i draw with
    | none => none
    | some e =>
      match rvF3 i with
      | 0 | 3 | 4 => c.vecInt e i
      | 2 | 6 => c.vecMul e i
      | _ => c.vecFloat e draw i

/-- Is a load or store of F's opcodes one of the vector extension? -/
def rvIsVec (i : Word) : Bool := (i.toNat % 128 == 0x07 || i.toNat % 128 == 0x27) && (rvF3 i == 0 || rvF3 i ≥ 5)

/-- The addresses of the bytes that an instruction loads, in order, and how many of them must be there: all, but for a fault-only-first
load, which needs its element 0 alone. -/
def rvLoads (c : RvCore) (raw : Word) (draw : Nat) : List Nat × Nat :=
  match rvExpand raw with
  | none => ([], 0)
  | some i =>
    if rvIsVec i then
      match (if i.toNat % 128 = 0x07 then c.vecMem i true draw else none) with
      | some m =>
        if !m.firstFault then (m.bytes, m.bytes.length)
        else if m.env.actives.head? = some 0 then (m.bytes, m.fields * (m.width / 8)) else (if m.aligned then m.bytes else [], 0)
      | none => ([], 0)
    else
      let l := c.intLoads i ++ c.floatLoads i
      (l, l.length)
/-- What an instruction of the core does, with the bytes that it loads: the core after it and its stores in order, or none where the core
traps: ecall, ebreak, an illegal instruction, and a misaligned access that it does not complete (R400). -/
def rvNext (c : RvCore) (raw : Word) (loaded : List Byte) (draw : Nat) : RvOut :=
  match rvExpand raw with
  | none => none
  | some i =>
    let next := c.pc + BitVec.ofNat 64 (rvLength raw)
    if rvIsVec i then
      let load := i.toNat % 128 = 0x07
      match c.vecMem i load draw with
      | none => none
      | some m =>
        if !m.aligned && (!m.firstFault || m.env.actives.head? = some 0) then none
        else if load then ((c.at_ next).vecLoad (rvRd i) m loaded).map fun d => (d, [])
        else some ((c.at_ next).vdone, c.vecStore (rvRd i) m)
    else
      match i.toNat % 128 with
      | 0x57 => ((c.at_ next).vecOp i draw).map fun d => (d, [])
      | 0x07 | 0x27 | 0x43 | 0x47 | 0x4B | 0x4F | 0x53 => c.floatOp i next loaded
      | _ => c.intOp i next loaded

end Sys2Proof
end

