-- ==== Sys2Proof/Machine/Routine.lean ====
section
/-! DEFINITION. Copy-engine routines: MXCVT, the RV64GCV core and its address space, source fill, the control block, faults, completion
(R395 to R403). What an instruction of the core does is `rvNext` (log entry 5); for MXCVT the results are those of R403. -/
namespace Sys2Proof.Machine

/-! ## MXCVT (R402, R403) -/

/-- A small float of the MX formats, without infinities or NaNs. -/
def mxSmall (ebits fbits bias : Nat) (x : Nat) : FVal :=
  let neg := x / 2 ^ (ebits + fbits) % 2 == 1
  let e := x / 2 ^ fbits % 2 ^ ebits
  let frac := x % 2 ^ fbits
  let low : Int := 1 - (bias : Int) - fbits
  if e = 0 then .fin neg frac low else .fin neg (2 ^ fbits + frac) (low + (e - 1 : Nat))
/-- Bits of an element, by ARG0. -/
def mxWidth (fmt : Nat) : Nat := if fmt ≤ 1 || fmt = 5 then 8 else if fmt ≤ 3 then 6 else 4
/-- An element's value, without the scale. -/
def mxValue (fmt x : Nat) : FVal :=
  match fmt with
  | 0 => e4m3.value false x
  | 1 => e5m2.value false x
  | 2 => mxSmall 3 2 3 x
  | 3 => mxSmall 2 3 1 x
  | 4 => mxSmall 2 1 1 x
  | _ => let i := (BitVec.ofNat 8 x).toInt; .fin (decide (i < 0)) i.natAbs (-6)
/-- A value times a power of two. -/
def FVal.scaleBy (x : FVal) (k : Int) : FVal :=
  match x with
  | .fin n m e => .fin n m (e + k)
  | y => y

/-- One block: the exponent byte and the mantissas (R403). -/
def mxBlock (fmt m scale : Nat) (block : Nat) : Nat × List Int :=
  let w := mxWidth fmt
  if scale = 255 then (255, List.replicate 32 0)
  else
    let xs := (List.range 32).map fun i => (mxValue fmt (block / 2 ^ (w * i) % 2 ^ w)).scaleBy ((scale : Int) - 127)
    let e := bfpExponent (2 ^ (m - 1) - 1) ((xs.map mag149).foldl max 0) (xs.any fun x => x.isNan || x.isInf)
    (e, xs.map fun x => (bfpMantissa { sat := true } m e x).1)

/-- What MXCVT does to its source: the destination bytes, or none for status 1 (R402). -/
def mxcvt (args : List Word) (srcLen dstMax : Nat) (src : List Byte) : Option (List Byte) :=
  let a (i : Nat) : Nat := (args.getD i 0).toNat
  let fmt := a 0
  let m := a 1
  let b := a 2
  let w := mxWidth fmt
  if fmt > 5 || m < 2 || m > 8 || b = 0 || (List.range 5).any (fun i => a (i + 3) != 0) || srcLen < b * (4 * w + 1)
      || dstMax < b * (4 * m + 1) then none
  else
    let blocks := (List.range b).map fun n =>
      mxBlock fmt m (src.getD (b * (4 * w) + n) 0).toNat (ofBytes ((src.drop (n * (4 * w))).take (4 * w)))
    let pack (xs : List Int) : List Byte :=
      toBytes (4 * m) (xs.zipIdx.foldl (fun (n : Nat) p => n + (p.1 % ((2 ^ m : Nat) : Int)).toNat * 2 ^ (m * p.2)) 0)
    some ((blocks.flatMap fun p => pack p.2) ++ blocks.map fun p => BitVec.ofNat 8 p.1)

/-- Is the routine MXCVT, by identifier and version? -/
def Routine.isMxcvt (r : Routine) : Bool := r.id == 0x101 && r.ver == 1
/-- What MXCVT writes for this command, or none for status 1. -/
def Routine.mxOut (r : Routine) : Option (List Byte) := mxcvt r.args r.srcLen r.dstLen r.window

/-! ## The routine's address space (R396, R397) -/

/-- INAVAIL (R397). -/
def Routine.avail (r : Routine) : Nat := r.filled - r.released

/-- Byte `i` of stream buffer 0 (R398): the source byte that was filled there last. -/
def Routine.buf0 (r : Routine) (i : Nat) : Byte :=
  if i < r.filled then r.window.getD (i + (r.filled - 1 - i) / 65536 * 65536) 0 else 0

/-- A readable field of the control block (R397), by its offset in words. -/
def Routine.control (r : Routine) (word : Nat) : Option Nat :=
  match word with
  | 8 => some r.srcLen
  | 9 => some r.dstLen
  | 10 => some r.released
  | 11 => some r.avail
  | 14 => some r.committed
  | n => if n < 8 then some (r.args.getD n 0).toNat else none

/-- The byte that the routine reads at an address, where it may (R396, R397). -/
def Routine.read (r : Routine) (a : Nat) : Option Byte :=
  if a < r.codeLen then some (r.image.getD (64 + a) 0)
  else if 0x10000 ≤ a && a < 0x10000 + r.dataLen then some (r.data.getD (a - 0x10000) 0)
  else if 0x100000 ≤ a && a < 0x110000 then some (r.buf0 (a - 0x100000))
  else if 0x110000 ≤ a && a < 0x120000 then some (sget (fun _ => 0) r.buf1 (a - 0x110000))
  else if 0x200000 ≤ a && a < 0x200080 then (r.control ((a - 0x200000) / 4)).map fun x => byteAt x (a % 4)
  else none

/-- Bytes that the routine reads, up to the first outside its window. -/
def Routine.reads (r : Routine) : List Nat → List Byte
  | [] => []
  | a :: l =>
    match r.read a with
    | some b => b :: Routine.reads r l
    | none => []

/-- The instruction at the pc: 16 bits, or 32 where its two lowest are ones; none where the pc leaves the code. -/
def Routine.fetch (r : Routine) : Option Word :=
  let pc := r.rv.pc.toNat
  let half (a : Nat) : Nat := ofBytes ((r.image.drop (64 + a)).take 2)
  if pc % 2 ≠ 0 || r.codeLen < pc + 2 then none
  else if half pc % 4 ≠ 3 then some (BitVec.ofNat 32 (half pc))
  else if r.codeLen < pc + 4 then none
  else some (BitVec.ofNat 32 (half pc + half (pc + 2) * 65536))

/-- What an instruction's stores do, in order: a store in the data or in buffer 1; a whole aligned word of a field that the routine
writes; anything else is outside the window (R396, R397; log entry 78). -/
def rvStores (dataLen : Nat) : List (Nat × Byte) → List RvAct
  | [] => []
  | (a, b) :: l =>
    if (0x10000 ≤ a && a < 0x10000 + dataLen) || (0x110000 ≤ a && a < 0x120000) then .store a b :: rvStores dataLen l
    else if a == 0x200030 || a == 0x200034 || a == 0x20003C || a == 0x200040 then
      match l with
      | (a1, b1) :: (a2, b2) :: (a3, b3) :: m =>
        if a1 == a + 1 && a2 == a + 2 && a3 == a + 3 then .control (a - 0x200000) (b3 ++ b2 ++ b1 ++ b) :: rvStores dataLen m else [.fault]
      | _ => [.fault]
    else [.fault]

/-! ## The engine's side (R397 to R399) -/

/-- The command at an index, with its routine, where the routine runs: it has started, is not suspended, failed or done, and its
budget lasts. -/
def State.running (s : State) (core ix : Nat) : Option (Cmd × Routine) :=
  match s.cmd core ix with
  | some c =>
    match c.routine with
    | some r => if c.arrived && !c.suspended && !c.failed && r.done.isNone && r.cycles ≤ r.budget then some (c, r) else none
    | none => none
  | none => none

/-- Are the bytes that an INWAIT of `n` waits for present? -/
def Routine.waitMet (r : Routine) (n : Nat) : Bool := min n (r.srcLen - r.released) ≤ r.avail

/-- Bytes committed and not yet written. -/
def Cmd.unwritten (c : Cmd) : Nat :=
  (c.todo.map fun w => w.puts.length).foldl (· + ·) ((c.routine.map fun r => r.partWord.length).getD 0)

/-- Is the buffer-1 byte at `i` committed and not yet written: a store to it is discarded (R398)? -/
def Cmd.committedByte (c : Cmd) (r : Routine) (i : Nat) : Bool :=
  let n := c.unwritten
  (i + 65536 - (r.committed - n) % 65536) % 65536 < n

/-- The leading stores of what an instruction still has to do. -/
def Cmd.drain (c : Cmd) (r : Routine) : List RvAct → Routine
  | .store a b :: l =>
    let r1 : Routine :=
      if a < 0x100000 then { r with data := r.data.set (a - 0x10000) b }
      else if c.committedByte r (a - 0x110000) then r
      else { r with buf1 := sset (fun _ => 0) r.buf1 (a - 0x110000) b }
    Cmd.drain c r1 l
  | l => { r with acts := l }

/-- The core of a routine runs one instruction, or stalls for a cycle while it waits (R396, R397). What MXCVT computes is R403's, and
its core only spends cycles. -/
def State.routineStep (s : State) (core ix : Nat) : State :=
  match s.running core ix with
  | none => s
  | some (c, r) =>
    let t := { s with draws := s.draws + 1 }
    let r1 := { r with cycles := r.cycles + 1 + Config.rvCycles s.draws }
    let put (x : Routine) : State := t.setCmd core ix { c with routine := some x }
    if r.isMxcvt || r.waits.isSome || !r.acts.isEmpty then put r1
    else
      let at_ : Routine := { r1 with rvPc := r.rv.pc }
      match r.fetch with
      | none => put { at_ with acts := [.fault] }
      | some i =>
        let (addrs, need) := rvLoads r.rv i s.draws
        match (if (r.reads addrs).length < need then none else rvNext r.rv i (r.reads addrs) s.draws) with
        | none => put { at_ with acts := [.fault] }
        | some (rv, stores) => put (c.drain { at_ with rv := rv } (rvStores r.dataLen stores))

/-- A field of the control block that the routine is to write next, with the value, and the routine after the write (R397): for MXCVT
the value that the event names. -/
def Routine.write (r : Routine) (c : Cmd) (off n : Nat) : Option Routine :=
  if r.waits.isSome then none
  else if r.isMxcvt then some r
  else
    match r.acts with
    | .control o x :: l => if o = off && x.toNat = n then some (c.drain r l) else none
    | _ => none

/-- SOURCE_FILL (R398): the engine places the next `n` source bytes. It reads whole words (R88): the rest of the last one is kept. -/
def execSourceFill (core ix n : Nat) (s : State) : Out :=
  match s.running core ix with
  | none => .next s
  | some (c, r) =>
    if r.filled + n > r.srcLen || r.avail + n > 65536 then .next s
    else
      let from_ := r.filled + r.ahead.length
      let upto := min r.srcLen (((r.src.2 + r.filled + n + 3) / 4 * 4) - r.src.2)
      match s.engBytes c.wg r.src.1 (r.src.2 + from_) (upto - from_) none with
      | (s1, .inr e) => .next (s.engineBad s1 core ix c e)
      | (s1, .inl bs) =>
        let all := r.ahead ++ bs
        let r1 := { r with filled := r.filled + n, window := r.window ++ all.take n, ahead := all.drop n }
        let r2 := { r1 with waits := if r1.waits.any r1.waitMet then none else r1.waits }
        .next (s1.setCmd core ix { c with routine := some r2 })

/-- A routine fault (R400): the command is suspended, and no resume is allowed. -/
def State.routineFault (s : State) (core ix : Nat) (c : Cmd) (pc : DWord) : State :=
  (s.setCmd core ix { c with suspended := true, dead := true }).engineRecord
    { wg := c.wg, warp := c.warp, pc := c.pc, code := 0x82, addr := pc.toNat, data := 2 + 7 * 16, number := c.number, engine := c.engine,
      progress := c.progress, held := true }

/-- ROUTINE_INREL (R397, R398). -/
def execRoutineInrel (core ix n : Nat) (s : State) : Out :=
  match s.running core ix with
  | none => .next s
  | some (c, r) =>
    match r.write c 0x30 n with
    | none => .next s
    | some q =>
      if n > r.avail then .next (if r.isMxcvt then s else s.routineFault core ix c r.rvPc)
      else .next (s.setCmd core ix { c with routine := some { q with released := r.released + n } })

/-- ROUTINE_INWAIT (R397): the routine stalls until the bytes are there. -/
def execRoutineInwait (core ix n : Nat) (s : State) : Out :=
  match s.running core ix with
  | none => .next s
  | some (c, r) =>
    match r.write c 0x34 n with
    | some q => .next (s.setCmd core ix { c with routine := some { q with waits := if r.waitMet n then none else some n } })
    | none => .next s

/-- The puts before the last whole destination word (R88), and those of a word that is not whole yet. -/
def wholeWords : List Put → List Put × List Put
  | [] => ([], [])
  | p :: l =>
    match wholeWords l with
    | ([], q) => if p.addr % 4 == 3 then ([p], q) else ([], p :: q)
    | (w, q) => (p :: w, q)

/-- The works of committed bytes: scratchpad sectors, of which one that the commit leaves open is not counted yet. -/
def commitWorks (space len : Nat) (puts : List Put) : List Work :=
  if space = 2 then
    (groupPuts 2 32 false true puts).map fun w =>
      { w with sector := w.puts.any fun p => p.addr % 32 == 31 || p.row + 1 == len }
  else groupPuts space 128 false false puts

/-- The bytes that a commit of `n` hands over: those of buffer 1, or for MXCVT what R403 gives; none where MXCVT would
commit nothing yet. -/
def Routine.commitBytes (r : Routine) (n : Nat) : Option (List Byte) :=
  if r.isMxcvt then
    match r.mxOut with
    | some out => if r.filled = r.srcLen && r.committed + n ≤ out.length then some ((out.drop r.committed).take n) else none
    | none => none
  else some ((List.range n).map fun i => sget (fun _ => 0) r.buf1 ((r.committed + i) % 65536))

/-- ROUTINE_OUTCOMMIT (R397, R398, R403). A word that the commit leaves open is written with the bytes that complete it (R88). The
event occurs with the bytes that buffer 1 holds (or that R403 gives). -/
def execRoutineOutcommit (core ix n : Nat) (bytes : List Byte) (s : State) : Out :=
  match s.running core ix with
  | none => .next s
  | some (c, r) =>
    match r.write c 0x3C n with
    | none => .next s
    | some q =>
      if r.committed + n > r.dstLen then .next (if r.isMxcvt then s else s.routineFault core ix c r.rvPc)
      else if n + c.unwritten > 65536 then .next s
      else
        if r.commitBytes n ≠ some bytes then .next s
        else
          let puts := bytes.zipIdx.map fun p =>
            ({ row := r.committed + p.2, addr := (r.dst.2 + r.committed + p.2) % 2 ^ 64, cell := .lit p.1 } : Put)
          let (whole, rest) := wholeWords (r.partWord ++ puts)
          .next (s.setCmd core ix { c with
            routine := some { q with committed := r.committed + n, partWord := rest }, todo := c.todo ++ commitWorks r.dst.1 r.dstLen whole })

/-- The status with which MXCVT ends (R402), once it may: with its whole result committed, or at once with 1. -/
def Routine.mxStatus (r : Routine) : Option Word :=
  match r.mxOut with
  | none => some 1
  | some out => if r.filled = r.srcLen && r.committed = out.length then some 0 else none

/-- ROUTINE_DONE (R399, R402): a word that the last commit left open is written too. -/
def execRoutineDone (core ix : Nat) (status : Word) (s : State) : Out :=
  match s.running core ix with
  | none => .next s
  | some (c, r) =>
    match r.write c 0x40 status.toNat, (if r.isMxcvt then r.mxStatus else some status) with
    | some q, some st =>
      .next (s.setCmd core ix { c with
        routine := some { q with done := some st, partWord := [] }, todo := c.todo ++ commitWorks r.dst.1 r.dstLen r.partWord })
    | _, _ => .next s

/-- ROUTINE_FAULT (R400): the core has trapped, or left its window, at `pc`. -/
def execRoutineFault (core ix : Nat) (pc : DWord) (s : State) : Out :=
  match s.running core ix with
  | none => .next s
  | some (c, r) => .next (if r.acts.head? == some .fault && r.rvPc == pc then s.routineFault core ix c r.rvPc else s)
/-- ROUTINE_BUDGET_EXPIRY (R400): the routine has taken more cycles than its budget, and does nothing more; `pc` is that of its last instruction,
and 0 for MXCVT, whose core fetches none (DESIGN CHOICE, log entry 5). -/
def execRoutineBudgetExpiry (core ix : Nat) (pc : DWord) (s : State) : Out :=
  match s.cmd core ix with
  | some c =>
    match c.routine with
    | some r =>
      .next (if c.arrived && !c.suspended && !c.failed && r.done.isNone && r.budget < r.cycles && r.rvPc == pc then s.routineFault core ix c r.rvPc else s)
    | none => .next s
  | none => .next s

/-- A routine command starts again from its beginning (R401). -/
def Cmd.rerun (c : Cmd) : Cmd :=
  match c.routine with
  | none => c
  | some r => { c with todo := [], routine := some r.start }

/-- The sector that the last commit left open counts when its routine ends: the command has written the last of its bytes that it writes
(R399). -/
def State.lastSector (s : State) (core ix : Nat) (c : Cmd) (r : Routine) : State × Cmd :=
  let end_ := r.dst.2 + r.committed
  let n := (end_ - 1) / 32
  if r.dst.1 = 2 && r.committed ≠ 0 && end_ % 32 ≠ 0 && !c.counted.contains n then
    let c1 := { c with counted := n :: c.counted }
    ((s.setCmd core ix c1).cmdBarrier c .sector |>.1, c1)
  else (s, c)

/-- The completion of a routine's command (R399): sectors never written are removed; a status other than 0 acts as a
checksum failure, which poisons the barrier before the last sectors leave it. -/
def State.routineEnd (s : State) (core ix : Nat) (c : Cmd) (r : Routine) (status : Word) : State :=
  if status = 0 then
    let (s1, c1) := s.lastSector core ix c r
    (if c1.outstanding > 0 then (s1.cmdBarrier c1 (.remove c1.outstanding)).1 else s1).dropCmd core c1
  else
    let (s1, c1) := (s.markPoison c).lastSector core ix c r
    s1.failCheck core ix c1 (status.toNat * 2 ^ 32)

/-- COMMAND_COMPLETION (R84, R86, R264, R386, R399): of a command of the copy engine that is no collective. -/
def execCommandCompletion (core ix : Nat) (s : State) : Out :=
  match s.cmd core ix with
  | none => .next s
  | some c =>
    if c.failed then .next (if s.failPending c then s else s.dropCmd core c)
    else if !c.arrived || c.suspended || c.kind == .tcoll then .next s
    else
      match c.routine with
      | none => .next (s.commandEnd core ix c)
      | some r =>
        match r.done with
        | some status => if c.todo.isEmpty then .next (s.routineEnd core ix c r status) else .next s
        | none => .next s

end Sys2Proof.Machine
end

