-- ==== Sys2Proof/Machine/Control.lean ====
section
/-! DEFINITION. Class 000: transfers, exits, joins, loops (R172 to R184), and the release of a JOIN (R35). -/
namespace Sys2Proof.Machine

/-- NOP (R179): no effect, then sequential flow with its end test (R183). -/
def execNop (_o : Args) (s : State) : Out := .next s.advance

/-- The target of a displacement (R173). -/
def State.dispTarget (s : State) (x : Src) : PC :=
  let d : Int :=
    match x with
    | .imm i => i.toInt
    | .trail _ y => y.toInt
    | _ => 0
  BitVec.ofInt 57 (PC.line s.curSplit.pc + (d / 8) * 64 + d % 8)

/-- The issuing split divides (R32): the lanes `side` move to the free entry of lowest index at `tgt` with loop records
`loops`, and the rest go on at `rest`. With no free entry the rest becomes a deferred record. None where the stack is full. -/
def State.divide (s : State) (side : LaneMask) (tgt : PC × Bool) (loops : List LoopRec) (rest : PC × Bool) : Option State :=
  let x := s.curSplit
  match s.curWarp.freeEntry with
  | some i =>
    let y : Split := { live := true, pc := tgt.1, seq := tgt.2, mask := side, loops := loops, since := s.tick }
    some ((((s.forkLate s.cur.wg s.cur.warp s.cur.split i).updCurWarp fun w => w.setSplit i y).updCur fun x =>
      { x.goTo rest.1 rest.2 with mask := x.mask &&& ~~~side }).traceEvent
      s.cur.wg s.cur.warp i 2 4 s.cur.split)
  | none =>
    if x.defer.length ≥ 4 then none
    else
      let part : DeferRec := { arrived := false, pc := rest.1, seq := rest.2, mask := x.mask &&& ~~~side }
      let t := s.updCur fun x => { x.goTo tgt.1 tgt.2 with mask := side, loops := loops, defer := part :: x.defer }
      some (t.traceFields s.cur.wg (t.tracePart s.cur.wg s.cur.warp s.cur.split part.mask part.pc) 2 4 (s.cur.split + 4))

/-- The first target in lane order that fails the checks of R141, with its lane; each distinct target is checked once. -/
def State.checkTargets (s : State) (ctx : Nat) (tgt : Nat → DWord) : List Nat → List DWord → State × Option (AccFault × Nat)
  | [], _ => (s, none)
  | l :: r, seen =>
    let t := tgt l
    if seen.contains t then State.checkTargets s ctx tgt r seen
    else if t.toNat / 2 ^ 57 ≠ 0 then (s, some (targetFault t.toNat, l))
    else
      match s.checkTarget ctx (t.setWidth 57) with
      | (s1, some f) => (s1, some (f, l))
      | (s1, none) => State.checkTargets s1 ctx tgt r (t :: seen)

/-- Where the link of a call goes: none, a v pair or a k pair (R175). -/
inductive Link where
  | none | v (n : Nat) | k (n : Nat)
  deriving DecidableEq, Repr

/-- The warp with the return PC written in the lanes that a call takes (R176). -/
def Warp.setLink (w : Warp) (k : Link) (lanes : LaneMask) (pc : PC) : Warp :=
  match k with
  | .none => w
  | .v n => w.setVs ((lanesOf lanes).flatMap fun l => [(l, n, pc.extractLsb' 0 32), (l, n + 1, (pc.setWidth 64).extractLsb' 32 32)])
  | .k n => w.setK64 n (pc.setWidth 64)

/-- BRA, BRX, CALL, CALLX and RET (R176) with the target of each lane. Where the guard is partial and targets differ at once, the taken
side is the ACTIVE lanes with the target of the lowest ACTIVE lane, and every other lane executes the instruction again (DESIGN CHOICE,
log entry 81). -/
def State.transfer (s : State) (op : Nat) (g : Guard) (tgt : Nat → DWord) (link : Link) : State :=
  let act := s.active op g
  let x := s.curSplit
  match s.checkTargets s.curWg.ctx tgt (lanesOf act) [] with
  | (s1, some (f, l)) => s1.transferTrap f l
  | (s1, none) =>
    match lowestLane act with
    | none => s1.advance
    | some l0 =>
      let t0 := tgt l0
      let pc : PC := t0.setWidth 57
      let side := act &&& laneSet fun l => tgt l == t0
      let next := nextPc x.line x.pc
      let linked (t : State) : State := t.updCurWarp fun w => w.setLink link act next.1
      if side = x.mask then linked (s1.updCur fun y => y.goTo pc false)
      else
        match s1.divide side (pc, false) x.loops (if side = act then next else (x.pc, x.seq)) with
        | some s2 => linked s2
        | none => s1.trapAt 0x13 0 0

/-- The link register of a call (R175). -/
def linkOf (klink : Bool) (d : Nat) : Link := if klink then .k d else .v d

/-- BRA (R176). -/
def execBra (o : Args) (s : State) : Out := .next (s.transfer 0x001 o.g (fun _ => (s.dispTarget o.a).setWidth 64) .none)
/-- BRX. -/
def execBrx (o : Args) (s : State) : Out := .next (s.transfer 0x002 o.g (fun l => s.opnd64 .bits o.a l) .none)
/-- CALL. -/
def execCall (o : Args) (klink : Bool) (s : State) : Out :=
  .next (s.transfer 0x003 o.g (fun _ => (s.dispTarget o.a).setWidth 64) (linkOf klink o.d))
/-- CALLX. -/
def execCallx (o : Args) (klink : Bool) (s : State) : Out :=
  .next (s.transfer 0x004 o.g (fun l => s.opnd64 .bits o.a l) (linkOf klink o.d))
/-- RET. -/
def execRet (o : Args) (s : State) : Out := .next (s.transfer 0x005 o.g (fun l => s.opnd64 .bits o.a l) .none)

/-- EXIT (R36, R177): the lanes of ACTIVE leave; others go on at the next PC. -/
def execExit (o : Args) (s : State) : Out :=
  let x := s.curSplit
  let act := s.active 0x006 o.g
  let rest := x.mask &&& ~~~act
  if rest = 0 then .next (s.exitEntry s.cur.wg s.cur.warp s.cur.split)
  else .next (s.updCur fun y => { y with mask := rest }).advance

/-- JOIN (R34, R35, R178). -/
def execJoin (_o : Args) (s : State) : Out :=
  let x := s.curSplit
  let g := s.cur.wg
  let w := s.cur.warp
  let n := s.cur.split
  let waiter := s.curWarp.joinWaiter n x.pc
  let differs : Bool := match waiter with | some m => (s.curWarp.split m).loops != x.loops | none => false
  match x.defer with
  | [] =>
    match waiter with
    | some m => if differs then .next (s.trapAt 0x14 x.pc.toNat 0) else .next (s.fuse g w n m x x.pc)
    | none => .next (s.updCur fun y => { y with st := .joinWait, since := s.tick })
  | r :: rest =>
    match settleStack x.pc x (r :: rest) with
    | .resumed y => .next (s.updCur fun _ => y)
    | .mismatch _ top => .next (s.trapAt 0x14 top.toNat 0)
    | .healed y =>
      match waiter with
      | some m => if differs then .next (s.trapAt 0x14 x.pc.toNat 0) else .next (s.fuse g w n m y x.pc)
      | none => .next (s.updCur fun _ => y.advance)

/-- Does a warp's join-waiting split go on (R35, item 3)? -/
def Warp.joinReady (w : Warp) : Option Nat :=
  if splitIxs.all fun i => !(w.split i).live || (w.split i).st == .joinWait then splitIxs.find? fun i => (w.split i).live
  else none

/-- JOIN_RELEASE (R35): no split of the warp is in state run, wait, debug-held or in-trap, and the join-waiting split of
lowest index goes on. -/
def execJoinRelease (g w : Nat) (s : State) : Out :=
  match (s.warp g w).joinReady with
  | some n => .next (s.updSplit g w n fun x => { x.advance with since := s.tick })
  | none => .next s

/-- May an instruction with this opcode stand at a loop's end slot (R182, check 4)? -/
def endSlotOk (op : Nat) : Bool := !((0x01 ≤ op && op ≤ 0x0A) || op == 0x0E || op == 0x72 || op == 0x74)

/-- The end slot of a loop record. -/
def LoopRec.endPc (r : LoopRec) : PC := PC.make (PC.line r.first + 64 * r.endLine) r.endSlot

/-- What the checks of R182 find: a failed check of the table, a fault, or the first slot, the end slot and the exit slot. -/
inductive LoopCheck where
  | illegal (check : Nat)
  | fault (f : AccFault)
  | ok (first last after : PC)
  deriving DecidableEq, Repr

/-- The checks of R182, in their order. -/
def State.loopCheck (s : State) (disp : Src) : State × LoopCheck :=
  let x := s.curSplit
  let ctx := s.curWg.ctx
  let last := s.dispTarget disp
  if !x.defer.isEmpty then (s, .illegal 1)
  else if x.loops.length ≥ 4 then (s, .illegal 2)
  else
    let next := nextPc x.line x.pc
    let inner : Bool := match x.loops with | [] => true | r :: _ => last.toNat ≤ r.endPc.toNat
    -- The first slot where it is settled: a fault of its fetch is one of check 5, and comes after checks 3 and 4.
    let (s1, first) := s.settle ctx settleFuel next
    let low : PC := match first with | .inl pc => pc | .inr _ => next.1
    if PC.slot last > 4 || last.toNat < low.toNat || !inner then (s1, .illegal 3)
    else
      match s1.fetchLine ctx (PC.line last) with
      | (s2, .inr f) => (s2, .fault { f with addr := last.toNat })
      | (s2, .inl l) =>
        if Line.lit l (PC.slot last) || !endSlotOk (Raw.ofSlot (Line.slot l (PC.slot last))).op then (s2, .illegal 4)
        else
          match first with
          | .inr f => (s2, .fault f)
          | .inl first =>
            match s2.checkTarget ctx first with
            | (s3, some f) => (s3, .fault f)
            | (s3, none) =>
              match s3.settle ctx settleFuel (nextPc (some (PC.line last, l)) last) with
              | (s4, .inr f) => (s4, .fault f)
              | (s4, .inl after) =>
                match s4.checkTarget ctx after with
                | (s5, some f) => (s5, .fault f)
                | (s5, none) => (s5, .ok first last after)

/-- LOOP (R180 to R182). -/
def execLoop (o : Args) (s : State) : Out :=
  let n := s.uni o.a
  match s.loopCheck o.b with
  | (s1, .illegal c) => .next (s1.trapAt 0x15 0 c)
  | (s1, .fault f) => .next (s1.transferTrap f ((lowestLane s.curSplit.mask).getD 0))
  | (s1, .ok first last after) =>
    if n = 0 then
      .next (s1.updCur fun x =>
        let (loops, pc, seq) := endTest last (after, false) x.loops
        { x.goTo pc seq with loops := loops })
    else
      let r : LoopRec :=
        { first := first, endLine := (PC.line last - PC.line first) / 64, endSlot := PC.slot last, count := n }
      .next (s1.updCur fun x => { x.goTo first false with loops := r :: x.loops })

/-- BRK (R184). -/
def execBrk (o : Args) (s : State) : Out :=
  let x := s.curSplit
  let act := s.active 0x009 o.g
  if act = 0 then .next s.advance
  else
    match x.loops with
    | [] => .next (s.trapAt 0x15 0 0)
    | r :: outer =>
      if !x.defer.isEmpty then .next (s.trapAt 0x15 0 0)
      else
        match s.pcAfter s.curWg.ctx r.endPc with
        | (s1, .inr f) => .next (s1.transferTrap f (s1.liveLane 0x009 o.g))
        | (s1, .inl after) =>
          if act = x.mask then .next (s1.updCur fun y => { y.goTo after false with loops := outer })
          else if s1.curWarp.freeEntry.isNone then .next (s1.trapAt 0x15 0 0)
          else
            match s1.divide act (after, false) outer (nextPc x.line x.pc) with
            | some s2 => .next s2
            | none => .next (s1.trapAt 0x15 0 0)

end Sys2Proof.Machine
end

