-- ==== Sys2Proof/Machine/Sync.lean ====
section
/-! DEFINITION. Class 000: waits, barriers, flumes, ordering, timelines, election, votes, traps, special registers (R185 to R200),
with the events that end their waits. -/
namespace Sys2Proof.Machine

/-! ## WAIT and YIELD (R185 to R187) -/

/-- A flume of a workgroup. -/
def Workgroup.flume (g : Workgroup) (f : Nat) : Flume := sget (fun _ => {}) g.flumes f
/-- The workgroup with a flume replaced. -/
def Workgroup.setFlume (g : Workgroup) (f : Nat) (q : Flume) : Workgroup := { g with flumes := sset (fun _ => {}) g.flumes f q }

/-- Does the condition of a wait hold, for a split of workgroup `g`; and does kpd report a failure (R185, R186)? -/
def State.waitHolds (s : State) (g : Nat) : Wait → Bool × Bool
  | .tb off phase => let b := s.tbar g off; (b.failed || b.phase != phase, b.failed)
  | .nempty f => (!((s.wg g).flume f).items.isEmpty, false)
  | .nfull f => (((s.wg g).flume f).items.length < ((s.wg g).flume f).depth, false)
  | .counter id n => (n ≤ (s.timeline (s.wg g).ctx id).count, false)
  | _ => (false, false)

/-- The same for a split that has waited: what has held once stands (R186). -/
def Split.holds (x : Split) (now : Bool × Bool) : Bool × Bool :=
  match x.met with
  | some fail => (true, fail)
  | none => now

/-- Is an instruction a WAIT or a YIELD? -/
def isWait : Option Instr → Bool
  | some (.wait _ _) => true
  | some (.yield _ _) => true
  | _ => false

/-- A waiting split of workgroup `g` whose condition holds from now on (R186, R187). -/
def State.noteMet (s : State) (g : Nat) (x : Split) : Split :=
  let now := s.waitHolds g x.wait
  if x.live && x.st == .wait && x.met.isNone && isWait x.pend && now.1 then { x with met := some now.2 } else x

/-- After every step: waits whose condition has come true are done with it (R186), and splits that wait on a flume whose far role
is gone trap (R41). -/
def State.settleWaits (s : State) : State :=
  let t : State := { s with wgs := s.wgs.map fun p => (p.1, { p.2 with
    warps := p.2.warps.map fun q => (q.1, { q.2 with splits := q.2.splits.map fun r => (r.1, s.noteMet p.1 r.2) }) }) }
  t.wgs.foldl (fun u p => u.orphans p.1) t

/-- A WAIT or YIELD whose condition holds goes on (R186): kpd written, at the next PC or at the label. -/
def State.waitDone (s : State) (o : Args) (label : Option PC) (fail : Bool) : State :=
  let t := s.updCurWarp fun w => w.setUpred o.d fail
  match label with
  | none => t.advance
  | some pc => t.updCur fun x => x.goTo pc false

/-- What a WAIT or YIELD waits for, or the trap of its operands (R174, R187). -/
def State.waitOf (s : State) (o : Args) (kind : WaitKind) : Wait ⊕ AccFault :=
  match kind with
  | .tb =>
    let off := (s.uni o.a).toNat
    match s.curWg.tbFault off with
    | some f => .inr f
    | none => .inl (.tb off ((s.uni o.c).toNat % 16))
  | .nempty => .inl (.nempty (objNum o.a 0x80))
  | .nfull => .inl (.nfull (objNum o.a 0x80))
  | .tl =>
    let id := (s.uni o.a).toNat
    if ctxIdOk id then .inl (.counter id (s.uni64 o.c).toNat) else .inr { code := 0x06, addr := 0, data := 7 }

/-- The reading of a barrier comes after the split's own stores to it (R71). -/
def State.waitReads (s : State) : Wait → State
  | .tb off _ => s.performCur 16 (.sp s.curWg.core (s.curWg.user + off))
  | _ => s

/-- WAIT and YIELD at issue (R186, R187); `label` is YIELD's, checked under R141. -/
def State.waitOrYield (s : State) (i : Instr) (o : Args) (kind : WaitKind) (label : Option PC) : State :=
  if !s.acts 0x00B o.g then s.advance
  else
    let (s1, bad) := match label with
      | some pc => s.checkTarget s.curWg.ctx pc
      | none => (s, none)
    match bad with
    | some f => s1.transferTrap f (s1.liveLane 0x00B o.g)
    | none =>
      match s1.waitOf o kind with
      | .inr f => s1.trapAt f.code f.addr (f.data + if f.code = 0x06 then 0 else s1.liveLane 0x00B o.g * 256)
      | .inl w =>
        let s2 := s1.waitReads w
        let (holds, fail) := s2.waitHolds s.cur.wg w
        if holds then s2.waitDone o label fail
        else
          let t := s2.waitIn i w
          match t.orphanOf s.cur.wg t.curSplit with
          | some f => s2.trapAt 0x17 0 f
          | none => t

/-- WAIT. -/
def execWait (o : Args) (kind : WaitKind) (s : State) : Out := .next (s.waitOrYield (.wait o kind) o kind none)
/-- YIELD. -/
def execYield (o : Args) (kind : WaitKind) (s : State) : Out :=
  .next (s.waitOrYield (.yield o kind) o kind (some (s.dispTarget o.b)))

/-! ## Named barriers (R188 to R191) -/

/-- The node or the workgroup's own barrier that number `b` of a workgroup refers to. -/
def State.barrier (s : State) (g b : Nat) : Barrier :=
  let own := sget (fun _ => ({} : Barrier)) (s.wg g).bars b
  if own.cluster then { sget (fun _ => ({} : Barrier)) (s.cluster (s.wg g).cluster).nodes b with cluster := true } else own
/-- The state with it replaced. -/
def State.setBarrier (s : State) (g b : Nat) (x : Barrier) : State :=
  if (sget (fun _ => ({} : Barrier)) (s.wg g).bars b).cluster then
    s.updCluster (s.wg g).cluster fun c => { c with nodes := sset (fun _ => {}) c.nodes b x }
  else s.updWg g fun w => { w with bars := sset (fun _ => {}) w.bars b x }

/-- The scope of a barrier, which its arrivals and waits take (R69, R74). -/
def State.barrierScope (s : State) (g b : Nat) : Scope := if (s.barrier g b).cluster then .cluster else .wg

/-- The workgroups whose splits may wait on barrier `b` of `g`. -/
def State.barrierGroups (s : State) (g b : Nat) : List Nat :=
  if (s.barrier g b).cluster then
    (s.cluster (s.wg g).cluster).wgs.filter fun h => (sget (fun _ => ({} : Barrier)) (s.wg h).bars b).cluster
  else [g]

/-- The splits of a workgroup: warp and index. -/
def Workgroup.splitKeys (g : Workgroup) : List (Nat × Nat) :=
  g.warps.flatMap fun p => p.2.splits.map fun q => (p.1, q.1)

/-- Has generation `kg` completed when the barrier is in generation `g` (R190)? -/
def genDone (g kg : Word) : Bool := 1 ≤ (g - kg).toNat && (g - kg).toNat < 2 ^ 31

/-- Does the split wait on barrier `b`? -/
def Split.waitsOn (x : Split) (b : Nat) : Bool :=
  match x.wait with
  | .barrier c _ => x.live && x.st == .wait && b == c
  | _ => false

/-- The splits that wait on barrier `b` for a generation that is complete go on, with the acquire of BAR.WAIT (R190); those of a warp
that stands still for a handler do so after it (R377). -/
def State.wakeBarrier (s : State) (g b : Nat) : State :=
  (s.barrierGroups g b).foldl (fun t h =>
    (t.wg h).splitKeys.foldl (fun u p =>
      let x := u.split h p.1 p.2
      match x.wait with
      | .barrier c kg =>
        if x.live && x.st == .wait && c == b && genDone (u.barrier h b).gen kg && !u.frozen h p.1 p.2 then
          (u.updSplit h p.1 p.2 fun y => { y.advance with since := u.tick }).acquireBy h p.1 p.2 (u.barrierScope h b)
        else u
      | _ => u) t) s

/-- Is the warp or the workgroup a member of the barrier (R189)? -/
def State.barrierMember (s : State) (g w b : Nat) : Bool :=
  let x := s.barrier g b
  if x.cluster then x.mask.getLsbD (s.wg g).rank else x.mask.getLsbD (w % 64)

/-- One arrival (R190), with the completion of the generation. -/
def State.arrive (s : State) (g b : Nat) : State :=
  let x := s.barrier g b
  if x.arrivals + 1 = x.count then
    let (count, mask) := x.pending.getD (x.count, x.mask)
    (s.setBarrier g b { x with gen := x.gen + 1, arrivals := 0, count := count, mask := mask, pending := none }).wakeBarrier g b
  else s.setBarrier g b { x with arrivals := x.arrivals + 1 }

/-- BAR.WAIT's wait of the issuing split for generation `kg` (R190). -/
def State.barrierWait (s : State) (i : Instr) (b : Nat) (kg : Word) : State :=
  if genDone (s.barrier s.cur.wg b).gen kg then (s.acquireCur (s.barrierScope s.cur.wg b)).advance
  else s.waitIn i (.barrier b kg)

/-- BAR.ARRIVE by the issuing split, once its release is complete. -/
def State.arriveCur (s : State) (o : Args) : State :=
  let b := objNum o.a 0x20
  let g := (s.barrier s.cur.wg b).gen
  ((s.updCurWarp fun w => w.setK o.d g).advance).arrive s.cur.wg b
/-- BAR.SYNC by the issuing split, once its release is complete. -/
def State.syncCur (s : State) (i : Instr) (o : Args) : State :=
  let b := objNum o.a 0x20
  let g := (s.barrier s.cur.wg b).gen
  (s.arrive s.cur.wg b).barrierWait i b g

/-- BAR.ARRIVE and BAR.SYNC at issue: the guard, the member check, and the release at the barrier's scope (R74, R189), with the fence that
it has the effect of. -/
def State.arriveOr (s : State) (i : Instr) (o : Args) (act : State → State) : State :=
  let b := objNum o.a 0x20
  if !s.acts 0x011 o.g then s.advance
  else if !s.barrierMember s.cur.wg s.cur.warp b then s.objectState (0x20 + b)
  else s.ordered i (if (s.barrier s.cur.wg b).cluster then s.releaseWait i .cluster else act (s.releaseCur .wg))

/-- BAR.ARRIVE. -/
def execBarArrive (o : Args) (s : State) : Out := .next (s.arriveOr (.barArrive o) o fun t => t.arriveCur o)
/-- BAR.SYNC. -/
def execBarSync (o : Args) (s : State) : Out := .next (s.arriveOr (.barSync o) o fun t => t.syncCur (.barSync o) o)
/-- BAR.WAIT. -/
def execBarWait (o : Args) (s : State) : Out :=
  if !s.acts 0x012 o.g then .next s.advance
  else .next (s.barrierWait (.barWait o) (objNum o.a 0x20) (s.uni o.b))

/-- Are a count and a mask legal at a scope (R191)? -/
def barValues (cluster : Bool) (count : Nat) (mask : LaneMask) : Bool :=
  1 ≤ count && count ≤ 65535 && mask != 0 && (!cluster || mask.toNat < 256)

/-- Has the barrier arrivals in its generation, or a split that waits on it? -/
def State.barrierBusy (s : State) (g b : Nat) : Bool :=
  (s.barrier g b).arrivals != 0
    || (s.barrierGroups g b).any fun h => (s.wg h).splitKeys.any fun p => (s.split h p.1 p.2).waitsOn b

/-- BAR.INIT (R191). At CLUSTER scope it waits for the conversion of every member's barrier. -/
def execBarInit (o : Args) (scope : BarScope) (s : State) : Out :=
  let b := objNum o.a 0x20
  let g := s.cur.wg
  let count := (s.uni o.b).toNat
  let mask := s.uni64 o.c
  let cl := scope == .cluster
  if !s.acts 0x010 o.g then .next s.advance
  else if !barValues cl count mask || s.barrierBusy g b || (cl && s.curWg.rank != 0) then .next (s.objectState (0x20 + b))
  else if cl then
    .next ((s.waitIn (.barInit o scope) .convert).updCluster s.curWg.cluster fun c =>
      { c with converting := c.converting ++ [(b, count, mask)] })
  else
    .next ((s.updCurWg fun w =>
      { w with bars := sset (fun _ => {}) w.bars b { cluster := false, count := count, mask := mask } }).advance)

/-- CLUSTER_BARRIER_CONVERSION (R191): every member's barrier refers to the node, and the BAR.INIT completes. -/
def execClusterBarrierConversion (cluster b : Nat) (s : State) : Out :=
  let c := s.cluster cluster
  match c.converting.find? fun p => p.1 == b with
  | none => .next s
  | some (_, count, mask) =>
    let s1 := s.updCluster cluster fun c =>
      { c with converting := c.converting.filter (fun p => p.1 != b),
               nodes := sset (fun _ => {}) c.nodes b { cluster := true, count := count, mask := mask } }
    let members := c.wgs.filter fun g => mask.getLsbD (s.wg g).rank
    let s2 := members.foldl (fun t g =>
      t.updWg g fun w => { w with bars := sset (fun _ => {}) w.bars b { cluster := true } }) s1
    .next (c.wgs.foldl (fun t g => (t.wg g).splitKeys.foldl (fun u p =>
      let x := u.split g p.1 p.2
      match x.pend with
      | some (.barInit o .cluster) =>
        if x.st == .wait && x.wait == .convert && objNum o.a 0x20 == b then
          u.updSplit g p.1 p.2 fun y => if u.frozen g p.1 p.2 then { y with wait := .done } else { y.advance with since := s.tick }
        else u
      | _ => u) t) s2)

/-- BAR.MASK (R191). -/
def execBarMask (o : Args) (s : State) : Out :=
  let b := objNum o.a 0x20
  let g := s.cur.wg
  let x := s.barrier g b
  let count := (s.uni o.b).toNat
  let mask := s.uni64 o.c
  if !s.acts 0x014 o.g then .next s.advance
  else if !barValues x.cluster count mask then .next (s.objectState (0x20 + b))
  else if x.arrivals = 0 then .next ((s.setBarrier g b { x with count := count, mask := mask, pending := none }).advance)
  else .next ((s.setBarrier g b { x with pending := some (count, mask) }).advance)

/-! ## Flumes (R192 to R194) -/

/-- May a split in a flume's queue be served: the flume has room for its handle, or a handle for it? A debug-held split keeps its
place, and is not served (R425), nor is one whose warp stands still for a handler (R377). -/
def State.servable (s : State) (g : Nat) (q : Flume) (p : Nat × Nat) : Bool :=
  let x := s.split g p.1 p.2
  x.st == .wait && !s.frozen g p.1 p.2 &&
    match x.wait with
    | .push _ _ => q.items.length < q.depth
    | .pop _ => !q.items.isEmpty
    | _ => true

/-- The split in a flume's queue that is served next: the one that has waited longest for what the flume has (R194). -/
def State.firstWaiter (s : State) (g : Nat) (q : Flume) : Option (Nat × Nat) := q.waiters.find? (s.servable g q)

/-- The waiting split that is first in a flume's queue is served, if its condition holds (R194): its handle is pushed, or
the oldest handle popped into its k pair with the acquire of R74. -/
def State.serveOne (s : State) (g f : Nat) : State :=
  let q := (s.wg g).flume f
  match s.firstWaiter g q with
  | none => s
  | some (w, n) =>
    let rest := q.waiters.filter (· != (w, n))
    let x := s.split g w n
    match x.wait with
    | .push _ h =>
      if q.items.length < q.depth then
        (s.updWg g fun y => y.setFlume f { q with items := q.items ++ [h], waiters := rest }).updSplit g w n fun y =>
          { y.advance with since := s.tick }
      else s
    | .pop _ =>
      match q.items, x.pend with
      | h :: more, some (.qpop o) =>
        (((s.updWg g fun y => y.setFlume f { q with items := more, waiters := rest }).updWarp g w fun y => y.setK64 o.d h).updSplit
          g w n fun y => { y.advance with since := s.tick }).acquireBy g w n .wg
      | _, _ => s
    | _ => s.updWg g fun y => y.setFlume f { q with waiters := rest }

/-- The flume's waiting splits are served, longest wait first; `fuel` bounds how many. -/
def State.serveAll (s : State) (g f : Nat) : Nat → State
  | 0 => s
  | fuel + 1 => (s.serveOne g f).serveAll g f fuel

/-- The flume after its waiting splits are served: an instruction of another split comes after them (R194). -/
def State.served_ (s : State) (g f : Nat) : State := s.serveAll g f ((s.wg g).flume f).waiters.length

/-- FLUME_WAITER_SERVED (R193, R194). -/
def execFlumeWaiterServed (g f : Nat) (s : State) : Out := .next (s.serveOne g f)

/-- QINIT (R193). -/
def execQinit (o : Args) (s : State) : Out :=
  let f := objNum o.a 0x80
  let q := s.curWg.flume f
  let n := (s.uni o.b).toNat
  if !s.acts 0x018 o.g then .next s.advance
  else if n > q.max || !q.waiters.isEmpty
      || s.curWg.splitKeys.any (fun p => let x := s.split s.cur.wg p.1 p.2; x.st == .wait && (x.wait == .nempty f || x.wait == .nfull f)) then
    .next (s.objectState (0x80 + f))
  else .next ((s.updCurWg fun w => w.setFlume f { q with items := [], depth := if n = 0 then q.max else n }).advance)

/-- The issuing split waits on a flume, behind those that wait already, or takes the flume-orphan trap (R41). -/
def State.waitFlume (s : State) (i : Instr) (f : Nat) (w : Wait) : State :=
  let t := s.waitIn i w
  match t.orphanOf s.cur.wg t.curSplit with
  | some _ => s.trapAt 0x17 0 f
  | none => t.updCurWg fun y => y.setFlume f { y.flume f with waiters := (y.flume f).waiters ++ [(s.cur.warp, s.cur.split)] }

/-- QPUSH (R193): the release at WG scope publishes nothing beyond the core; a maths warp's array instructions are
performed first (R74). -/
def execQpush (o : Args) (s : State) : Out :=
  let f := objNum o.a 0x80
  if !s.acts 0x019 o.g then .next s.advance
  else if s.arrayBusy s.cur.wg s.cur.warp then .next (s.waitIn (.qpush o) .array)
  else
    let t := (s.releaseCur .wg).served_ s.cur.wg f
    let q := t.curWg.flume f
    if (t.firstWaiter s.cur.wg q).isNone && q.items.length < q.depth then
      .next ((t.updCurWg fun w => w.setFlume f { q with items := q.items ++ [s.uni64 o.b] }).advance)
    else .next (t.waitFlume (.qpush o) f (.push f (s.uni64 o.b)))

/-- The oldest handle of a flume moves into a k pair of the issuing warp, with the acquire of R74. -/
def State.popInto (s : State) (f d : Nat) (h : DWord) (more : List DWord) : State :=
  ((s.updCurWg fun w => w.setFlume f { w.flume f with items := more }).updCurWarp fun w => w.setK64 d h).acquireCur .wg

/-- QPOP (R193). -/
def execQpop (o : Args) (s : State) : Out :=
  let f := objNum o.a 0x80
  if !s.acts 0x01A o.g then .next s.advance
  else
    let t := s.served_ s.cur.wg f
    let q := t.curWg.flume f
    match q.items with
    | h :: more => if (t.firstWaiter s.cur.wg q).isNone then .next (t.popInto f o.d h more).advance else .next (t.waitFlume (.qpop o) f (.pop f))
    | [] => .next (t.waitFlume (.qpop o) f (.pop f))

/-- QTRY (R193). -/
def execQtry (o : Args) (kpd : Fin 8) (s : State) : Out :=
  let f := objNum o.a 0x80
  if !s.acts 0x01B o.g then .next s.advance
  else
    let t := s.served_ s.cur.wg f
    match (t.curWg.flume f).items with
    | h :: more => .next (((t.popInto f o.d h more).updCurWarp fun w => w.setUpred kpd.val true).advance)
    | [] => .next ((t.updCurWarp fun w => w.setUpred kpd.val false).advance)

/-! ## Ordering and timelines (R195, R196) -/

/-- PHASE.REL (R72, R74): below CLUSTER scope it publishes nothing beyond the core, and completes with its fence. -/
def execPhaseRel (o : Args) (scope : Scope) (s : State) : Out :=
  if !s.acts 0x020 o.g then .next s.advance
  else
    .next (s.ordered (.phaseRel o scope)
      (if scopePublishes scope then s.releaseWait (.phaseRel o scope) scope else (s.releaseCur scope).advance))
/-- PHASE.ACQ (R62, R74, R77). -/
def execPhaseAcq (o : Args) (scope : Scope) (s : State) : Out :=
  if s.acts 0x021 o.g then .next (s.acquireCur scope).advance else .next s.advance
/-- FENCE (R72): the stores of the split that its scope orders and that are not performed yet are performed; a maths warp's array
instructions, whose reads and writes every scope orders, come first. -/
def execFence (o : Args) (scope : Scope) (s : State) : Out :=
  if s.acts 0x022 o.g then .next (s.ordered (.fence o scope) (s.fenceCur scope).advance) else .next s.advance

/-- TLSIG (R72, R74, R77, R196): the number is taken, and the release has its place in the device order, at issue; the counter passes the
number once the release is complete. -/
def execTlsig (o : Args) (scope : Scope) (s : State) : Out :=
  if !s.acts 0x023 o.g then .next s.advance
  else
    let core := s.curWg.core
    let ctx := s.curWg.ctx
    let (s1, n) := (s.releaseCur scope).takeNumber ctx core
    let s2 := s1.updCurWarp fun w => w.setK64 o.d (BitVec.ofNat 64 n)
    .next (s.ordered (.tlsig o scope)
      (if scopePublishes scope then
        ((s2.releaseAt core s.cur.wg scope).updCore core fun c =>
          { c with releases := c.releases ++ [{ wg := s.cur.wg, who := none, scope := scope, number := some n }] }).advance
      else (s2.complete ctx core n).advance))

/-- TLWAIT's end (R87): the acquire, where the scope covers the engine context. -/
def State.tlwaitDone (s : State) (scope : Scope) (id : Nat) : State :=
  if s.coversEngine s.cur.wg scope id then (s.acquireCur scope).advance else s.advance
/-- TLWAIT (R87, R196). -/
def execTlwait (o : Args) (scope : Scope) (s : State) : Out :=
  let id := (s.uni o.a).toNat
  let n := (s.uni64 o.b).toNat
  if !s.acts 0x024 o.g then .next s.advance
  else if !ctxIdOk id then .next (s.illegalOperand 7)
  else if n = 0 then .next s.advance
  else if n ≤ (s.timeline s.curWg.ctx id).count then .next (s.tlwaitDone scope id)
  else .next (s.waitIn (.tlwait o scope) (.counter id n))

/-- TLWAIT_WAKE (R87, R196): the counter has reached the number. -/
def execTlwaitWake (g w n : Nat) (s : State) : Out :=
  let x := s.split g w n
  match x.pend, x.wait with
  | some (.tlwait _ scope), .counter id k =>
    if x.live && x.st == .wait && !s.frozen g w n && k ≤ (s.timeline (s.wg g).ctx id).count then
      .next (((s.actAs g w n).tlwaitDone scope id).updSplit g w n fun y => { y with since := s.tick })
    else .next s
  | _, _ => .next s

/-- Does an instruction of the issuing warp wait for array instructions before it (R72, R74, R103, R154, R286, R289)? -/
def State.arrayHolds (s : State) (i : Instr) : Bool :=
  match i with
  | .fence .. => s.arrayUndone s.cur.wg s.cur.warp
  | .phaseRel .. => s.arrayUndone s.cur.wg s.cur.warp
  | .tlsig .. => s.arrayUndone s.cur.wg s.cur.warp
  | .barArrive _ => s.arrayUndone s.cur.wg s.cur.warp
  | .barSync _ => s.arrayUndone s.cur.wg s.cur.warp
  | .mdrain _ _ => s.arrayRuns s.cur.wg s.cur.warp
  | .mzero o _ => s.windowBusy s.cur.wg s.cur.warp o.d (s.uni o.a).toNat
  | .mpromoI2P o _ => s.windowBusy s.cur.wg s.cur.warp o.d (s.uni o.a).toNat
  | .mpromoP2I o _ => s.windowBusy s.cur.wg s.cur.warp o.d (s.uni o.a).toNat
  | _ => s.arrayBusy s.cur.wg s.cur.warp

/-! ## Ends of waits (R74, R186) -/

/-- What a waiting split does once its release, or another act that it waits for, is complete (R74). -/
def State.afterRelease (s : State) : State :=
  match s.curSplit.pend with
  | some (.barArrive o) => s.arriveCur o
  | some (.barSync o) => s.syncCur (.barSync o) o
  | _ => s.advance

/-- The same at once, or once the handler for which its warp stands still has left (R377). -/
def State.goOn (s : State) (g w n : Nat) : State :=
  if s.frozen g w n then s.updSplit g w n fun y => { y with wait := .done }
  else (s.actAs g w n).afterRelease.updSplit g w n fun y => { y with since := s.tick }

/-- WAIT_WAKE (R186, and R74, R103, R208, R263 for the other waits): the split's condition holds, and it goes on, unless its warp stands
still for a handler (R377). -/
def execWaitWake (g w n : Nat) (s : State) : Out :=
  let x := s.split g w n
  let t := s.actAs g w n
  if !(x.live && x.st == .wait) || s.frozen g w n then .next s
  else
    match x.pend, x.wait with
    | some _, .again => .next (s.updSplit g w n fun y => { y.again with since := s.tick })
    | some _, .done => .next (t.afterRelease.updSplit g w n fun y => { y with since := s.tick })
    | some _, .cancel k => if s.cancelling g k then .next s else .next (s.goOn g w n)
    | some (.wait o _), c =>
      let (holds, fail) := x.holds (s.waitHolds g c)
      if holds then .next ((t.waitDone o none fail).updSplit g w n fun y => { y with since := s.tick }) else .next s
    | some (.yield o _), c =>
      let (holds, fail) := x.holds (s.waitHolds g c)
      if holds then .next ((t.waitDone o (some (t.dispTarget o.b)) fail).updSplit g w n fun y => { y with since := s.tick }) else .next s
    | some (.mrel _ _), .tb off phase =>
      if s.arrayBusy g w then .next s else .next ((t.mrelDone (some (off, phase))).updSplit g w n fun y => { y with since := s.tick })
    | some _, .barrier b kg =>
      if genDone (s.barrier g b).gen kg then
        .next ((s.updSplit g w n fun y => { y.advance with since := s.tick }).acquireBy g w n (s.barrierScope g b))
      else .next s
    | none, .array =>
      if s.arrayBefore g w then .next s else .next (s.updSplit g w n fun y => { y.again with since := s.tick })
    | some i, .array =>
      if t.arrayHolds i then .next s else .next (s.updSplit g w n fun y => { y.again with since := s.tick })
    | _, _ => .next s

/-- RELEASE_COMPLETION (R63, R74, R76, R77): the workgroup's stores are published, and the split goes on; a TLSIG, which has published
them at its issue, has its number complete; the exit release of a workgroup has only that effect. -/
def execReleaseCompletion (core ix : Nat) (s : State) : Out :=
  match (s.core core).releases[ix]? with
  | none => .next s
  | some r =>
    let s0 := if r.number.isSome then s else s.releaseAt core r.wg r.scope
    let s1 := s0.updCore core fun c => { c with releases := c.releases.eraseIdx ix }
    let s2 := match r.number with
      | some n => s1.complete (s.wg r.wg).ctx core n
      | none => s1
    match r.who with
    | some (w, n) =>
      let x := s2.split r.wg w n
      if x.live && x.st == .wait && x.wait == .release then
        .next (s2.goOn r.wg w n)
      else .next s2
    | none => .next s2

/-! ## Election, votes, traps and mode (R197 to R200) -/

/-- ELECT (R198). -/
def execElect (o : Args) (s : State) : Out :=
  let mask := s.curSplit.mask
  match lowestLane (s.active 0x00C o.g) with
  | none => .next s.advance
  | some l => .next (s.updCurWarp fun w => w.setPred o.d mask (1#64 <<< l)).advance

/-- POLL (R198). -/
def execPoll (o : Args) (mode : PollMode) (s : State) : Out :=
  let live := s.active 0x00D o.g
  let x := live &&& s.predObj o.a
  if live = 0 then .next s.advance
  else
    .next (s.updCurWarp fun w =>
      match mode with
      | .none_ => w.setUpred o.d (x == 0)
      | .every => w.setUpred o.d (x == live)
      | .count => w.setK o.d (BitVec.ofNat 32 (laneCount x))
      | .map => w.setK64 o.d x).advance

/-- TRAP (R199). -/
def execTrap (o : Args) (s : State) : Out :=
  let code := (s.uni o.a).toNat
  if !s.acts 0x00E o.g then .next s.advance
  else if code > 65535 then .next (s.illegalOperand 7)
  else .next (s.trapNext 0x18 s.curSplit.pc.toNat code)

/-- TRAPFENCE (R103, R199). -/
def execTrapfence (o : Args) (s : State) : Out :=
  let hit := (s.curWarp.flags &&& s.uni o.a).toNat % 128
  if !s.acts 0x00F o.g then .next s.advance
  else if s.arrayBusy s.cur.wg s.cur.warp then .next (s.waitIn (.trapfence o) .array)
  else if hit ≠ 0 then .next (s.trapNext 0x19 s.curSplit.pc.toNat hit)
  else .next s.advance

/-- The value of a special register in a lane (R158). -/
def State.sreg (s : State) (r : SReg) (lane : Nat) : DWord :=
  let g := s.curWg
  let w := s.curWarp
  let small (n : Nat) : DWord := BitVec.ofNat 64 n
  match r with
  | .laneid => small (if w.role = .maths then 0 else lane)
  | .width => small w.width
  | .warpid => small s.cur.warp
  | .role => small w.role.toBits
  | .split => small s.cur.split
  | .lanemask => s.curSplit.mask
  | .core => small g.core
  | .die => small (g.core / Config.coresPerDie)
  | .wgid => small (g.wgid % 2 ^ 32)
  | .clusterRank => small g.rank
  | .clusterSize => small g.size
  | .arithMode => w.mode.setWidth 64
  | .arithFlags => w.flags.setWidth 64
  | .progress => w.progress
  | .time => s.time
  | .prio => small s.cur.prio

/-- Is the special register of 64 bits (R158)? -/
def sregWide : SReg → Bool
  | .lanemask => true
  | .progress => true
  | .time => true
  | _ => false

/-- S2K (R158, R200). -/
def execS2k (o : Args) (r : SReg) (vdst : Bool) (s : State) : Out :=
  let act := s.active 0x028 o.g
  if act = 0 then .next s.advance
  else if vdst then
    .next (s.updCurWarp fun w => w.setVs ((lanesOf act).flatMap fun l =>
      let x := s.sreg r l
      if sregWide r then [(l, o.d, x.extractLsb' 0 32), (l, o.d + 1, x.extractLsb' 32 32)] else [(l, o.d, x.extractLsb' 0 32)])).advance
  else
    let x := s.sreg r ((lowestLane s.curSplit.mask).getD 0)
    .next (s.updCurWarp fun w => if sregWide r then w.setK64 o.d x else w.setK o.d (x.extractLsb' 0 32)).advance

/-- A write of ARITH.MODE (R95): none where it would place a reserved rounding mode. -/
def Warp.writeMode (w : Warp) (x : Word) : Option Warp :=
  if x.toNat % 8 > 4 then none else some { w with mode := x &&& 0x1F }
/-- A write of ARITH.FLAGS (R102): ones clear. -/
def Warp.writeFlags (w : Warp) (x : Word) : Warp := { w with flags := w.flags &&& ~~~(x &&& 0xFF) }

/-- K2S (R95, R159, R200). -/
def execK2s (o : Args) (r : SReg) (s : State) : Out :=
  let x := s.uni o.a
  if !s.acts 0x029 o.g then .next s.advance
  else
    match r with
    | .arithMode =>
      match s.curWarp.writeMode x with
      | some w => .next (s.updCurWarp fun _ => w).advance
      | none => .next (s.illegalOperand 7)
    | .arithFlags => .next (s.updCurWarp fun w => w.writeFlags x).advance
    | _ => .next (s.illegalOperand 0)

/-- SETMODE (R200). -/
def execSetmode (o : Args) (wrnd : Bool) (rnd : RndMode) (wftz ftz wnanp nanp : Bool) (s : State) : Out :=
  if !s.acts 0x02A o.g then .next s.advance
  else
    .next (s.updCurWarp fun w =>
      let put (m : Word) (b : Bool) (i : Nat) (x : Bool) : Word :=
        if b then (m &&& ~~~(1#32 <<< i)) ||| (if x then 1#32 <<< i else 0) else m
      let m := if wrnd then (w.mode &&& ~~~7#32) ||| BitVec.ofNat 32 rnd.toBits else w.mode
      { w with mode := put (put m wftz 3 ftz) wnanp 4 nanp }).advance

end Sys2Proof.Machine
end

