-- ==== Sys2Proof/Machine/Trap.lean ====
section
/-! DEFINITION. Handlers, trap rings and the driver's commands on held subjects; the privileged instructions (R204 to R208, R375 to R386). -/
namespace Sys2Proof.Machine

/-! ## Records (R375) -/

/-- A field of a record placed at a bit. -/
def place (x lo n : Nat) : Nat := x % 2 ^ n * 2 ^ lo

/-- A record's 64 bytes as a number, with REC.SEQ. -/
def TrapRec.bits (r : TrapRec) (seq : Nat) : Nat :=
  place r.slot.toNat 416 96 + place r.addr.toNat 352 64 + place r.data.toNat 288 64 + place r.pc.toNat 224 57 + place r.mask.toNat 160 64
    + place r.time.toNat 96 64 + place r.wgid.toNat 64 32 + place r.ctx 56 8 + place r.core 49 7 + place r.split 47 2 + place r.warp 40 7
    + place r.kind 36 4 + place (boolBit r.held) 33 1 + place (boolBit r.nested) 32 1 + place seq 16 16 + place r.code 0 16

/-- Word `n` of a number. -/
def wordAt (x n : Nat) : Word := BitVec.ofNat 32 (x / 2 ^ (32 * n))

/-! ## Entry and exit of handlers (R377, R378, R384) -/

/-- HANDLER_ENTRY (R377): the split of a workgroup whose trap is first enters its handler. A split that is in state in-trap
for a retired opcode is emulated (R326). -/
def execHandlerEntry (g : Nat) (s : State) : Out :=
  let wg := s.wg g
  match wg.trapQueue with
  | [] => .next s
  | (w, n) :: rest =>
    let x := s.split g w n
    let pop (t : State) : State := t.updWg g fun y => { y with trapQueue := rest }
    match x.emu with
    | some e => if wg.handler == none || wg.handler == some (w, n) then .next ((pop s).emulate g w n e) else .next s
    | none =>
      if wg.handler != none then .next s
      else
        let bits := (x.trap.getD {}).bits 0
        let old := (List.range 16).map fun i => (s.warp g w).getK (48 + i)
        let pc : PC := BitVec.ofNat 57 (wg.code + wg.trapEntry (s.warp g w).role)
        let s1 := (pop s).updWarp g w fun y => (y.setKs 48 ((List.range 16).map (wordAt bits))).stampSiblings n s.tick
        .next ((s1.updWg g fun y => { y with handler := some (w, n) }).updSplit g w n fun y =>
          { y.goTo pc false with st := .run, holdNext := y.holdNext, stopRec := y.stopRec, handler := true, bank := old, since := s.tick })

/-- The warp's suspended chain whose stopped instruction split `n` would issue again at a PC (R293, R294). -/
def State.stoppedChain (s : State) (g w n : Nat) (pc : PC) : Option Chain :=
  (s.openChain g w).filter fun h => h.suspended && (h.todo.head?.any fun i => i.split == n && i.pc == pc)

/-- Does PROGRESS, altered by WREG, differ from the state of the suspended chain that the split stopped in (R293), wherever it is to go on? -/
def State.progressBad (s : State) (g w n : Nat) : Bool :=
  (s.openChain g w).any fun h => h.suspended && h.todo.head?.any (fun i => i.split == n) && h.progress != (s.warp g w).progress

/-- A split in state in-trap, or in its handler, returns to state run at its resume PC (R207, R378, R383): the bank comes
back into k48 to k63, and the next split may enter its handler. -/
def State.resumeSplit (s : State) (g w n : Nat) : State :=
  let x := s.split g w n
  let again := (s.stoppedChain g w n x.resume).isSome
  let s1 := if x.handler then s.updWarp g w fun y => (y.setKs 48 x.bank).stampSiblings n s.tick else s
  (s1.updSplit g w n fun y =>
    { Split.goTo { y with handler := false } x.resume x.resumeSeq with
      trap := none, bank := [], emu := none, stopped := again, since := s.tick }).leaveHandler g w n

/-- ERET, and WRESUME of the issuing split (R207, R293). -/
def State.eret (s : State) : State :=
  if s.progressBad s.cur.wg s.cur.warp s.cur.split then s.objectState 0 else s.resumeSplit s.cur.wg s.cur.warp s.cur.split

/-- ERET. -/
def execEret (o : Args) (s : State) : Out := if s.acts 0x074 o.g then .next s.eret else .next s.advance

/-- Does the WARPID name a warp of the issuing workgroup (R204)? -/
def State.warpOk (s : State) (w : Nat) : Bool := (s.warp s.cur.wg w).live

/-- WRESUME. -/
def execWresume (o : Args) (s : State) : Out :=
  let g := s.cur.wg
  let w := (s.uni o.a).toNat
  let n := (s.uni o.b).toNat
  let x := s.split g w n
  if !s.acts 0x072 o.g then .next s.advance
  else if !s.warpOk w || n > 3 then .next (s.illegalOperand 7)
  else if w = s.cur.warp && n = s.cur.split then .next s.eret
  else if !x.live || x.st != .inTrap then .next (s.illegalOperand 7)
  else if s.progressBad g w n then .next (s.objectState 0)
  else .next (s.resumeSplit g w n).advance

/-- WKILL. -/
def execWkill (o : Args) (s : State) : Out :=
  let w := (s.uni o.a).toNat
  if !s.acts 0x073 o.g then .next s.advance
  else if !s.warpOk w then .next (s.illegalOperand 7)
  else if w = s.cur.warp then .next (s.killWarp s.cur.wg w)
  else .next (s.killWarp s.cur.wg w).advance

/-! ## WSTAT and WREG (R205, R206) -/

/-- A split-table entry in the layout of R31. -/
def Split.statBits (x : Split) : Nat :=
  if x.live then
    2 ^ 127 + place x.stateBits 124 3 + place x.defer.length 121 3 + place x.shownPc.toNat 64 57 + x.mask.toNat
  else 0
/-- A deferral record in the layout of R31. -/
def DeferRec.statBits (r : DeferRec) : Nat := 2 ^ 127 + place (boolBit r.arrived) 126 1 + place r.pc.toNat 64 57 + r.mask.toNat
/-- A loop record in the layout of R181. -/
def LoopRec.statBits (r : LoopRec) : Nat :=
  2 ^ 127 + place r.first.toNat 64 57 + place r.endLine 35 29 + place r.endSlot 32 3 + r.count.toNat

/-- The item of a WSTAT selector, or none where the selector is illegal. -/
def Warp.statItem (w : Warp) (sel : Nat) : Option Nat :=
  let x := w.split (sel % 4)
  match sel / 2 ^ 12 with
  | 0 => if sel < 4 then some x.statBits else none
  | 1 =>
    let pos := sel / 16 % 8
    if sel % 16 < 4 && sel / 16 % 2 ^ 8 < 4 then
      some (if x.live then ((x.defer.reverse[pos]?).map DeferRec.statBits).getD 0 else 0)
    else none
  | 2 =>
    if sel % 16 < 4 && sel / 16 % 2 ^ 8 < 4 then
      some (if x.live then ((x.loops.reverse[sel / 16 % 4]?).map LoopRec.statBits).getD 0 else 0)
    else none
  | _ => none

/-- WSTAT. -/
def execWstat (o : Args) (s : State) : Out :=
  let w := (s.uni o.a).toNat
  if !s.acts 0x070 o.g then .next s.advance
  else if !s.warpOk w then .next (s.illegalOperand 7)
  else
    match (s.warp s.cur.wg w).statItem (s.uni o.b).toNat with
    | none => .next (s.illegalOperand 7)
    | some x => .next (s.updCurWarp fun y => y.setKs o.d ((List.range 4).map (wordAt x))).advance

/-- An element that WREG names (R206). -/
inductive Elem where
  | v (lane n : Nat)
  | k (n : Nat)
  | p (lane n : Nat)
  | kp (n : Nat)
  | sreg (r : SReg) (high : Bool)
  | resume (entry : Nat) (high : Bool)
  deriving DecidableEq, Repr

/-- The element of a selector for a warp, or none where the selector is illegal (R206). -/
def Warp.elem (w : Warp) (sel : Nat) : Option Elem :=
  let lane := sel / 2 ^ 16 % 2 ^ 8
  let low := sel % 2 ^ 16
  let high := bitAt sel 8
  match sel / 2 ^ 28 with
  | 0 => if sel / 2 ^ 24 % 16 = 0 && low < w.regs && low < 256 && lane < w.width then some (.v lane low) else none
  | 1 => if sel % 2 ^ 28 < 64 then some (.k (sel % 64)) else none
  | 2 => if sel / 2 ^ 24 % 16 = 0 && low < 7 && lane < w.width then some (.p lane low) else none
  | 3 => if sel % 2 ^ 28 < 7 then some (.kp (sel % 8)) else none
  | 4 =>
    let r := SReg.ofBits (sel % 256)
    if sel % 2 ^ 28 < 512 && r.toBits = sel % 256 && (!high || r.is64) then some (.sreg r high) else none
  | 5 => if sel % 2 ^ 28 / 512 = 0 && sel % 256 < 4 then some (.resume (sel % 4) high) else none
  | _ => none

/-- A half of a 64-bit value. -/
def halfOf (high : Bool) (x : DWord) : Word := if high then x.extractLsb' 32 32 else x.extractLsb' 0 32
/-- The value with a half replaced. -/
def setHalf (high : Bool) (x : DWord) (y : Word) : DWord := if high then y ++ x.extractLsb' 0 32 else x.extractLsb' 32 32 ++ y

/-- The effective priority of a split (R371). -/
def State.effPrio (s : State) (g w n : Nat) : Nat :=
  let x := s.split g w n
  let p := min 31 ((s.wg g).prio + x.age + (s.split g w n).waited / 256)
  if x.hint then p - 1 else p

/-- Does WREG kind 5 apply to the split (R206)? -/
def State.resumeOk (s : State) (w n : Nat) : Bool :=
  (w = s.cur.warp && n = s.cur.split) || ((s.split s.cur.wg w n).live && (s.split s.cur.wg w n).st == .inTrap)

/-- The lowest live split of a warp. -/
def Warp.firstSplit (w : Warp) : Nat := (splitIxs.find? fun i => (w.split i).live).getD 0

/-- An element's value, or none where it is illegal. -/
def State.readElem (s : State) (w : Nat) (e : Elem) : Option Word :=
  let x := s.warp s.cur.wg w
  match e with
  | .v lane n => some (x.getV lane n)
  | .k n => some (x.getK n)
  | .p lane n => some (if (x.pred n).getLsbD lane then 1 else 0)
  | .kp n => some (if x.upred n then 1 else 0)
  | .sreg r high =>
    let n := x.firstSplit
    let t := { s.actAs s.cur.wg w n with cur := { wg := s.cur.wg, warp := w, split := n, prio := s.effPrio s.cur.wg w n } }
    some (halfOf high (t.sreg r ((lowestLane (x.split n).mask).getD 0)))
  | .resume n high => if s.resumeOk w n then some (halfOf high ((x.split n).resume.setWidth 64)) else none

/-- The bits of PROGRESS that are not reserved, which a write keeps at zero (R6, R293). -/
def progressBits : DWord := 0xF000FFFFFFFFFFFF

/-- The state with an element written, or none where the write is illegal (R95, R206). -/
def State.writeElem (s : State) (w : Nat) (e : Elem) (y : Word) : Option State :=
  let g := s.cur.wg
  match e with
  | .v lane n => some (s.updWarp g w fun x => x.setV lane n y)
  | .k n => some (s.updWarp g w fun x => x.setK n y)
  | .p lane n => some (s.updWarp g w fun x => x.setPred n (1#64 <<< lane) (uniform (y.getLsbD 0)))
  | .kp n => some (s.updWarp g w fun x => x.setUpred n (y.getLsbD 0))
  | .sreg .arithMode _ => ((s.warp g w).writeMode y).map fun x => s.updWarp g w fun _ => x
  | .sreg .arithFlags _ => some (s.updWarp g w fun x => x.writeFlags y)
  | .sreg .progress high => some (s.updWarp g w fun x => { x with progress := setHalf high x.progress y &&& progressBits })
  | .sreg _ _ => none
  | .resume n high =>
    if s.resumeOk w n then
      some (s.updSplit g w n fun x => { x with resume := (setHalf high (x.resume.setWidth 64) y).setWidth 57, resumeSeq := false })
    else none

/-- WREG.R. -/
def execWregR (o : Args) (s : State) : Out :=
  let w := (s.uni o.a).toNat
  if !s.acts 0x071 o.g then .next s.advance
  else if !s.warpOk w then .next (s.illegalOperand 7)
  else
    match ((s.warp s.cur.wg w).elem (s.uni o.b).toNat).bind (s.readElem w) with
    | some x => .next (s.updCurWarp fun y => y.setK o.d x).advance
    | none => .next (s.illegalOperand 7)

/-- WREG.W. -/
def execWregW (o : Args) (s : State) : Out :=
  let w := (s.uni o.a).toNat
  if !s.acts 0x071 o.g then .next s.advance
  else if !s.warpOk w then .next (s.illegalOperand 7)
  else
    match ((s.warp s.cur.wg w).elem (s.uni o.b).toNat).bind fun e => s.writeElem w e (s.uni o.c) with
    | some t => .next t.advance
    | none => .next (s.illegalOperand 7)

/-! ## TLBINV and EMUARGS (R58, R208) -/

/-- An invalidation by the issuing split starts (R58). -/
def State.invalidate (s : State) (i : Instr) (page : Option Nat) : State :=
  let t := s.waitIn i .inval
  { t with invals := t.invals ++ [{ ctx := s.curWg.ctx, page := page, who := some (s.cur.wg, s.cur.warp, s.cur.split) }] }

/-- TLBINV.PAGE. -/
def execTlbinvPage (o : Args) (s : State) : Out :=
  if s.acts 0x075 o.g then .next (s.invalidate (.tlbinvPage o) (some ((s.uni64 o.a).toNat % 2 ^ 57))) else .next s.advance
/-- TLBINV.ALL. -/
def execTlbinvAll (o : Args) (s : State) : Out :=
  if s.acts 0x075 o.g then .next (s.invalidate (.tlbinvAll o) none) else .next s.advance

/-- Does an invalidation drop a translation? -/
def Inval.drops (v : Inval) (e : TlbEntry) : Bool :=
  e.ctx == v.ctx && match v.page with | none => true | some va => va / 2 ^ e.bits * 2 ^ e.bits == e.va

/-- TLB_INVALIDATION_COMPLETE (R58, R355): stores that used a translation are performed, the translations leave the TLBs of both dies, and the split or the driver sees the
completion. -/
def execTlbInvalidationComplete (ix : Nat) (s : State) : Out :=
  match s.invals[ix]? with
  | none => .next s
  | some v =>
    let s0 := s.cores.foldl (fun t p => t.perform p.1 fun _ => true) s
    let s1 := { s0 with invals := s.invals.eraseIdx ix,
                        cores := s0.cores.map fun p => (p.1, { p.2 with tlb := p.2.tlb.filter fun e => !v.drops e }) }
    match v.who with
    | none => .next { s1 with tlbcmd := s1.tlbcmd &&& 0x7FFFFFFF }
    | some (g, w, n) =>
      let x := s1.split g w n
      if x.live && x.st == .wait && x.wait == .inval then .next (s1.goOn g w n) else .next s1

/-- The operands of the retired instruction that a split emulates, where its fields are legal (R208, R325). -/
def State.emuArgs (s : State) (e : Emu) : Option Args :=
  match rawModern (Raw.ofSlot (rawSlotOf e.instr).words) with
  | none => none
  | some m =>
    match decodeFields (s.decodeCtx s.cur.wg s.cur.warp s.cur.split) m (rawSlotOf e.instr).carrier with
    | .ok i => some i.args
    | .err _ => none

/-- How a retired instruction reads its operands (R147, R325). -/
def emuKind : Instr → OpKind
  | .imad24 _ => .int
  | .fmad16 _ => .half
  | .loge _ => .float
  | _ => .bits

/-- The value of EMUARGS in a lane, or none for an illegal selector. -/
def State.emuValue (s : State) (e : Emu) (o : Args) (sel l : Nat) : Option Word :=
  match sel with
  | 0 => some (s.opnd (emuKind e.instr) o.a l)
  | 1 => some (s.opnd (emuKind e.instr) o.b l)
  | 2 => some (s.opnd (emuKind e.instr) o.c l)
  | 3 => some (s.curWarp.getV l o.d)
  | _ => none

/-- EMUARGS (R208). -/
def execEmuargs (o : Args) (s : State) : Out :=
  let sel := (s.uni o.a).toNat
  if !s.acts 0x076 o.g then .next s.advance
  else
    match s.curSplit.emu with
    | none => .next (s.illegalOperand 7)
    | some e =>
      match s.emuArgs e with
      | none => .next (s.illegalOperand 7)
      | some x =>
        let lanes := lanesOf e.active
        if sel > 3 then .next (s.illegalOperand 7)
        else .next (s.updCurWarp fun w => w.setVs (lanes.map fun l => (l, o.d, (s.emuValue e x sel l).getD 0))).advance
/-- EMUARGS.W. -/
def execEmuargsW (o : Args) (s : State) : Out :=
  let sel := (s.uni o.a).toNat
  if !s.acts 0x076 o.g then .next s.advance
  else
    match s.curSplit.emu with
    | none => .next (s.illegalOperand 7)
    | some e =>
      match s.emuArgs e with
      | none => .next (s.illegalOperand 7)
      | some x =>
        if sel ≠ 3 then .next (s.illegalOperand 7)
        else .next (s.updCurWarp fun w => w.setVs ((lanesOf e.active).map fun l => (l, x.d, s.opnd .bits o.b l))).advance

/-! ## Trap rings (R379 to R382) -/

/-- A context's first pending record is written, RPROD advances, and its vector is signalled; a record that meets a full ring waits,
but for a stray arrival, which is dropped (R380, R381). -/
def State.ringWrite (s : State) (ctx : Nat) : State :=
  let c := s.ctx ctx
  match c.pending with
  | [] => s
  | r :: rest =>
    if c.ringFull then
      if r.code = 0x80 then s.updCtx ctx fun c => { c.dropRecord with pending := rest } else s
    else
      let i := c.rprod.toNat
      let s1 := s.putThrough (c.ring + 64 * (i % 2 ^ (c.ringSize + 6))) (toBytes 64 (r.bits i))
      let s2 := s1.updCtx ctx fun c =>
        { c with pending := rest, rprod := c.rprod + 1, held := if r.held then c.held ++ [(i, r)] else c.held }
      if c.rcfg.getLsbD 31 then s2.signal (c.rcfg.toNat % 2 ^ 11) else s2

/-- TRAP_RING_RECORD_WRITE (R380, R381). -/
def execTrapRingRecordWrite (ctx : Nat) (s : State) : Out := .next (s.ringWrite ctx)

/-- Is the master the headgate's owner, whose register writes take effect (R429), with the firmware running (R435)? -/
def State.owns (s : State) (m : Master) : Bool := s.fleet.owner == some m && s.fleet.recovery == 0

/-- RCONS_WRITE (R379). -/
def execRconsWrite (m : Master) (ctx : Nat) (v : Word) (s : State) : Out :=
  let c := s.ctx ctx
  if s.owns m && decide ((c.rprod - v).toNat ≤ 2 ^ (c.ringSize + 6)) then .next (s.updCtx ctx fun c => { c with rcons := v }) else .next s

/-! ## Held subjects (R382, R383) -/

/-- Where a held subject is. -/
inductive Subject where
  | split (g w n : Nat)
  | savedSplit (image ix w n : Nat)
  | cmd (core ix : Nat)
  | savedCmd (image ix c : Nat)
  | packet (q ix : Nat)
  deriving DecidableEq, Repr

/-- The images of saved workgroups: cluster, place in it, image. -/
def State.images (s : State) : List (Nat × Nat × Image) :=
  s.saved.zipIdx.flatMap fun p => p.1.images.zipIdx.map fun q => (p.2, q.2, q.1)

/-- Is the split stopped by the trap of a record? -/
def Split.heldBy (x : Split) (r : TrapRec) : Bool := x.live && x.st == .inTrap && x.trap == some r
/-- Is the command suspended by the fault of a record? -/
def Cmd.heldBy (c : Cmd) (r : TrapRec) : Bool :=
  c.suspended && c.wg == r.subj && c.number % 2 ^ 64 == r.slot.toNat % 2 ^ 64 && c.ctx == r.ctx && c.engine == r.engine

/-- The held subject of a record, if it is still held (R382). -/
def State.subject (s : State) (r : TrapRec) : Option Subject :=
  match r.kind with
  | 0 =>
    if (s.split r.subj r.warp r.split).heldBy r then some (.split r.subj r.warp r.split)
    else
      (s.images.find? fun p => p.2.2.wg == r.subj && ((p.2.2.wgState.warp r.warp).split r.split).heldBy r).map fun p =>
        .savedSplit p.1 p.2.1 r.warp r.split
  | 1 =>
    let core := (s.wg r.subj).core
    match (s.core core).cmds.findIdx? fun c => c.heldBy r with
    | some ix => some (.cmd core ix)
    | none =>
      s.images.findSome? fun p => (p.2.2.cmds.findIdx? fun c => c.heldBy r).map fun k => .savedCmd p.1 p.2.1 k
  | 2 =>
    ((s.queue r.subj).packets.findIdx? fun k => k.suspended && k.number % 2 ^ 64 == r.slot.toNat % 2 ^ 64).map fun k => .packet r.subj k
  | _ => none

/-- The state with an image of a saved cluster changed. -/
def State.updImage (s : State) (c ix : Nat) (f : Image → Image) : State :=
  { s with saved := s.saved.mapIdx fun i x => if i = c then { x with images := x.images.mapIdx fun j y => if j = ix then f y else y } else x }

/-- WGCMD release. -/
def State.releaseSubject (s : State) : Subject → State
  | .split g w n => s.resumeSplit g w n
  | .savedSplit c ix w n =>
    s.updImage c ix fun y =>
      let x := (y.wgState.warp w).split n
      let again := y.chain.any fun h => h.suspended && h.warp == w && h.todo.head?.any fun i => i.split == n && i.pc == x.resume
      let z := { x.goTo x.resume x.resumeSeq with trap := none, emu := none, stopped := again }
      { y with wgState := y.wgState.setWarp w ((y.wgState.warp w).setSplit n z) }
  | _ => s

/-- An image whose workgroup has been killed (R383): its warps have exited, its chains are discarded, its commands are
cancelled when it is restored, but for a TCOLL, which nothing cancels (R263). -/
def Image.kill (y : Image) : Image :=
  { y with chain := none, queue := [], spill := [], cmds := y.cmds.map fun c => { c with cancelled := c.cancelled || (c.kind != .tcoll && !c.failed) },
           wgState := { y.wgState with exited := true, handler := none, trapQueue := [],
                                       warps := y.wgState.warps.map fun p => (p.1, { p.2 with exited := true, splits := [] }) } }

/-- WGCMD kill. -/
def State.killSubject (s : State) : Subject → State
  | .split g _ _ => s.killWorkgroup g
  | .savedSplit c ix _ _ => s.updImage c ix Image.kill
  | _ => s

/-- WGCMD resume command (R265, R383): it goes on from its engine progress. -/
def State.resumeSubject (s : State) : Subject → State
  | .cmd core ix => s.updCore core fun k => { k with cmds := k.cmds.mapIdx fun i c => if i = ix then { c.rerun with suspended := false } else c }
  | .savedCmd a b k => s.updImage a b fun y => { y with cmds := y.cmds.mapIdx fun i c => if i = k then { c.rerun with suspended := false } else c }
  | .packet q ix => s.updQueue q fun x => { x with packets := x.packets.mapIdx fun i p => if i = ix then { p with suspended := false } else p }
  | _ => s

/-- WGCMD cancel command (R263, R383). -/
def State.cancelSubject (s : State) : Subject → State
  | .cmd core ix =>
    match (s.core core).cmds[ix]? with
    | some c => s.cancelCmd core c
    | none => s
  | .savedCmd a b k => s.updImage a b fun y => { y with cmds := y.cmds.mapIdx fun i c => if i = k then { c with cancelled := true, suspended := false } else c }
  | .packet q ix =>
    s.updQueue q fun x => { x with packets := x.packets.mapIdx fun i p => if i = ix then { p with suspended := false, cancelled := true } else p }
  | _ => s

/-- A WGCMD by a master on context `ctx` (R383): `allowed` says for which records, `act` what it does. -/
def State.wgcmd (s : State) (m : Master) (ctx : Nat) (allowed : TrapRec → Bool) (act : State → Subject → State) : State :=
  let c := s.ctx ctx
  let err (t : State) (n : Nat) : State := t.updCtx ctx fun c => { c with wgcmd := BitVec.ofNat 32 (n * 2 ^ 28) }
  if !s.owns m then s
  else if !c.created then err s 3
  else
    match c.held.find? fun p => p.1 == c.wgarg.toNat with
    | none => err s 1
    | some (i, r) =>
      match s.subject r with
      | none => err s 1
      | some x =>
        if !allowed r then err s 2
        else err ((act s x).updCtx ctx fun c => { c with held := c.held.filter fun p => p.1 != i }) 0

/-- Is the record one of a suspended command or packet? -/
def TrapRec.ofCommand (r : TrapRec) : Bool := r.code == 0x82 || r.code == 0x84

/-- Is the record one of a routine fault, which no resume follows (R400)? -/
def TrapRec.ofRoutine (r : TrapRec) : Bool := r.code == 0x82 && r.data.toNat / 16 % 8 == 7

/-- WGCMD_RELEASE. -/
def execWgcmdRelease (m : Master) (ctx : Nat) (s : State) : Out :=
  .next (s.wgcmd m ctx (fun r => r.kind == 0 && !r.nested) State.releaseSubject)
/-- WGCMD_KILL. -/
def execWgcmdKill (m : Master) (ctx : Nat) (s : State) : Out :=
  .next (s.wgcmd m ctx (fun r => r.kind == 0) State.killSubject)
/-- WGCMD_RESUME_COMMAND. -/
def execWgcmdResumeCommand (m : Master) (ctx : Nat) (s : State) : Out :=
  .next (s.wgcmd m ctx (fun r => r.ofCommand && !r.ofRoutine) State.resumeSubject)
/-- WGCMD_CANCEL_COMMAND. -/
def execWgcmdCancelCommand (m : Master) (ctx : Nat) (s : State) : Out :=
  .next (s.wgcmd m ctx TrapRec.ofCommand State.cancelSubject)

end Sys2Proof.Machine
end

