-- ==== Sys2Proof/Machine/Queue.lean ====
section
/-! DEFINITION. Queues: packets, their parsing and completion, queue errors, the arbitration among queues (R357 to R367). -/
namespace Sys2Proof.Machine

/-! ## Queue registers (R357, R358) -/

/-- QCFG.ENABLE. -/
def Queue.enabled (q : Queue) : Bool := q.cfg.getLsbD 31
/-- Log2 of the packets that the ring holds. -/
def Queue.ringLog (q : Queue) : Nat := q.cfg.toNat / 2 ^ 27 % 16 + 4
/-- QCFG.CTX. -/
def Queue.ctx (q : Queue) : Nat := q.cfg.toNat / 2 ^ 16 % 256
/-- QCFG.WEIGHT. -/
def Queue.weight (q : Queue) : Nat := q.cfg.toNat / 2 ^ 8 % 256
/-- QCFG.PRIO. -/
def Queue.prio (q : Queue) : Nat := q.cfg.toNat % 32
/-- The physical address of the packet to parse next (R358). -/
def Queue.head (q : Queue) : Nat := q.base.toNat + 64 * (q.rptr.toNat % 2 ^ q.ringLog)
/-- The context identifier of a queue's DMA (R174). -/
def queueId (q : Nat) : Nat := 2 ^ 29 + q
/-- The queue's timeline (QTL). -/
def State.qtl (s : State) (q : Nat) : Timeline := s.timeline (s.queue q).ctx (queueId q)

/-! ## Errors and faults (R359, R365) -/

/-- A record about a queue (R375, kind 2) for its context's ring. -/
def State.queueRecord (s : State) (q code addr data number progress : Nat) (held : Bool) : State :=
  s.toRing { code := code, kind := 2, addr := BitVec.ofNat 64 addr, data := BitVec.ofNat 64 data, time := s.time,
             ctx := (s.queue q).ctx, held := held, subj := q,
             slot := BitVec.ofNat 96 (number % 2 ^ 64 + progress % 2 ^ 32 * 2 ^ 64) }

/-- An error stops the queue (R359); a FENCE at its head is to be parsed again. -/
def State.qError (s : State) (q code : Nat) : State :=
  let x := s.queue q
  (s.updQueue q fun x => { x with stop := true, err := code, fwait := false, fence := [] }).queueRecord q 0x90 x.head
    (q + code * 2 ^ 16) 0 0 false

/-- A packet with its words replaced by number. -/
def Queue.setPacket (x : Queue) (n : Nat) (f : Packet → Packet) : Queue :=
  { x with packets := x.packets.map fun k => if k.number = n then f k else k }

/-- An access of a packet faults (R364, R365): the packet is suspended, and its record is written, held. -/
def State.packetFault (s : State) (q : Nat) (k : Packet) (f : AccFault) : State :=
  (s.updQueue q fun x => x.setPacket k.number fun _ => { k with suspended := true }).queueRecord q 0x84 f.addr
    (if f.code = 0x20 then 2 else f.engData) k.number k.progress true

/-! ## Reads in a context (R89, R360) -/

/-- Published bytes of a context from an address on, or the first fault. -/
def State.ctxRead (s : State) (ctx : Nat) : Nat → Nat → EngLine → State × (List Byte ⊕ AccFault)
  | _, 0, _ => (s, .inl [])
  | va, n + 1, c =>
    match s.engXlat none ctx va .read c with
    | (s0, c1, .ok pa attr) =>
      let s1 := s0.engCross c c1 attr pa
      match State.ctxRead s1 ctx (va + 1) n c1 with
      | (s2, .inl r) => (s2, .inl (s1.homeByte attr.key pa :: r))
      | (s2, .inr f) => (s2, .inr f)
    | (s1, _, .fault f) => (s1, .inr { f with addr := va })
    | (s1, _, .miss) => (s1, .inr (transFault va 0 .read))

/-- A number read in a context, or none where the read faults. -/
def State.ctxNum (s : State) (ctx va n : Nat) : State × Option Nat :=
  match s.ctxRead ctx va n none with
  | (s1, .inl bs) => (s1, some (ofBytes bs))
  | (s1, .inr _) => (s1, none)

/-- The packet at a queue's head, which lies at a physical address; none where no row of R52 holds it. What the host has written through
BAR4 is published to the command processor (R358). -/
def State.headPacket (s : State) (q : Nat) : Option (BitVec 512) :=
  let a := (s.queue q).head
  if s.firmMay a 64 then some (BitVec.ofNat 512 (ofBytes (s.rawRead a 64))) else none

/-! ## Arbitration (R360, R367) -/

/-- PKT.TYPE. -/
def pktType (w : BitVec 512) : Nat := w.toNat % 256

/-- Is the head packet held by SERIAL, which a SIGNAL always carries (R360, R364)? -/
def State.heldBySerial (s : State) (q : Nat) : Bool :=
  match s.headPacket q with
  | none => false
  | some w => (w.getLsbD 31 || pktType w == 3) && (s.qtl q).count < (s.qtl q).last

/-- Is a queue eligible (R367)? The command processor parses none of a context whose record of kind 2 waits for room (R381). -/
def State.eligible (s : State) (q : Nat) : Bool :=
  let x := s.queue q
  let c := s.ctx x.ctx
  x.enabled && !x.stop && x.wptr != x.rptr && !x.fwait && !s.heldBySerial q
    && !(c.ringFull && c.pending.any fun r => r.kind == 2)

/-- The queues that may be served: eligible, of the highest priority. -/
def State.contenders (s : State) : List Nat :=
  let e := (s.queues.map (·.1)).filter s.eligible
  let top := (e.map fun q => (s.queue q).prio).foldl max 0
  e.filter fun q => (s.queue q).prio == top

/-- The first of some queues after the one served last, in rising number. -/
def firstAfter (last : Nat) (qs : List Nat) : Option Nat := (qs.find? (last < ·)).orElse fun _ => qs.head?

/-- A queue's credit. -/
def Queue.creditOf (x : Queue) : Nat := x.credit.getD x.weight

/-- The queue served next, and whether its priority is refilled first (R367). -/
def State.nextQueue (s : State) : Option (Nat × Bool) :=
  let qs := s.contenders
  match firstAfter s.served (qs.filter fun q => (s.queue q).creditOf != 0) with
  | some q => some (q, false)
  | none => (firstAfter s.served qs).map fun q => (q, true)

/-- Serving a queue costs one credit (R367). -/
def State.serve (s : State) (q : Nat) (refill : Bool) : State :=
  let p := (s.queue q).prio
  let s1 := if refill then
      { s with queues := s.queues.map fun x => (x.1, if x.2.prio = p then { x.2 with credit := some x.2.weight } else x.2) }
    else s
  { s1.updQueue q fun x => { x with credit := some (x.creditOf - 1) } with served := q }

/-- The command processor parses the head packet of queue `q`, where it is the one served next and its type is right:
`act` gives the state after the parse, or the error that stops the queue. -/
def State.parse (s : State) (q : Nat) (right : Option Nat → Bool) (act : State → BitVec 512 → State ⊕ Nat) : State :=
  match s.nextQueue with
  | none => s
  | some (n, refill) =>
    if n ≠ q || !right ((s.headPacket q).map pktType) then s
    else
      let t := s.serve q refill
      match s.headPacket q with
      | none => t.qError q 0x06
      | some w =>
        match act t w with
        | .inl u => u
        | .inr code => t.qError q code

/-- The queue goes on to its next packet. -/
def State.nextPacket (s : State) (q : Nat) : State := s.updQueue q fun x => { x with rptr := x.rptr + 1 }

/-- A numbered packet is in progress (R360). -/
def State.addPacket (s : State) (q : Nat) (w : BitVec 512) : State × Packet :=
  let (s1, n) := s.takeNumber (s.queue q).ctx (queueId q)
  let k : Packet := { type := pktType w, number := n, words := w }
  ((s1.updQueue q fun x => { x with packets := x.packets ++ [k] }).nextPacket q, k)

/-! ## Fields of packets (R360, R361) -/

/-- A field of a number of bits. -/
def bitsAt {w : Nat} (x : BitVec w) (lo n : Nat) : Nat := x.toNat / 2 ^ lo % 2 ^ n
/-- A field of a packet. -/
abbrev pktField (w : BitVec 512) (lo n : Nat) : Nat := bitsAt w lo n
/-- Are the bits outside the named fields zero? Fields are given by lowest bit and width. -/
def reservedZero {w : Nat} (x : BitVec w) (named : List (Nat × Nat)) : Bool :=
  (named.foldl (fun y f => y &&& ~~~(BitVec.ofNat w ((2 ^ f.2 - 1) * 2 ^ f.1))) x) == 0

/-- The header's named fields. -/
def pktHeader : List (Nat × Nat) := [(0, 8), (31, 1)]

/-- PKT_NOP (R360); a packet of a reserved type and one that cannot be read stop their queue here (R359). -/
def execPktNop (q : Nat) (s : State) : Out :=
  .next (s.parse q (fun t => match t with | some n => n == 0 || 6 < n | none => true) fun t w =>
    if pktType w ≠ 0 then .inr 0x01
    else if !reservedZero w pktHeader then .inr 0x02
    else .inl (t.nextPacket q))

/-! ## LAUNCH (R311, R312, R314, R316, R361, R362) -/

/-- What a kernel takes of one core: half slots for warps of width 16 in pairs, else whole ones (R27, R29, R46). -/
def Workgroup.slotsNeeded (g : Workgroup) : Nat :=
  let (nc, nm, ne) := g.counts
  match g.lanes with
  | 16 => (nc + 1) / 2 + (ne + 1) / 2 + nm
  | 32 => nc + ne + nm
  | _ => 2 * (nc + ne) + nm
/-- Register bytes (R29). -/
def Workgroup.registerBytes (g : Workgroup) : Nat :=
  let (nc, _, ne) := g.counts
  nc * g.lanes * 128 + ne * g.lanes * g.epiRegs * 4
/-- The entry of a flume in the kernel descriptor. -/
def Workgroup.flumeEntry (g : Workgroup) (f : Nat) : Nat := g.kfield (320 + 16 * f) 16
/-- How many flumes it declares. -/
def Workgroup.flumeCount (g : Workgroup) : Nat := ((List.range 16).filter fun f => g.flumeEntry f % 32 != 0).length
/-- Bytes of all its lane slices (R45). -/
def Workgroup.allSlices (g : Workgroup) : Nat :=
  let (nc, _, ne) := g.counts
  (nc + ne) * g.lanes * g.sliceBytes
/-- Bytes of its scratchpad allocation (R46), flume rings of 128 bytes among them (R387). -/
def Workgroup.scratchNeeded (g : Workgroup) : Nat := g.userBytes + g.allSlices + 128 * g.flumeCount
/-- Is shape register `n` declared? -/
def Workgroup.shapeDeclared (g : Workgroup) (n : Nat) : Bool := g.kdesc.getLsbD (104 + n)
/-- The `.shape` maximum of register `n`. -/
def Workgroup.shapeMax (g : Workgroup) (n : Nat) : Nat := g.kfield (576 + 16 * n) 16
/-- Bytes of its shape images (R125). -/
def Workgroup.shapeBytes (g : Workgroup) : Nat :=
  ((List.range 8).map fun n => if g.shapeDeclared n then (64 + 4 * (g.shapeMax n + 1) + 127) / 128 * 128 else 0).foldl (· + ·) 0

/-- Is an entry or trap offset of the descriptor a PC within its code section (R312)? -/
def offsetOk (x : Nat) : Bool := x / 8 % 8 == 0 && x % 8 < 5
/-- A flume entry's limits (R312). -/
def flumeOk (e : Nat) : Bool :=
  e % 32 ≤ 16 && e / 2 ^ 9 == 0 && (e % 32 == 0 || (e / 32 % 4 != 3 && e / 128 % 4 != 3 && e / 32 % 4 != e / 128 % 4))

/-- The checks of a LAUNCH on a kernel descriptor (R359, error 0x04). -/
def kdescOk (d : BitVec 1024) : Bool :=
  let g : Workgroup := { kdesc := d }
  let trapOk (r : Role) : Bool := g.trapEntry r == 0xFFFFFFFF || offsetOk (g.trapEntry r)
  1 ≤ g.level && g.level ≤ Config.level
  && reservedZero d [(0, 7), (9, 7), (21, 3), (28, 84), (128, 624), (768, 32)]
  && g.kfield 14 2 != 3 && (!g.legacy16 || (g.level == 2 && g.kfield 14 2 == 0))
  && g.barriers ≤ Config.namedBarriers && g.sliceBytes ≤ 1024 && g.sliceBytes % 16 == 0
  && 8 ≤ g.epiRegs && g.epiRegs ≤ 256 && g.windows ≤ Config.windows
  && g.userBytes % 64 == 0 && g.userBytes ≤ Config.scratchpadBytes && g.kfield 736 16 ≤ 256
  && offsetOk (g.entry .copy) && offsetOk (g.entry .maths) && (g.kfield 0 7 == 0 || offsetOk (g.entry .epi))
  && trapOk .copy && trapOk .maths && trapOk .epi
  && (List.range 16).all (fun f => flumeOk (g.flumeEntry f))
  && g.kfield 0 7 ≤ 126 && g.slotsNeeded ≤ Config.warpSlots && g.registerBytes ≤ Config.registerBytes
  && g.scratchNeeded ≤ Config.scratchpadBytes

/-- A bank table entry's limits (R361): none, or the error. -/
def bankError (e : BitVec 128) : Option Nat :=
  if !reservedZero e [(0, 96), (96, 4)] then some 0x02
  else if bitsAt e 0 64 % 4 ≠ 0 || bitsAt e 64 32 % 4 ≠ 0 || bitsAt e 64 32 < 4 || bitsAt e 64 32 > 65536 then some 0x03
  else none
/-- The bank that an entry names. -/
def bankNo (e : BitVec 128) : Nat := bitsAt e 96 4

/-- Bank words from images: the words of each bank's image (R51, R362), or none where a read faults. -/
def State.loadBanks (s : State) (ctx : Nat) (banks : Sparse Word) : List (BitVec 128) → State × Option (Sparse Word)
  | [] => (s, some banks)
  | e :: r =>
    match s.ctxRead ctx (bitsAt e 0 64) (bitsAt e 64 32) none with
    | (s1, .inl bs) =>
      let ws := wordsOf (bitsAt e 64 32 / 4) bs
      State.loadBanks s1 ctx ((ws.zipIdx).foldl (fun b p => sset (fun _ => 0) b (bankNo e * 16384 + p.2) p.1) banks) r
    | (s1, .inr _) => (s1, none)

/-- The entries of a bank table of `n` entries. -/
def tableEntries (n x : Nat) : List (BitVec 128) := (List.range n).map fun i => BitVec.ofNat 128 (x / 2 ^ (128 * i))

/-- Are all banks named once? -/
def banksDistinct (es : List (BitVec 128)) : Bool := decide (es.map bankNo).Nodup

/-- Is a code section base plus each entry and trap offset of a kernel a PC (R312, R361)? ENTRY2 is ignored without epilogue warps. -/
def codeFits (d : BitVec 1024) (code : Nat) : Bool :=
  let g : Workgroup := { kdesc := d }
  let ignored (r : Role) : Bool := r == .epi && g.counts.2.2 == 0
  [Role.copy, .maths, .epi].all fun r =>
    (ignored r || code + g.entry r < 2 ^ 57) && (g.trapEntry r == 0xFFFFFFFF || code + g.trapEntry r < 2 ^ 57)

/-- A LAUNCH's parse: its grid, or the error. -/
def State.launch (s : State) (q : Nat) (w : BitVec 512) : State ⊕ Nat :=
  let x := s.queue q
  let ctx := x.ctx
  let kd := pktField w 64 64
  let code := pktField w 128 64
  let bt := pktField w 192 64
  let count := pktField w 256 32
  let size := 2 ^ pktField w 288 2
  let n := pktField w 296 5
  if !reservedZero w (pktHeader ++ [(64, 224), (288, 2), (296, 5)]) then .inr 0x02
  else if kd % 128 ≠ 0 || code % 64 ≠ 0 || code ≥ 2 ^ 57 || bt % 16 ≠ 0 || count = 0 || count % size ≠ 0 || n > 16 then .inr 0x03
  else
    match s.ctxNum ctx kd 128 with
    | (_, none) => .inr 0x06
    | (s1, some d) =>
      match s1.ctxNum ctx bt (16 * n) with
      | (_, none) => .inr 0x06
      | (s2, some t) =>
        let es := tableEntries n t
        match es.findSome? bankError with
        | some e => .inr e
        | none =>
          if !banksDistinct es then .inr 0x03
          else if !kdescOk (BitVec.ofNat 1024 d) then .inr 0x04
          else if !codeFits (BitVec.ofNat 1024 d) code then .inr 0x03
          else
            match s2.loadBanks ctx [] es with
            | (_, none) => .inr 0x06
            | (s3, some banks) =>
              let (s4, k) := s3.addPacket q w
              let g : Grid := { live := true, queue := q, number := k.number, ctx := ctx, prio := x.prio,
                                kdesc := BitVec.ofNat 1024 d, code := code, count := count, size := size, banks := banks }
              .inl { s4.updGrid s4.nextId fun _ => g with nextId := s4.nextId + 1 }

/-- PKT_LAUNCH (R362). -/
def execPktLaunch (q : Nat) (s : State) : Out := .next (s.parse q (· == some 1) fun t w => t.launch q w)

/-! ## FENCE (R363) -/

/-- Does a counter lie in the memory of another device (R363)? -/
def State.pollsCounter (s : State) (ctx va : Nat) : Bool :=
  match s.walk ctx (va % 2 ^ 57) with
  | .leaf p _ _ bits => isPeer (physOf p bits va) || isHost (physOf p bits va)
  | .bad _ => false

/-- An entry after a read of its counter, or none where the read faults. -/
def State.readEntry (s : State) (ctx : Nat) (e : FenceEntry) : State × Option FenceEntry :=
  match s.ctxNum ctx e.addr 8 with
  | (s1, some x) => (s1, some { e with satisfied := e.satisfied || e.value.toNat ≤ x })
  | (s1, none) => (s1, none)

/-- Every entry after a read of its counter. -/
def State.readEntries (s : State) (ctx : Nat) : List FenceEntry → State × Option (List FenceEntry)
  | [] => (s, some [])
  | e :: r =>
    match s.readEntry ctx e with
    | (s1, none) => (s1, none)
    | (s1, some e') =>
      match State.readEntries s1 ctx r with
      | (s2, none) => (s2, none)
      | (s2, some r') => (s2, some (e' :: r'))

/-- The queue with a wait list: it waits, or goes on where every entry is satisfied. -/
def State.fenceList (s : State) (q : Nat) (l : List FenceEntry) : State :=
  if l.all (·.satisfied) then (s.updQueue q fun x => { x with fwait := false, fence := [] }).nextPacket q
  else s.updQueue q fun x => { x with fwait := true, fence := l }

/-- The wait list of `n` entries that a number holds. -/
def fenceEntries (n x : Nat) : List FenceEntry :=
  (tableEntries n x).map fun e => { addr := bitsAt e 0 64, value := BitVec.ofNat 64 (bitsAt e 64 64) }

/-- PKT_FENCE (R363): the wait list is read and kept, and each counter read once. -/
def execPktFence (q : Nat) (s : State) : Out :=
  .next (s.parse q (· == some 2) fun t w =>
    let ctx := (t.queue q).ctx
    let n := pktField w 128 4
    if !reservedZero w (pktHeader ++ [(64, 64), (128, 4)]) then .inr 0x02
    else if pktField w 64 64 % 16 ≠ 0 || n < 1 || n > 12 then .inr 0x03
    else
      match t.ctxNum ctx (pktField w 64 64) (16 * n) with
      | (_, none) => .inr 0x06
      | (t1, some x) =>
        let l := fenceEntries n x
        if l.any fun e => e.addr % 8 != 0 then .inr 0x03
        else
          match t1.readEntries ctx l with
          | (_, none) => .inr 0x06
          | (t2, some l') => .inl (t2.fenceList q l'))

/-- A counter of a waiting FENCE is read again, where `mine` says that it is of the right kind (R363). -/
def State.fenceRead (s : State) (q ix : Nat) (poll : Bool) : State :=
  let x := s.queue q
  match x.fence[ix]? with
  | none => s
  | some e =>
    if !x.fwait || !x.enabled || x.stop || e.satisfied || s.pollsCounter x.ctx e.addr != poll then s
    else
      match s.readEntry x.ctx e with
      | (s1, none) => s1.qError q 0x06
      | (s1, some e') => s1.fenceList q (x.fence.set ix e')

/-- What a counter in device memory holds. -/
def State.deviceCounter (s : State) (ctx va : Nat) : Option Nat := if s.pollsCounter ctx va then none else (s.ctxNum ctx va 8).2

/-- Did one of the noted writes leave an entry's counter, in device memory, at its value or beyond? -/
def State.noteHits (s : State) (ctx : Nat) (e : FenceEntry) : Bool :=
  match s.walk ctx (e.addr % 2 ^ 57) with
  | .leaf p _ _ bits =>
    let pa := physOf p bits (e.addr % 2 ^ 57)
    let key := (s.attrOf p pa).key
    !isPeer pa && !isHost pa && s.noted.any fun x =>
      x.addr == pa && decide (e.value.toNat ≤ ofBytes ((List.range 8).map fun i => reKey x.key key (pa + i) (byteAt x.word.toNat i)))
  | .bad _ => false

/-- The noted writes satisfy the entries of waiting FENCEs, and are noted no longer. -/
def State.settleNoted (s : State) : State :=
  if s.noted.isEmpty then s
  else
    { s.queues.foldl (fun t p =>
        if p.2.fwait && p.2.enabled && !p.2.stop then
          t.fenceList p.1 (p.2.fence.map fun e => { e with satisfied := e.satisfied || s.noteHits p.2.ctx e })
        else t) s with noted := [] }

/-- After every step, from `s` to `t1`: a waiting FENCE reads each counter in device memory to which a write was performed (R363). -/
def State.settleFences (s t1 : State) : State :=
  let t := t1.settleNoted
  let due := t.queues.flatMap fun p =>
    if p.2.fwait then
      p.2.fence.zipIdx.filterMap fun e =>
        if !e.1.satisfied && s.deviceCounter p.2.ctx e.1.addr != t.deviceCounter p.2.ctx e.1.addr then some (p.1, e.2) else none
    else []
  due.foldl (fun u p => u.fenceRead p.1 p.2 false) t

/-- FENCE_COUNTER_READ (R363): a counter in device memory. -/
def execFenceCounterRead (q entry : Nat) (s : State) : Out := .next (s.fenceRead q entry false)
/-- FENCE_POLL_TIMER (R363): a counter in host or peer memory. -/
def execFencePollTimer (q entry : Nat) (s : State) : Out := .next (s.fenceRead q entry true)

/-! ## SIGNAL (R364) -/

/-- PKT_SIGNAL (R364): parsed once every earlier numbered packet of the queue is complete. -/
def execPktSignal (q : Nat) (s : State) : Out :=
  .next (s.parse q (· == some 3) fun t w =>
    let host := match t.walk (t.queue q).ctx (pktField w 64 57) with
      | .leaf p _ _ bits => isHost (physOf p bits (pktField w 64 57))
      | .bad _ => false
    if !reservedZero w (pktHeader ++ [(64, 128), (192, 2), (208, 11), (223, 1)]) then .inr 0x02
    else if pktField w 64 64 % 8 ≠ 0 || pktField w 192 2 = 3 || (pktField w 192 2 = 2 && host) then .inr 0x03
    else .inl (t.addPacket q w).1)

/-- The value that a SIGNAL leaves at its target. -/
def signalValue (op old v : Nat) : Nat :=
  match op with
  | 0 => v
  | 1 => (old + v) % 2 ^ 64
  | _ => max old v

/-- SIGNAL_ATOMIC (R364): the atomic of the queue's SIGNAL, at SYSTEM scope. A maximum whose target has come to translate to host memory
since the parse stops the queue, and the packet performs nothing (log entry 55). -/
def execSignalAtomic (q : Nat) (s : State) : Out :=
  match (s.queue q).packets.find? fun k => k.type == 3 && k.progress == 0 && !k.suspended && !k.cancelled with
  | none => .next s
  | some k =>
    let va := pktField k.words 64 64
    match s.engXlat none (s.queue q).ctx va .atomic none with
    | (s1, _, .ok pa attr) =>
      if pktField k.words 192 2 = 2 && isHost pa then
        .next ((s1.updQueue q fun y => y.setPacket k.number fun k => { k with cancelled := true }).qError q 0x03)
      else
        let x := signalValue (pktField k.words 192 2) (ofBytes (s1.homeRead attr.key pa 8)) (pktField k.words 128 64)
        let s2 := (s1.engCross none (some (0, 0, attr)) attr pa).publish attr none pa (toBytes 8 x)
        .next (s2.updQueue q fun y => y.setPacket k.number fun k => { k with progress := 1 })
    | (s1, _, .fault f) => .next (s1.packetFault q k { f with addr := va })
    | (s1, _, .miss) => .next (s1.packetFault q k (transFault va 0 .atomic))

/-! ## FLUSH (R365) -/

/-- The pages of a context, by page address and log2 of the size: every leaf that its tables hold. -/
def State.leavesFrom (s : State) : Nat → Nat → Nat → List (Nat × Nat)
  | 0, _, _ => []
  | fuel + 1, level, table =>
    let (lo, w) := walkIndex level
    (List.range (2 ^ w)).flatMap fun i =>
      let ea := table + 8 * i
      let p : DWord := if s.tableAt ea then s.pteAt ea else 0
      if !p.getLsbD 0 then []
      else if p.getLsbD 1 then (if leafOk p level lo then [(ptePage p, lo)] else [])
      else if nonLeafOk p level then s.leavesFrom fuel (level - 1) (pteNext p) else []

/-- The lines that L2 or a core holds, in rising order from `lo`. -/
def State.heldFrom (s : State) (lo : Nat) : List Nat :=
  let all := s.l2.map (·.1) ++ s.cores.flatMap fun c => c.2.copies.map (·.1)
  (all.foldl (fun (m : Sparse Bool) l => if lo ≤ l then sset (fun _ => false) m l true else m) []).map (·.1)

/-- One line of a FLUSH in its mode; none where its write-back is held for want of a pool line (R409). -/
def State.flushLine (s : State) (mode line : Nat) : Option State :=
  let r := if mode % 2 = 1 then s.writeback line else (s, true)
  if !r.2 then none
  else if mode / 2 = 0 then some r.1
  else
    let drop (d : Dedup) : Dedup := { d with heldLines := d.heldLines.filter (· != line) }
    let s1 : State := { r.1 with l2 := serase r.1.l2 line, dedup := r.1.dedup.map fun d => (d.1, drop d.2) }
    some (s1.markPending line none)

/-- What a FLUSH of every line of a context has done when it is at its end. -/
def flushEnd : Nat := 2 ^ 64

/-- A FLUSH's remaining lines, from `k.progress` on: `fuel` bounds them. -/
def State.flushRange (s : State) (q : Nat) (k : Packet) : Nat → State
  | 0 => s
  | fuel + 1 =>
    let start := pktField k.words 64 64
    if k.progress ≥ pktField k.words 128 64 then s
    else
      match s.engXlat none (s.queue q).ctx (start + k.progress) .read none with
      | (s1, _, .ok pa _) =>
        match s1.flushLine (pktField k.words 192 2) (lineOf pa) with
        | none => s1
        | some s2 =>
          let k' := { k with progress := k.progress + 128 }
          (s2.updQueue q fun x => x.setPacket k.number fun _ => k').flushRange q k' fuel
      | (s1, _, .fault f) => s1.packetFault q k { f with addr := start + k.progress }
      | (s1, _, .miss) => s1.packetFault q k (transFault (start + k.progress) 0 .read)

/-- A FLUSH of every line of its context (length 0): the lines that are held anywhere, in rising order. -/
def State.flushAll (s : State) (q : Nat) (k : Packet) : List Nat → State
  | [] => s.updQueue q fun x => x.setPacket k.number fun _ => { k with progress := flushEnd }
  | line :: r =>
    match s.flushLine (pktField k.words 192 2) line with
    | none => s
    | some s1 =>
      let k' := { k with progress := line + 1 }
      (s1.updQueue q fun x => x.setPacket k.number fun _ => k').flushAll q k' r

/-- A FLUSH goes on. -/
def State.flush (s : State) (q : Nat) (k : Packet) : State :=
  if pktField k.words 128 64 = 0 then
    let pages := s.leavesFrom 5 4 (s.ctx (s.queue q).ctx).ptroot
    s.flushAll q k ((s.heldFrom k.progress).filter fun l => pages.any fun p => p.1 ≤ l * 128 && l * 128 < p.1 + 2 ^ p.2)
  else s.flushRange q k (pktField k.words 128 64 / 128)

/-- Has a FLUSH done all its lines? -/
def flushDone (k : Packet) : Bool :=
  if pktField k.words 128 64 = 0 then k.progress ≥ flushEnd else k.progress ≥ pktField k.words 128 64

/-- PKT_FLUSH (R365). -/
def execPktFlush (q : Nat) (s : State) : Out :=
  .next (s.parse q (· == some 4) fun t w =>
    if !reservedZero w (pktHeader ++ [(64, 128), (192, 2)]) then .inr 0x02
    else if pktField w 64 64 % 128 ≠ 0 || pktField w 128 64 % 128 ≠ 0 || pktField w 192 2 = 0 then .inr 0x03
    else
      let (t1, k) := t.addPacket q w
      .inl (t1.flush q k))

/-! ## HOSTCOPY (R365) -/

/-- PKT_HOSTCOPY (R365). -/
def execPktHostcopy (q : Nat) (s : State) : Out :=
  .next (s.parse q (· == some 5) fun t w =>
    if !reservedZero w (pktHeader ++ [(64, 192)]) then .inr 0x02
    else if pktField w 192 64 = 0 || pktField w 192 64 > 2 ^ 40 then .inr 0x03
    else .inl (t.addPacket q w).1)

/-- Bytes written from an address of a context on, all in one line; or the fault. -/
def State.ctxWrite (s : State) (ctx va : Nat) (bs : List Byte) : State × Option AccFault :=
  match s.engXlat none ctx va .write none with
  | (s1, _, .ok pa attr) =>
    let s2 := (s1.publish attr none pa bs).cross attr.compress (lineOf pa) (s1.slicePlain (lineOf pa))
    (s2.clearPoison pa bs.length, none)
  | (s1, _, .fault f) => (s1, some { f with addr := va })
  | (s1, _, .miss) => (s1, some (transFault va 0 .write))

/-- The next step of a HOSTCOPY (R365): its source is read whole before its first write (memmove), and then each write goes to
the end of a line of its destination. Its context is the one that QCFG names now (DESIGN CHOICE, log entry 91). -/
def State.copyStep (s : State) (q : Nat) (k : Packet) : State :=
  let ctx := (s.queue q).ctx
  let src := pktField k.words 64 64
  let dst := pktField k.words 128 64
  let len := pktField k.words 192 64
  if k.progress ≥ len then s
  else if k.latched.isEmpty then
    match s.ctxRead ctx src len none with
    | (s1, .inl bs) => s1.updQueue q fun x => x.setPacket k.number fun k => { k with latched := bs }
    | (s1, .inr f) => s1.packetFault q k f
  else
    let at_ := dst + k.progress
    let n := min (len - k.progress) (128 - at_ % 128)
    match s.ctxWrite ctx at_ ((k.latched.drop k.progress).take n) with
    | (s1, none) => s1.updQueue q fun x => x.setPacket k.number fun k => { k with progress := k.progress + n }
    | (s1, some f) => s1.packetFault q k f

/-- ENGINE_GLOBAL_WRITE (R85, R86, R365): a copy command's next write outside scratchpad, or the next step of a packet. -/
def execEngineGlobalWrite (e : EngineRef) (s : State) : Out :=
  match e with
  | .copy core ix => .next (s.commandWrite core ix false)
  | .dma q n =>
    match (s.queue q).packets.find? fun k => k.number == n && !k.suspended && !k.cancelled with
    | none => .next s
    | some k => if k.type = 4 then .next (s.flush q k) else if k.type = 5 then .next (s.copyStep q k) else .next s

/-! ## PRIO and completion (R360, R366) -/

/-- QCFG with a priority, and a weight where it is not 0. -/
def withPrio (cfg : Word) (prio weight : Nat) : Word :=
  let c := (cfg &&& 0xFFFFFFE0) ||| BitVec.ofNat 32 (prio % 32)
  if weight = 0 then c else (c &&& 0xFFFF00FF) ||| BitVec.ofNat 32 (weight % 256 * 256)

/-- PKT_PRIO (R366). -/
def execPktPrio (q : Nat) (s : State) : Out :=
  .next (s.parse q (· == some 6) fun t w =>
    if !reservedZero w (pktHeader ++ [(64, 5), (72, 8)]) then .inr 0x02
    else .inl ((t.updQueue q fun x => { x with cfg := withPrio x.cfg (pktField w 64 5) (pktField w 72 8) }).nextPacket q))

/-- The grid of a LAUNCH. -/
def State.gridOf (s : State) (q n : Nat) : Option (Nat × Grid) := s.grids.find? fun g => g.2.live && g.2.queue == q && g.2.number == n

/-- Is a packet's work done (R84 to R86, R362, R364, R365)? -/
def State.packetDone (s : State) (q : Nat) (k : Packet) : Bool :=
  match k.type with
  | 1 => match s.gridOf q k.number with | some g => g.2.exited == g.2.count | none => true
  | 3 => k.cancelled || k.progress == 1
  | 4 => k.cancelled || flushDone k
  | _ => k.cancelled || k.progress ≥ pktField k.words 192 64

/-- PACKET_COMPLETION (R84, R360, R362, R364): the packet leaves its queue and its timeline advances; a SIGNAL's interrupt
follows. -/
def execPacketCompletion (q n : Nat) (s : State) : Out :=
  match (s.queue q).packets.find? fun k => k.number == n && !k.suspended with
  | none => .next s
  | some k =>
    if !s.packetDone q k then .next s
    else
      let s1 := match s.gridOf q n with
        | some g => if k.type = 1 then s.updGrid g.1 fun _ => {} else s
        | none => s
      let s2 := (s1.updQueue q fun x => { x with packets := x.packets.filter fun k => k.number != n }).complete (s.queue q).ctx (queueId q) n
      .next (if k.type = 3 && !k.cancelled && k.words.getLsbD 223 then s2.signal (pktField k.words 208 11) else s2)

end Sys2Proof.Machine
end

