-- ==== Sys2Proof/Machine/Launch.lean ====
section
/-! DEFINITION. The grid launcher: candidates, placement, admission, the cluster exit barrier, pre-emption, context save and restore
(R24, R25, R48, R125, R189, R193, R368 to R370, R386 to R390). -/
namespace Sys2Proof.Machine

/-! ## What a core holds (R13, R27, R29, R368) -/

/-- The workgroups that are resident on a core. -/
def State.residents (s : State) (core : Nat) : List Workgroup := (s.wgs.map (·.2)).filter fun g => g.live && g.core == core

/-- The warp slots that a workgroup takes. -/
def Workgroup.slots (g : Workgroup) : List Nat :=
  g.warps.flatMap fun p => if p.2.width = 64 then [p.2.slot, p.2.slot + 1] else [p.2.slot]

/-- The first of some starts from which `n` units, as multiples of `step`, meet no taken range and end by `top`. -/
def firstGap (top n step : Nat) (taken : List (Nat × Nat)) : Option Nat :=
  let starts := 0 :: taken.map fun r => (r.2 + step - 1) / step * step
  (starts.filter fun a => a + n ≤ top && taken.all fun r => a + n ≤ r.1 || r.2 ≤ a).foldl
    (fun b a => match b with | none => some a | some x => some (min x a)) none

/-- The accumulator windows that are taken on a core: those of its workgroups, and those that paired workgroups of its leader
reserve (R284). -/
def State.takenWindows (s : State) (core : Nat) : List (Nat × Nat) :=
  let range (g : Workgroup) : Nat × Nat := (g.window, g.window + g.windows)
  (s.residents core).map range ++ (if core % 2 = 1 then ((s.residents (core - 1)).filter (·.paired)).map range else [])

/-- Slots for `n` warps of width 64, each an even pair of free slots. -/
def takePairs (free : List Nat) : Nat → Option (List Nat × List Nat)
  | 0 => some ([], free)
  | n + 1 =>
    match free.find? fun x => x % 2 == 0 && free.contains (x + 1) with
    | none => none
    | some x => (takePairs (free.filter fun y => y != x && y != x + 1) n).map fun r => (x :: r.1, r.2)

/-- The slot and half of every warp by WARPID, out of some free slots (R27): copy, maths and epilogue warps take the lowest-numbered free
slots, pairs and halves in WARPID order (DESIGN CHOICE, log entry 20), which settles their ports and their order in R371. -/
def Workgroup.seat (g : Workgroup) (free : List Nat) : Option (List (Nat × Bool)) :=
  let (nc, nm, ne) := g.counts
  let whole (l : List Nat) : List (Nat × Bool) := l.map fun x => (x, false)
  let halves (l : List Nat) (n : Nat) : List (Nat × Bool) := (List.range n).map fun i => (l.getD (i / 2) 0, i % 2 == 1)
  match g.lanes with
  | 64 =>
    (takePairs free (nc + ne)).bind fun r =>
      if nm ≤ r.2.length then some (whole (r.1.take nc) ++ whole (r.2.take nm) ++ whole (r.1.drop nc)) else none
  | 32 =>
    if nc + nm + ne ≤ free.length then some (whole (free.take (nc + nm + ne))) else none
  | _ =>
    let c := (nc + 1) / 2
    let e := (ne + 1) / 2
    if c + nm + e ≤ free.length then
      some (halves (free.take c) nc ++ whole ((free.drop c).take nm) ++ halves (free.drop (c + nm)) ne)
    else none

/-- A workgroup's places on a core. -/
structure Seat where
  slots : List (Nat × Bool)
  user : Nat
  window : Nat
  deriving DecidableEq, Repr

/-- A member of a kernel placed on a core, or none where the core has no room for it (R284, R368; log entry 20: allocations
are contiguous and take the first gap). -/
def State.seatOn (s : State) (kdesc : BitVec 1024) (core : Nat) : Option Seat :=
  let g : Workgroup := { kdesc := kdesc }
  let rs := s.residents core
  let used := rs.flatMap (·.slots)
  let sum (f : Workgroup → Nat) : Nat := (rs.map f).foldl (· + ·) 0
  let wins := s.takenWindows core ++ (if g.paired then s.takenWindows (core + 1) else [])
  if Config.cores ≤ core || (g.paired && core % 2 != 0) || Config.places ≤ rs.length
      || Config.registerBytes < sum (·.registerBytes) + g.registerBytes || Config.namedBarriers < sum (·.barriers) + g.barriers then none
  else
    match g.seat ((List.range Config.warpSlots).filter fun x => !used.contains x),
        firstGap Config.scratchpadBytes g.scratchNeeded 64 (rs.map fun r => (r.user, r.user + r.bytes)),
        firstGap Config.windows g.windows 1 wins with
    | some slots, some user, some window => some { slots := slots, user := user, window := window }
    | _, _, _ => none

/-- Has the context's shape area room for `n` more bytes of images (R356, R368)? -/
def State.shapeRoom (s : State) (ctx n : Nat) : Bool :=
  let used := ((s.wgs.map (·.2)).filter fun g => g.live && g.ctx == ctx).map (·.shapeBytes)
  used.foldl (· + ·) 0 + n ≤ (s.ctx ctx).shapeLen

/-! ## Candidates (R368) -/

/-- A candidate: a saved cluster by its index in `State.saved`, or the next cluster of a grid. -/
inductive Candidate where
  | saved (ix : Nat)
  | grid (key : Nat)
  deriving DecidableEq, Repr

/-- The candidates with their context priority, saved ones first, each kind in its order. -/
def State.candidates (s : State) : List (Nat × Candidate) :=
  ((s.saved.zipIdx.filter fun p => !(s.ctx p.1.cluster.ctx).suspended).map fun p => (p.1.cluster.prio, .saved p.2))
    ++ (s.grids.filter fun p => p.2.live && p.2.admitted < p.2.count && !(s.ctx p.2.ctx).suspended).map fun p => (p.2.prio, .grid p.1)

/-- The first candidate and its priority. -/
def State.firstCandidate (s : State) : Option (Nat × Candidate) :=
  let cs := s.candidates
  cs.find? fun c => cs.all fun d => d.1 ≤ c.1

/-- What a candidate asks for: its context, its kernel descriptor, and for each member whether it needs the array. -/
def State.asks (s : State) : Candidate → Nat × BitVec 1024 × List Bool
  | .saved ix =>
    match s.saved[ix]? with
    | some x => (x.cluster.ctx, (x.images.head?.map (·.wgState.kdesc)).getD 0, x.images.map fun y => y.chain.isSome)
    | none => (0, 0, [])
  | .grid key => ((s.grid key).ctx, (s.grid key).kdesc, List.replicate (s.grid key).size false)

/-- Are the arrays that a saved chain held free on a core? The default schedule prefers such a core (log entry 20). -/
def State.arraysFree (s : State) (kdesc : BitVec 1024) (core : Nat) : Bool :=
  let idle (c : Core) : Bool := c.chain.isNone && c.queue.isEmpty && !c.lent
  idle (s.core core) && (!({ kdesc := kdesc : Workgroup }).paired || idle (s.core (core + 1)))

/-- Does a candidate fit on some cores of one die? -/
def State.candidateFits (s : State) (c : Candidate) : Bool :=
  let (ctx, kdesc, needs) := s.asks c
  let room := s.shapeRoom ctx (needs.length * ({ kdesc := kdesc : Workgroup }).shapeBytes)
  room && [0, 1].any fun die =>
    let cores := ((List.range Config.coresPerDie).map fun i => die * Config.coresPerDie + i).filter fun k => (s.seatOn kdesc k).isSome
    needs.length ≤ cores.length

/-- The seats of a candidate's members on given cores, distinct and of one die. -/
def State.seats (s : State) (c : Candidate) (cores : List Nat) : Option (List Seat) :=
  let (ctx, kdesc, needs) := s.asks c
  let room := s.shapeRoom ctx (needs.length * ({ kdesc := kdesc : Workgroup }).shapeBytes)
  let dies := cores.map fun k => k / Config.coresPerDie
  if room && cores.length == needs.length && decide cores.Nodup && dies.all (fun d => some d == dies.head?) then
    cores.mapM (s.seatOn kdesc)
  else none

/-! ## Admission (R24, R25, R89, R189, R193, R247) -/

/-- The context that used a byte or a window last, if one did since reset. -/
def lastUser (l : List (Nat × Nat × Nat)) (i : Nat) : Option Nat := (l.find? fun r => r.1 ≤ i && i < r.2.1).map (·.2.2)

/-- A range taken by a context. -/
def takeRange (l : List (Nat × Nat × Nat)) (a b ctx : Nat) : List (Nat × Nat × Nat) :=
  (a, b, ctx) :: l.filter fun r => !(a ≤ r.1 && r.2.1 ≤ b)

/-- A core whose scratchpad bytes and windows a context takes: what another context left reads as zero (R25). A context that is created
again under a number is the same context (DESIGN CHOICE, log entry 87). -/
def Core.clean (c : Core) (ctx a b w0 w1 : Nat) : Core :=
  { c with scratch := c.scratch.filter (fun p => !(a ≤ p.1 && p.1 < b) || lastUser c.userOf p.1 == some ctx),
           userOf := takeRange c.userOf a b ctx,
           acc := c.acc.filter (fun p =>
             let w := p.1 / Config.windowEntries
             !(w0 ≤ w && w < w1) || lastUser c.windowOf w == some ctx),
           windowOf := takeRange c.windowOf w0 w1 ctx }

/-- The core of a workgroup, and its follower where it is paired, made ready for it. -/
def State.cleanFor (s : State) (g : Workgroup) : State :=
  let s1 := s.updCore g.core fun c => c.clean g.ctx g.user (g.user + g.bytes) g.window (g.window + g.windows)
  if g.paired then s1.updCore (g.core + 1) fun c => c.clean g.ctx 0 0 g.window (g.window + g.windows) else s1

/-- The role of a WARPID (R21). -/
def Workgroup.roleOf (g : Workgroup) (w : Nat) : Role :=
  let (nc, nm, _) := g.counts
  if w < nc then .copy else if w < nc + nm then .maths else .epi

/-- A warp at launch (R24), ready from step `now` on (R371). -/
def Workgroup.newWarp (g : Workgroup) (now w : Nat) (seat : Nat × Bool) : Warp :=
  let role := g.roleOf w
  let width := if role = .maths then 0 else g.lanes
  { live := true, role := role, width := width, slot := seat.1, half := seat.2,
    regs := match role with | .copy => 32 | .maths => 0 | .epi => g.epiRegs,
    splits := [(0, { live := true, pc := BitVec.ofNat 57 (g.code + g.entry role),
                     mask := if role = .maths then 1 else firstLanes width, since := now })] }

/-- The role of a code (R21, R312). -/
def roleOfBits (x : Nat) : Role := if x = 0 then .copy else if x = 1 then .maths else .epi

/-- A flume at launch (R193). -/
def Workgroup.newFlume (g : Workgroup) (f : Nat) : Flume :=
  let e := g.flumeEntry f
  { declared := true, prod := roleOfBits (e / 32 % 4), cons := roleOfBits (e / 128 % 4), max := e % 32, depth := e % 32 }

/-- A named barrier at launch (R189). -/
def Workgroup.newBarrier (g : Workgroup) : Barrier :=
  let (nc, nm, ne) := g.counts
  { count := nc + nm + ne, mask := laneSet fun i => i < nc + nm + ne }

/-- A workgroup at its seat (R45, R46): user area, then lane slices, then flume rings. -/
def Workgroup.sitAt (g : Workgroup) (core : Nat) (seat : Seat) : Workgroup :=
  { g with core := core, user := seat.user, slices := seat.user + g.userBytes, window := seat.window, bytes := g.scratchNeeded }

/-- A workgroup at launch. -/
def Workgroup.launched (g : Workgroup) (now : Nat) (seat : Seat) : Workgroup :=
  { g with live := true,
           warps := seat.slots.zipIdx.map fun p => (p.2, g.newWarp now p.2 p.1),
           flumes := ((List.range 16).filter fun f => g.flumeEntry f % 32 != 0).map fun f => (f, g.newFlume f),
           bars := (List.range g.barriers).map fun b => (b, g.newBarrier),
           shapes := ((List.range 8).filter g.shapeDeclared).map fun n => (n, { declared := true, max := g.shapeMax n }) }

/-- The members of a new cluster are admitted one by one: workgroup, core and seat. -/
def State.admitAll (s : State) (g0 : Workgroup) : List (Nat × Nat × Seat) → State
  | [] => s
  | (rank, core, seat) :: r =>
    let g := { g0 with rank := rank, wgid := g0.wgid + rank }.sitAt core seat
    let s1 := { (s.cleanFor g).setWg (s.nextId) (g.launched s.tick seat) with nextId := s.nextId + 1 }
    State.admitAll (s1.acquireAt core .device) g0 r

/-- CLUSTER_ADMISSION (R24, R25, R89, R368): the first candidate, the next cluster of a grid, is admitted whole. -/
def execClusterAdmission (cores : List Nat) (s : State) : Out :=
  match s.firstCandidate with
  | some (_, .grid key) =>
    match s.seats (.grid key) cores with
    | none => .next s
    | some seats =>
      let x := s.grid key
      let cl := s.nextId
      let g0 : Workgroup := { grid := key, cluster := cl, size := x.size, ctx := x.ctx, prio := x.prio, kdesc := x.kdesc,
                              code := x.code, wgid := x.admitted }
      let s1 := s.updGrid key fun x => { x with admitted := x.admitted + x.size }
      let s2 := { s1.updCluster cl fun _ =>
        { live := true, grid := key, ctx := x.ctx, prio := x.prio, die := cores.headD 0 / Config.coresPerDie,
          wgs := (List.range x.size).map fun i => cl + 1 + i, order := cl } with nextId := cl + 1 }
      .next (s2.admitAll g0 ((cores.zip seats).zipIdx.map fun p => (p.2, p.1.1, p.1.2)))
  | _ => .next s

/-! ## The cluster exit barrier (R48, R362) -/

/-- Has a workgroup left nothing outstanding: no release, chain or command of its own? -/
def State.quiet (s : State) (g : Nat) : Bool :=
  let c := s.core (s.wg g).core
  !(c.releases.any fun r => r.wg == g) && !((c.chain.toList ++ c.queue).any fun h => h.wg == g) && !(c.cmds.any fun d => d.wg == g)

/-- What a core holds for a workgroup that leaves it is freed. -/
def Core.forget (c : Core) (g : Nat) : Core :=
  { c with unpub := c.unpub.filter (fun h => h.wg != g), releases := c.releases.filter (fun r => r.wg != g),
           cmds := c.cmds.filter (fun d => d.wg != g), copyWait := c.copyWait.filter (fun p => p.1 != g),
           queue := c.queue.filter (fun h => h.wg != g),
           latch := match c.latch with | some t => if t.wg = g then none else some t | none => none }

/-- A workgroup leaves its core; its walks and invalidations are abandoned. -/
def State.leave (s : State) (g : Nat) : State :=
  let wg := s.wg g
  let s1 := match (s.core wg.core).chain with
    | some h => if h.wg = g then s.freeArrays wg.core h.mods.p else s
    | none => s
  let s2 := ((s1.updCore wg.core fun c => c.forget g).relend wg.core).updCore (wg.core + 1) fun c =>
    { c with latch := match c.latch with | some t => if t.wg = g then none else some t | none => none }
  { s2 with wgs := serase s2.wgs g,
            walks := s2.walks.map fun k => { k with who := k.who.filter fun r => r.wg != g },
            invals := s2.invals.map fun v => { v with who := if v.who.any (fun p => p.1 == g) then some (g, 0, 4) else v.who } }

/-- The flags of a suspend: CTXCMD.BUSY clears with the context's last resident cluster (R354). -/
def State.suspendEnd (s : State) (ctx : Nat) : State :=
  if (s.ctx ctx).suspending && !s.clusters.any (fun k => k.2.live && k.2.ctx == ctx) then
    { s.updCtx ctx fun c => { c with suspending := false } with ctxcmd := s.ctxcmd &&& 0x7FFFFFFF }
  else s

/-- CLUSTER_EXIT_BARRIER (R48, R354, R362): every member has exited, and the allocations of all are freed together. -/
def execClusterExitBarrier (cluster : Nat) (s : State) : Out :=
  let c := s.cluster cluster
  if c.live && c.wgs.all fun g => (s.wg g).exited && s.quiet g then
    let s1 := c.wgs.foldl (fun t g => t.leave g) s
    .next (({ s1 with clusters := serase s1.clusters cluster }.updGrid c.grid fun x => { x with exited := x.exited + c.wgs.length }).suspendEnd
      c.ctx)
  else .next s

/-! ## Pre-emption (R369, R370, R387) -/

/-- Bytes of a workgroup's image (R387). -/
def Workgroup.imageBytes (g : Workgroup) : Nat :=
  let n := 2 ^ 19 + g.registerBytes + g.userBytes + g.allSlices + 128 * g.flumeCount
    + 2 ^ 17 * g.windows * (if g.paired then 2 else 1) + g.shapeBytes
  (n + 2 ^ 16 - 1) / 2 ^ 16 * 2 ^ 16

/-- Bytes of a cluster's images. -/
def State.clusterBytes (s : State) (c : Cluster) : Nat := (c.wgs.map fun g => (s.wg g).imageBytes).foldl (· + ·) 0

/-- The place of a cluster's images in its context's save area: the first gap between those that are saved or are to be (log entry 20). -/
def State.imagePlace (s : State) (c : Cluster) : Option Nat :=
  let x := s.ctx c.ctx
  let base := x.svbase.toNat
  let waiting := (s.clusters.filter fun k => k.2.live && k.2.preempting && k.2.ctx == c.ctx).map fun k =>
    (k.2.place - base, k.2.place - base + s.clusterBytes k.2)
  (firstGap x.svlen.toNat (s.clusterBytes c) (2 ^ 16)
    (waiting ++ (s.saved.filter fun k => k.cluster.ctx == c.ctx).map fun k => (k.base - base, k.base - base + k.bytes))).map (base + ·)

/-- The readmission limit of a context in nanoseconds (R353). -/
def Context.limit (c : Context) : Nat := 1000 * (if c.readmit = 0 then 100 else c.readmit)

/-- The first of some clusters in the order of R369: lowest priority, then most recently admitted. -/
def victimOf (l : List (Nat × Cluster)) : Option (Nat × Cluster) :=
  l.find? fun a => l.all fun b => a.2.prio < b.2.prio || (a.2.prio == b.2.prio && b.2.order ≤ a.2.order)

/-- The cluster that R369 pre-empts next, if any. Every core could hold a member of the candidate, an even one where it is paired
(DESIGN CHOICE, log entry 89). -/
def State.victim (s : State) : Option Nat :=
  match s.firstCandidate with
  | none => none
  | some (p, c) =>
    if s.candidateFits c || s.clusters.any (fun k => k.2.live && k.2.preempting && !(s.ctx k.2.ctx).suspending) then none
    else
      let paired := ({ kdesc := (s.asks c).2.1 : Workgroup }).paired
      (victimOf (s.clusters.filter fun k => k.2.live && !k.2.preempting && k.2.prio < p && (s.imagePlace k.2).isSome
        && k.2.wgs.any fun g => !paired || (s.wg g).core % 2 == 0)).map (·.1)

/-- The cluster that R370 pre-empts next for an overstaying cluster of its context, if any. -/
def State.overstayVictim (s : State) : Option Nat :=
  s.saved.zipIdx.findSome? fun (x, ix) =>
    let ctx := x.cluster.ctx
    let mine := s.clusters.filter fun k => k.2.live && k.2.ctx == ctx
    if !x.overstays || (s.ctx ctx).suspended || s.candidateFits (.saved ix) || mine.any (·.2.preempting) then none
    else
      let fresh (c : Cluster) : Bool := match c.readmitted with | some t => s.time.toNat < t + (s.ctx ctx).limit | none => false
      let able := mine.filter fun k => !fresh k.2 && (s.imagePlace k.2).isSome
      (able.find? fun a => able.all fun b => b.2.order ≤ a.2.order).map (·.1)

/-- PREEMPTION (R354, R369, R370): the launcher or a suspend chooses the cluster, and its splits stop. -/
def execPreemption (cluster : Nat) (s : State) : Out :=
  let c := s.cluster cluster
  let chosen := (s.ctx c.ctx).suspending || s.victim == some cluster || s.overstayVictim == some cluster
  match s.imagePlace c with
  | none => .next s
  | some place =>
    if c.live && !c.preempting && chosen then .next (s.updCluster cluster fun x => { x with preempting := true, place := place })
    else .next s

/-- READMISSION_LIMIT_EXPIRY (R370): the earliest-saved waiting cluster of its context has waited longer than the limit. -/
def execReadmissionLimitExpiry (image : Nat) (s : State) : Out :=
  match s.saved[image]? with
  | none => .next s
  | some x =>
    let ctx := x.cluster.ctx
    if (s.saved.take image).all (fun y => y.cluster.ctx != ctx) && x.time + (s.ctx ctx).limit < s.time.toNat then
      .next { s with saved := s.saved.set image { x with overstays := true } }
    else .next s

/-! ## Context save (R388, R389) -/

/-- Is an instruction that waits so saved before its effect and issued again (R388)? -/
def Wait.reissues : Wait → Bool
  | .copyRoom => true
  | .release => true
  | .walk => true
  | .inval => true
  | .cancel _ => true
  | .convert => true
  | .again => true
  | _ => false

/-- A split as it is saved. -/
def Split.stop (x : Split) : Split :=
  if x.live && x.st == .wait && x.wait.reissues then x.again
  else if x.live && x.st == .held && x.before == .wait && x.wait.reissues then { x.again with st := .held, before := .run }
  else x

/-- A warp as it is saved: results are delivered, and an array instruction that stops part-way leaves PROGRESS (R293). -/
def Warp.stop (w : Warp) (p : Option DWord) : Warp :=
  { w with splits := w.splits.map fun q => (q.1, q.2.stop), score := [], progress := p.getD w.progress }

/-- The PROGRESS that a chain leaves, if its instruction is stopped part-way. -/
def Chain.partWay (c : Chain) : Option DWord :=
  match c.todo with
  | i :: _ => if 0 < i.done && i.done < i.steps then some c.progress else none
  | [] => none

/-- The image of a workgroup (R389). -/
def State.imageOf (s : State) (g : Nat) : Image :=
  let wg := s.wg g
  let c := s.core wg.core
  let held : Option Chain := c.chain.filter fun h => h.wg == g
  let win (c : Core) : Sparse Entry :=
    (c.acc.filter fun p => let w := p.1 / Config.windowEntries; wg.window ≤ w && w < wg.window + wg.windows).map fun p =>
      (p.1 - wg.window * Config.windowEntries, p.2)
  let prog (w : Nat) : Option DWord := held.bind fun h => if h.warp = w then h.partWay else none
  { wg := g, wgState := { wg with warps := wg.warps.map fun p => (p.1, p.2.stop (prog p.1)) },
    scratch := c.spRead wg.user wg.bytes, acc := win c, accF := if wg.paired then win (s.core (wg.core + 1)) else [],
    chain := held, queue := c.queue.filter fun h => h.wg == g, spill := if held.isSome then c.spill else [],
    cmds := c.cmds.filter fun d => d.wg == g }

/-- The releases of a workgroup complete as its stores are published (R388, step 3): the numbers of its TLSIGs (R84). -/
def State.releaseAll (s : State) (g : Nat) : State :=
  let wg := s.wg g
  let ns := ((s.core wg.core).releases.filter fun r => r.wg == g).filterMap (·.number)
  ns.foldl (fun t n => t.complete wg.ctx wg.core n) ((s.release wg.core g).reach wg.core)

/-- CONTEXT_SAVE (R81, R388, R389): the cluster's stores are published, its images are written, its resources freed. -/
def execContextSave (cluster : Nat) (s : State) : Out :=
  let c := s.cluster cluster
  if !(c.live && c.preempting) then .next s
  else
    let n := s.clusterBytes c
    let s1 := c.wgs.foldl (fun t g => (t.perform (t.wg g).core fun l => l.wg == g).releaseAll g) s
    let images := c.wgs.map s1.imageOf
    let s2 := c.wgs.foldl (fun t g => t.leave g) s1
    let img : Saved := { cluster := { c with preempting := false, converting := [] }, images := images, time := s.time.toNat,
                         base := c.place, bytes := n, draw := s.draws }
    let s3 : State := { s2 with clusters := serase s2.clusters cluster, draws := s.draws + 1, saved := s2.saved ++ [img] }
    .next ((State.updCtx s3 c.ctx fun x => { x with svused := x.svused + BitVec.ofNat 64 n }).suspendEnd c.ctx)

/-! ## Context restore (R25, R81, R390) -/

/-- An image is written back onto a core: the contents, the workgroup, its commands in number order ahead of others, routines from their
start (R401), its array state; the core acquires (R81). A chain that held the array waits for it ahead of others (log entry 20), with its
spillway entries. -/
def State.putBack (s : State) (y : Image) (core : Nat) (seat : Seat) : State :=
  let old := y.wgState
  let move (n : Nat) (w : Warp) : Warp :=
    let q := seat.slots.getD n (0, false)
    { w with slot := q.1, half := q.2 }
  let g := Workgroup.sitAt { old with warps := old.warps.map fun p => (p.1, move p.1 p.2) } core seat
  let s1 := s.cleanFor g
  let place (l : Sparse Entry) (c : Core) : Core :=
    let w0 := g.window * Config.windowEntries
    let kept := c.acc.filter fun p => !(w0 ≤ p.1 && p.1 < w0 + g.windows * Config.windowEntries)
    { c with acc := l.foldl (fun m p => sset (fun _ => 0) m (w0 + p.1) p.2) kept }
  let chains := (y.chain.map fun h => { h with stash := y.spill }).toList
  let s2 := s1.updCore core fun c =>
    let c1 := (place y.acc c).spWrite g.user y.scratch
    { c1 with cmds := y.cmds.map Cmd.rerun ++ c1.cmds, queue := chains ++ c1.queue ++ y.queue }
  let s3 := if g.paired then s2.updCore (core + 1) (place y.accF) else s2
  let s4 := ((s3.setWg y.wg g).relend core).acquireAt core .device
  (y.cmds.filter (·.cancelled)).foldl (fun t d => t.cancelCmd core d) s4

/-- CONTEXT_RESTORE (R368, R390): the first candidate, a saved cluster, returns to cores of one die. -/
def execContextRestore (image : Nat) (cores : List Nat) (s : State) : Out :=
  match s.saved[image]? with
  | none => .next s
  | some x =>
    if s.firstCandidate.map (·.2) != some (.saved image) then .next s
    else
      match s.seats (.saved image) cores with
      | none => .next s
      | some seats =>
        let s1 := { s with saved := s.saved.eraseIdx image, nextId := s.nextId + 1 }
        let key := (x.images.head?.map (·.wgState.cluster)).getD 0
        let s2 := (s1.updCtx x.cluster.ctx fun c => { c with svused := c.svused - BitVec.ofNat 64 x.bytes }).updCluster key fun _ =>
          { x.cluster with die := cores.headD 0 / Config.coresPerDie, order := s.nextId,
                                                    readmitted := if x.overstays then some s.time.toNat else x.cluster.readmitted }
        .next (((x.images.zip cores).zip seats).foldl (fun t p => t.putBack p.1.1 p.1.2 p.2) s2)

/-! ## Aging, line fetches (R140, R371) -/

/-- AGING_STEP (R371): a split that has been ready and passed over for 256 clocks gains a step. -/
def execAgingStep (wg warp split : Nat) (s : State) : Out :=
  let x := s.split wg warp split
  if x.live && x.st == .run && 256 ≤ x.waited then
    .next (s.updSplit wg warp split fun x => { x with age := min 31 (x.age + 1), waited := x.waited - 256 })
  else .next s

/-- LINE_FETCH_COMPLETE (R140, R142): the line that a split is about to issue from has been read. -/
def execLineFetchComplete (wg warp split : Nat) (s : State) : Out :=
  let x := s.split wg warp split
  if x.live && x.st == .run then
    match s.fetchLine (s.wg wg).ctx (PC.line x.pc) with
    | (s1, .inl l) => .next (s1.updSplit wg warp split fun x => { x with line := some (PC.line x.pc, l) })
    | (_, .inr _) => .next s
  else .next s

end Sys2Proof.Machine
end

