-- ==== Sys2Proof/Machine/Host.lean ====
section
/-! DEFINITION. Accesses of the host and of peers to device memory; contexts, translation control, the routine table and queue
registers (R65, R66, R91, R351 to R359, R392 to R395). -/
namespace Sys2Proof.Machine

/-! ## Accesses from outside (R65, R66, R91, R351, R445) -/

/-- An access that completes as an Unsupported Request, with no effect (R351). -/
def State.unsupported (s : State) : State := { s with readData := [], readEnd := .unsupported }

/-- An access completes: its data, marked poisoned where a line that it reads is (R445). -/
def State.answer (s : State) (pa n : Nat) (bs : List Byte) : State :=
  { s with readData := bs, readEnd := if s.poisoned pa n then .poisoned else .done }

/-- The state in which the device's view of a line no longer follows HBM: L2 holds the line as it is (R66). -/
def State.shadow (s : State) (line : Nat) : State :=
  if (sget (fun _ => ({} : L2Line)) s.l2 line).live then s
  else { s with l2 := sset (fun _ => {}) s.l2 line { live := true, data := s.slicePlain line, key := s.hbmKey line } }

/-- What the host sees of a byte of HBM (R66): what HBM holds, as its raw content decrypts without a key (R60); a line whose
write-back is held serves the access from L2 (R409). -/
def State.hostByte (s : State) (pa : Nat) : Byte :=
  if s.isHeld (lineOf pa) then s.homeByte none pa else reKey (s.hbmKey (lineOf pa)) none pa (s.hbmByte pa)

/-- One line of HBM written by the host, where `f` gives the new bytes; none where a deduplication window needs a pool line and none
is free (R66, R407 to R409). L2 and the device's view of the line stay as they are until a FLUSH. -/
def State.hostWriteLine (s : State) (line : Nat) (f : Nat → Option Byte) : Option State :=
  let s1 := s.shadow line
  let old (i : Nat) : Byte := s.hostByte (line * 128 + i)
  let data := lineOfBytes fun i => (f i).getD (old i)
  match s.windowDie (line * 128) with
  | some die =>
    match s1.poolStore die line data none false with
    | (t, true) => some t
    | _ => none
  | none =>
    some (if (s.hbmKey line).isSome then (s1.setHbmKey line none).setMemBytes (line * 128) (lineBytes data)
      else (List.range 128).foldl (fun t i => match f i with | some b => t.setMemByte (line * 128 + i) b | none => t) s1)

/-- Bytes written by the host to HBM from an address on, line by line. -/
def State.hostWrite (s : State) (pa : Nat) (bs : List Byte) : Option State :=
  ((List.range ((pa % 128 + bs.length + 127) / 128)).foldl (fun (t : Option State) k =>
    let line := lineOf pa + k
    t.bind fun u => u.hostWriteLine line fun i => if pa ≤ line * 128 + i then bs[line * 128 + i - pa]? else none) (some s)).map
      fun t => t.clearPoison pa bs.length

/-- What the host reads of HBM (R66). -/
def State.hostRead (s : State) (pa n : Nat) : List Byte := (List.range n).map fun i => s.hostByte (pa + i)

/-- Does a range of addresses lie in HBM, outside what deduplication keeps to itself (R407)? -/
def State.hostMay (s : State) (pa n : Nat) : Bool :=
  0 < n && pa + n ≤ Config.hbmBytes && (List.range n).all fun i => !s.inDedupArea (pa + i)

/-- HOST_HBM_ACCESS (R66, R351, R407): a read or a write through BAR4. -/
def execHostHbmAccess (off n : Nat) (w : Option (List Byte)) (s : State) : Out :=
  match w with
  | none => .next (if s.hostMay off n then s.answer off n (s.hostRead off n) else s.unsupported)
  | some bs =>
    if !s.hostMay off bs.length then .next s.unsupported
    else
      match s.hostWrite off bs with
      | some t => .next { t with readData := [], readEnd := .done }
      | none => .next s

/-- HOST_WINDOW_ACCESS (R65, R90): a read or a write through BAR2, performed at the window's SRAM. -/
def execHostWindowAccess (off n : Nat) (w : Option (List Byte)) (s : State) : Out :=
  let pa := Config.windowBase + off
  match w with
  | none => .next (if 0 < n && off + n ≤ Config.windowBytes then s.answer pa n (s.homeRead none pa n) else s.unsupported)
  | some bs =>
    .next (if 0 < bs.length && off + bs.length ≤ Config.windowBytes then
      { (s.setMemBytes pa bs).clearPoison pa bs.length with readData := [], readEnd := .done } else s.unsupported)

/-- PEER_ACCESS (R52, R82, R91, R404): a peer's read, write or atomic of HBM, performed at the home slice. -/
def execPeerAccess (addr n : Nat) (act : PeerAct) (s : State) : Out :=
  match act with
  | .read => .next (if s.hostMay addr n then (s.crossRange addr n).answer addr n (s.homeRead none addr n) else s.unsupported)
  | .write bs =>
    .next (if s.hostMay addr bs.length then
      { ((s.crossRange addr bs.length).publish {} none addr bs).clearPoison addr bs.length with readData := [], readEnd := .done } else s.unsupported)
  | .atomic op w64 x y =>
    let k := if w64 then 8 else 4
    if !s.hostMay addr k || addr % k ≠ 0 then .next s.unsupported
    else
      let old := s.homeRead none addr k
      let new : Nat := if w64 then (intAtom op (BitVec.ofNat 64 (ofBytes old)) x y).toNat
        else (intAtom op (BitVec.ofNat 32 (ofBytes old)) (x.setWidth 32) (y.setWidth 32)).toNat
      .next (((s.crossRange addr k).publish {} none addr (toBytes k new)).answer addr k old)

/-! ## Contexts (R353, R354) -/

/-- A command register with a result, no command in progress. -/
def result (err : Nat) : Word := BitVec.ofNat 32 (err * 2 ^ 28)

/-- Are the fields of a context descriptor within their limits (R353)? -/
def contextOk (d : BitVec 512) : Bool :=
  let ring := bitsAt d 256 64
  let size := 64 * 2 ^ (bitsAt d 252 4 + 6)
  reservedZero d [(180, 12), (203, 37), (252, 68), (352, 160)]
  && bitsAt d 448 12 == 0 && bitsAt d 500 12 == 0 && bitsAt d 384 12 == 0 && bitsAt d 352 12 == 0
  && ring % 4096 == 0 && bitsAt d 252 4 ≤ 10 && ring + size ≤ Config.hbmBytes && bitsAt d 214 10 + bitsAt d 203 11 ≤ 1024

/-- The context that a descriptor describes, as it is created (R353, R379): RCFG, WGARG and the save area's registers stay. -/
def Context.make (c : Context) (d : BitVec 512) : Context :=
  { c with created := true, suspended := false, suspending := false, ptroot := bitsAt d 448 64, shape := bitsAt d 384 64,
           shapeLen := bitsAt d 352 32, ring := bitsAt d 256 64, ringSize := bitsAt d 252 4, readmit := bitsAt d 224 16,
           csBase := bitsAt d 214 10, csLen := bitsAt d 203 11, asn := bitsAt d 180 12, rprod := 0, rcons := 0, lost := false,
           lostCnt := 0, svused := 0, pending := [], held := [] }

/-- A context command by a master, where none is in progress and no permit is being applied (R354, R429, R442): `act` gives the
state, or the error. CTXCMD.CTX has eight bits, so no command names a context above 255 (R353). -/
def State.ctxCommand (s : State) (m : Master) (ctx : Nat) (act : State → State ⊕ Nat) : State :=
  if !s.owns m || s.ctxcmd.getLsbD 31 || s.fleet.pmtCmd.getLsbD 31 || Config.contexts ≤ ctx then s
  else
    match act { s with ctxcmd := 0 } with
    | .inl t => t
    | .inr err => { s with ctxcmd := result err }

/-- CTX_CREATE (R84, R353, R354). -/
def execCtxCreate (m : Master) (ctx : Nat) (s : State) : Out :=
  .next (s.ctxCommand m ctx fun t =>
    let a := t.ctxtab.toNat + 64 * ctx
    let d : BitVec 512 := BitVec.ofNat 512 (ofBytes (t.rawRead a 64))
    if (t.ctx ctx).created then .inr 2
    else if !t.firmMay a 64 || !contextOk d then .inr 1
    else .inl { t.updCtx ctx fun c => c.make d with timelines := t.timelines.filter fun p => p.1 / 2 ^ 32 != ctx })

/-- Does a context hold work (R354)? -/
def State.hasWork (s : State) (ctx : Nat) : Bool :=
  s.wgs.any (fun g => g.2.live && g.2.ctx == ctx) || s.saved.any (fun x => x.cluster.ctx == ctx)
    || s.grids.any fun g => g.2.live && g.2.ctx == ctx && (g.2.admitted != g.2.count || g.2.exited != g.2.count)

/-- CTX_DESTROY (R354, R382): its held subjects end, and no record of it is written any more. -/
def execCtxDestroy (m : Master) (ctx : Nat) (s : State) : Out :=
  .next (s.ctxCommand m ctx fun t =>
    if !(t.ctx ctx).created then .inr 3
    else if t.queues.any fun q => q.2.enabled && q.2.ctx == ctx then .inr 4
    else if t.hasWork ctx then .inr 5
    else
      let idle (q : Queue) : Queue := if q.ctx = ctx then { q with packets := [] } else q
      .inl { t.updCtx ctx fun c => { c with created := false, csLen := 0, shapeLen := 0, pending := [], held := [] }
             with queues := t.queues.map fun q => (q.1, idle q.2) })

/-- CTX_SUSPEND (R354): admission stops, and BUSY stays set until the last resident cluster is saved. -/
def execCtxSuspend (m : Master) (ctx : Nat) (s : State) : Out :=
  .next (s.ctxCommand m ctx fun t =>
    if !(t.ctx ctx).created then .inr 3
    else .inl ({ t.updCtx ctx fun c => { c with suspended := true, suspending := true } with ctxcmd := 0x80000000 }.suspendEnd ctx))

/-- CTX_RESUME (R354). -/
def execCtxResume (m : Master) (ctx : Nat) (s : State) : Out :=
  .next (s.ctxCommand m ctx fun t =>
    if !(t.ctx ctx).created then .inr 3 else .inl (t.updCtx ctx fun c => { c with suspended := false }))

/-! ## Translation control (R58, R355) -/

/-- An invalidation by the driver starts (R355). -/
def State.tlbCommand (s : State) (m : Master) (ctx : Nat) (page : Option Nat) : State :=
  if !s.owns m || s.tlbcmd.getLsbD 31 || Config.contexts ≤ ctx then s
  else { s with tlbcmd := 0x80000000, invals := s.invals ++ [{ ctx := ctx, page := page, who := none }] }

/-- TLBCMD_PAGE. -/
def execTlbcmdPage (m : Master) (ctx : Nat) (s : State) : Out := .next (s.tlbCommand m ctx (some (s.tlbva.toNat % 2 ^ 57)))
/-- TLBCMD_ALL. -/
def execTlbcmdAll (m : Master) (ctx : Nat) (s : State) : Out := .next (s.tlbCommand m ctx none)

/-! ## The routine table (R392 to R395) -/

/-- Bytes of an HSS signature with the parameters of R434. -/
def sigBytes : Nat := 3284

/-- Does a range lie in HBM? -/
def inHbm (a n : Nat) : Bool := a + n ≤ Config.hbmBytes

/-- Is the header of a routine image well formed (R393, R394)? -/
def imageHeaderOk (h : BitVec 512) : Bool :=
  bitsAt h 0 16 == 0x6C2B && bitsAt h 16 16 == 1 && bitsAt h 32 32 != 0 && reservedZero h [(0, 80), (96, 160)]
  && bitsAt h 96 32 % 4 == 0 && 4 ≤ bitsAt h 96 32 && bitsAt h 96 32 ≤ 65536
  && bitsAt h 128 32 % 8 == 0 && bitsAt h 128 32 ≤ 16384
  && bitsAt h 160 32 % 2 == 0 && bitsAt h 160 32 < bitsAt h 96 32 && bitsAt h 192 32 != 0 && bitsAt h 224 32 == sigBytes

/-- An image's signed bytes and its signature (R393, R394), from its bytes on. -/
def signedPart (h : BitVec 512) (bs : List Byte) : List Byte × List Byte :=
  let code := bitsAt h 96 32
  let data := bitsAt h 128 32
  let d := 64 + up64 code
  (bs.take (64 + code) ++ (bs.drop d).take data, (bs.drop (d + up64 data)).take sigBytes)

/-- A routine command, which needs an index other than 0, of six bits (R392). -/
def State.rtCommand (s : State) (m : Master) (index : Nat) (act : State → State ⊕ Nat) : State :=
  if !s.owns m || s.rtcmd.getLsbD 31 || 64 ≤ index then s
  else if index = 0 then { s with rtcmd := result 3 }
  else
    match act { s with rtcmd := 0 } with
    | .inl t => t
    | .inr err => { s with rtcmd := result err }

/-- A measurement extended (R437). -/
def State.extend (s : State) (n : Nat) (x : List Byte) : State :=
  let old := sget (fun _ => 0) s.fleet.meas n
  { s with fleet := { s.fleet with meas := sset (fun _ => 0) s.fleet.meas n (Config.sha256 (toBytes 32 old.toNat ++ x)) } }

/-- Bytes of an image from an offset. -/
def sliceOf (bs : List Byte) (off n : Nat) : List Byte := (bs.drop off).take n
/-- The header of a firmware image (R433). -/
def fwHeader (img : List Byte) : BitVec 512 := BitVec.ofNat 512 (ofBytes (img.take 64))
/-- Body bytes, offset of the signature index, security version. -/
def fwLen (img : List Byte) : Nat := bitsAt (fwHeader img) 96 32
def fwIdx (img : List Byte) : Nat := bitsAt (fwHeader img) 64 32
def fwSvn (img : List Byte) : Nat := bitsAt (fwHeader img) 48 16
/-- Bytes of a public key (R434). -/
def keyBytes : Nat := 60
/-- The signature index that an image names: the key that signs routines, the permit key, and their signature (R433), in this
order (log entry 73). -/
def fwIndex (img : List Byte) : List Byte := sliceOf img (fwIdx img) (2 * keyBytes + sigBytes)
/-- The public key that signs routines, and the permit key, from the index that flash holds. -/
def Fleet.routineKey (f : Fleet) : List Byte := (fwIndex f.flash).take keyBytes
def Fleet.permitKey (f : Fleet) : List Byte := sliceOf (fwIndex f.flash) keyBytes keyBytes

/-- RTCMD_LOAD (R392 to R395, R437). Firmware reads the image as published, at any address (DESIGN CHOICE as to one that is no multiple of
4 KiB, log entry 59). -/
def execRtcmdLoad (m : Master) (index : Nat) (s : State) : Out :=
  .next (s.rtCommand m index fun t =>
    let a := t.rtaddr.toNat
    let h : BitVec 512 := BitVec.ofNat 512 (ofBytes (t.rawRead a 64))
    let n := 64 + up64 (bitsAt h 96 32) + up64 (bitsAt h 128 32) + sigBytes
    if !t.firmMay a 64 then .inr 4
    else if !imageHeaderOk h then .inr 1
    else if !t.firmMay a n then .inr 4
    else
      let bs := t.rawRead a n
      let (body, sig) := signedPart h bs
      if !Config.hssVerify t.fleet.routineKey body sig then .inr 2
      else
        let e : RoutineEntry := { valid := true, id := bitsAt h 32 32, ver := bitsAt h 64 16, bytes := bs }
        .inl ({ t with routines := sset (fun _ => {}) t.routines index e }.extend 3
          (toBytes 1 index ++ toBytes 4 e.id ++ toBytes 2 e.ver ++ toBytes 32 (Config.sha256 bs).toNat)))

/-- RTCMD_UNLOAD (R392, R394, R395). -/
def execRtcmdUnload (m : Master) (index : Nat) (s : State) : Out :=
  .next (s.rtCommand m index fun t =>
    .inl { t with routines := sset (fun _ => {}) t.routines index { sget (fun _ => {}) t.routines index with valid := false } })

/-! ## Queue registers (R357 to R359) -/

/-- The check of the write index (R358): a queue that is parsed stops on an overrun. -/
def State.overrun (s : State) (q : Nat) : State :=
  let x := s.queue q
  if x.enabled && !x.stop && 2 ^ x.ringLog < (x.wptr - x.rptr).toNat then s.qError q 0x05 else s

/-- A write of QWPTR. -/
def State.writeWptr (s : State) (q : Nat) (v : Word) : State := (s.updQueue q fun x => { x with wptr := v }).overrun q

/-- DOORBELL (R352, R358): the host writes a queue's doorbell page; only its first word acts, and the headgate does not gate it. -/
def execDoorbell (m : Master) (q : Nat) (v : Word) (page : Nat) (s : State) : Out :=
  if m = .host && q < Config.queues && page = 0 && s.fleet.recovery = 0 then .next (s.writeWptr q v) else .next s

/-- QCFG as a write leaves it (R357): SIZE and CTX keep their values while ENABLE is 1; a weight of 0 stores 1. -/
def Queue.withCfg (x : Queue) (v : Word) : Word :=
  let w := if bitsAt v 8 8 = 0 then 1 else bitsAt v 8 8
  let fixed := if x.enabled then x.cfg &&& 0x78FF0000 else v &&& 0x78FF0000
  (v &&& 0x8000001F) ||| fixed ||| BitVec.ofNat 32 (w * 256)

/-- QCFG_WRITE (R357, R358): enabling a queue needs a created context and a legal size, and checks the write index held. A FENCE at the
head is parsed again. -/
def execQcfgWrite (m : Master) (q : Nat) (v : Word) (s : State) : Out :=
  if !s.owns m || Config.queues ≤ q then .next s
  else
    let x := s.queue q
    let c := x.withCfg v
    let y : Queue := { x with cfg := c }
    if x.enabled || !y.enabled then .next (s.updQueue q fun _ => y)
    else if !(s.ctx y.ctx).created || 16 < y.ringLog then
      .next (s.updQueue q fun _ => { y with cfg := c &&& 0x7FFFFFFF, err := 0x03 })
    else .next ((s.updQueue q fun _ => { y with fwait := false, fence := [] }).overrun q)

/-- QSTAT_STOP_CLEAR (R358, R359): writing 1 to STOP lets the queue be parsed again. -/
def execQstatStopClear (m : Master) (q : Nat) (v : Word) (s : State) : Out :=
  if s.owns m && decide (q < Config.queues) && v.getLsbD 31 then .next ((s.updQueue q fun x => { x with stop := false }).overrun q) else .next s

/-- A word of a queue block written (R352, R357). -/
def State.writeQueue (s : State) (m : Master) (q off : Nat) (v : Word) : State :=
  let x := s.queue q
  match off with
  | 0x00 => if x.enabled then s else s.updQueue q fun x => { x with base := setHalf false x.base v }
  | 0x04 => if x.enabled then s else s.updQueue q fun x => { x with base := setHalf true x.base v }
  | 0x08 => match execQcfgWrite m q v s with | .next t => t | _ => s
  | 0x0C => s.writeWptr q v
  | 0x10 => if x.stop then s.updQueue q fun x => { x with rptr := v } else s
  | 0x14 => match execQstatStopClear m q v s with | .next t => t | _ => s
  | _ => s

end Sys2Proof.Machine
end

