-- ==== Sys2Proof/Machine/Dedup.lean ====
section
/-! DEFINITION. Registers of compression and deduplication, and write-backs (R404 to R410). -/
namespace Sys2Proof.Machine

/-! ## Compression (R404) -/

/-- The five counters of a die are zeroed. -/
def State.clearComp (s : State) (die : Nat) : State :=
  { s with compcnt := s.compcnt.filter fun p => homeDie (p.1 / 5) != die % 2 }

/-- COMPCTL_CLR. -/
def execCompctlClr (m : Master) (die : Nat) (s : State) : Out := .next (if s.owns m then s.clearComp die else s)

/-! ## Deduplication (R406, R407, R409) -/

/-- DDCTL with a result. -/
def Dedup.withErr (d : Dedup) (err : Nat) : Dedup := { d with ctl := (d.ctl &&& 1) ||| result err }

/-- The first and one past the last HBM address of a die. -/
def dieHbm (die : Nat) : Nat × Nat := (die * Config.dieHbmBytes, (die + 1) * Config.dieHbmBytes)

/-- Are the window and the area legal (R406)? -/
def Dedup.placed (d : Dedup) (die : Nat) : Bool :=
  let (lo, hi) := dieHbm die
  let w := d.win.toNat
  let a := d.area.toNat
  w % 2 ^ 30 == 0 && d.wlen.toNat % 2 ^ 30 == 0 && lo ≤ w && w + d.wlen.toNat ≤ hi
  && a % 2 ^ 21 == 0 && lo ≤ a && a < hi && (a < w || w + d.wlen.toNat ≤ a)

/-- The bytes from the area's base to the window above it, or to the end of the die's HBM: the area has no length of its own. -/
def Dedup.areaRoom (d : Dedup) (die : Nat) : Nat :=
  (if d.area.toNat < d.win.toNat then d.win.toNat else (dieHbm die).2) - d.area.toNat

/-- Does the area cover the entries of the window and a pool of `n` lines (R406)? -/
def Dedup.covers (d : Dedup) (die n : Nat) : Bool := d.wlen.toNat / 16 + 144 * n ≤ d.areaRoom die

/-- The area initialised, with every window line empty (R407). -/
def Dedup.initial (d : Dedup) : Dedup :=
  { d with ctl := 1, free := d.pool, shared := 0, mapped := 0, map := [], keys := [], refs := [], content := [], cand := [], fresh := none,
           signalled := false, heldLines := [] }

/-- Does a line lie in the die's window? -/
def Dedup.inWindow (d : Dedup) (line : Nat) : Bool := d.win.toNat ≤ line * 128 && line * 128 < d.win.toNat + d.wlen.toNat

/-- What the caches hold of a die's window is dropped: the L2 lines go, and the cores' copies become pending (R61). -/
def State.dropWindow (s : State) (die : Nat) : State :=
  let d := s.dd die
  { s with l2 := s.l2.filter fun p => !d.inWindow p.1,
           cores := s.cores.map fun c => (c.1, { c.2 with copies := c.2.copies.map fun l =>
             (l.1, { l.2 with pending := l.2.pending || d.inWindow l.1 }) }) }

/-- DDCTL_ENABLE (R406, R407): every window line is empty from then on, so nothing that L2 held of the window stays. -/
def execDdctlEnable (m : Master) (die : Nat) (s : State) : Out :=
  let d := s.dd die
  if !s.owns m || d.ctl.getLsbD 0 then .next s
  else if !d.placed die then .next (s.updDd die fun d => d.withErr 1)
  else if !d.covers die d.pool.toNat then .next (s.updDd die fun d => d.withErr 2)
  else .next ((s.dropWindow die).updDd die Dedup.initial)

/-- DDCTL_DISABLE (R407): the window's contents are discarded, those in L2 too. -/
def execDdctlDisable (m : Master) (die : Nat) (s : State) : Out :=
  let d := s.dd die
  if !s.owns m || !d.ctl.getLsbD 0 then .next s
  else .next ((s.dropWindow die).updDd die fun d => { d.initial with ctl := 0, free := 0 })

/-- DDCTL_CLR (R406). -/
def execDdctlClr (m : Master) (die : Nat) (s : State) : Out :=
  .next (if s.owns m then s.updDd die fun d => { d with sat := 0, miss := 0 } else s)

/-- DDPOOL_WRITE (R406): while deduplication is on, only a greater pool that the area covers is accepted. -/
def execDdpoolWrite (m : Master) (die : Nat) (v : DWord) (s : State) : Out :=
  let d := s.dd die
  let n := v.toNat % 2 ^ 32
  if !s.owns m then .next s
  else if !d.ctl.getLsbD 0 then .next (s.updDd die fun d => { d with pool := BitVec.ofNat 64 n })
  else if n ≤ d.pool.toNat || !d.covers die n then .next (s.updDd die fun d => d.withErr 2)
  else .next ((s.updDd die fun d => { d.withErr 0 with pool := BitVec.ofNat 64 n, free := d.free + BitVec.ofNat 64 (n - d.pool.toNat) }).lowWater die)

/-- A write of DDCTL: CLR, then ENABLE (R406). -/
def State.writeDdctl (s : State) (m : Master) (die : Nat) (v : Word) : State :=
  let go (t : State) (f : State → Out) : State := match f t with | .next u => u | _ => t
  let s1 := if v.getLsbD 1 then go s (execDdctlClr m die) else s
  if v.getLsbD 0 then go s1 (execDdctlEnable m die) else go s1 (execDdctlDisable m die)

/-! ## Write-backs (R66, R408, R409) -/

/-- L2_WRITEBACK (R408): a dirty line is written back; it stays in L2, clean. -/
def execL2Writeback (line : Nat) (s : State) : Out :=
  .next (if isHbm (line * 128) then (s.writeback line).1 else s)

/-- HELD_WRITEBACK_RETRY (R409): a write-back that was held for want of a pool line is tried again. -/
def execHeldWritebackRetry (line : Nat) (s : State) : Out :=
  .next (if s.isHeld line then (s.writeback line).1 else s)

end Sys2Proof.Machine
end

