-- ==== Sys2Proof/Machine/Debug.lean ====
section
/-! DEFINITION. Debug and profiling: features, holds, breakpoints, DBGCMD, counters' and trace's control (R412 to R427). -/
namespace Sys2Proof.Machine

/-! ## Features (R427, R439) -/

/-- The open features: 0 trace, 1 stops, 2 reads, 3 writes. -/
def State.openFeatures (s : State) : BitVec 4 := if s.fleet.life = .production then s.fleet.features else 0xF
/-- Is a feature open? -/
def State.featureOpen (s : State) (n : Nat) : Bool := s.openFeatures.getLsbD n
/-- The code of a life-cycle state. -/
def Life.bits : Life → Nat
  | .develop => 0
  | .production => 1
  | .returned => 2
/-- DBGGATE. -/
def State.dbggate (s : State) : Nat := s.fleet.life.bits * 256 + s.openFeatures.toNat

/-- TRCTL.EN and BP.EN read 0 while their feature is closed: what a change of the features clears. -/
def State.gateDebug (s : State) : State :=
  let close (d : Debug) : Debug :=
    { d with trctl := if s.featureOpen 0 then d.trctl else d.trctl &&& 0x7FFFFFFF,
             bpcfg := if s.featureOpen 1 then d.bpcfg else d.bpcfg.map fun p => (p.1, p.2 &&& 0x7FFFFFFF) }
  let closeCore (c : Core) : Core := { c with dbg := close c.dbg }
  { s with cores := s.cores.map fun p => (p.1, closeCore p.2) }

/-! ## Counters (R412 to R416) -/

/-- PCCTL_CLR (R415): the counters hold no slot of before. -/
def execPcctlClr (m : Master) (core : Nat) (s : State) : Out :=
  .next (if s.owns m then s.updDebug core fun d =>
    { d with counters := [], slots := d.slots.map fun p => (p.1, { p.2 with counted := false }) } else s)
/-- PCCTL_FREEZE (R415). -/
def execPcctlFreeze (m : Master) (core : Nat) (s : State) : Out :=
  .next (if s.owns m then s.updDebug core fun d => { d with freeze := true } else s)

/-! ## Holds (R423, R425) -/

/-- A split leaves what it waits in, for a hold that lets its instruction issue again. -/
def State.dropWaits (s : State) (g w n : Nat) : State :=
  let wg := s.wg g
  let mine (r : WalkRef) : Bool := r.wg == g && r.warp == w && r.split == n
  let core (c : Core) : Core :=
    { c with copyWait := c.copyWait.filter (· != (g, w, n)),
             releases := c.releases.map fun r => if r.wg == g && r.who == some (w, n) then { r with who := none } else r }
  let s1 := { s.updCore wg.core core with
    walks := s.walks.map fun k => { k with who := k.who.filter fun r => !mine r },
    invals := s.invals.map fun v => if v.who == some (g, w, n) then { v with who := some (g, w, 4) } else v }
  match (s.split g w n).pend with
  | some (.barInit o _) => s1.updCluster wg.cluster fun c => { c with converting := c.converting.filter fun p => p.1 != objNum o.a 0x20 }
  | _ => s1

/-- The array instructions of a warp, which has one split, are stopped at their k-step boundary and open no chain, or go on (R283,
R294, R425). -/
def State.holdChain (s : State) (g w : Nat) (held : Bool) : State :=
  let core := (s.wg g).core
  let mark (c : Chain) : Chain := if c.wg = g && c.warp = w then { c with held := held } else c
  let s1 := (s.updCore core fun k => { k with chain := k.chain.map mark, queue := k.queue.map mark }).relend core
  match ((s.core core).chain.filter fun c => c.wg == g && c.warp == w).bind (·.partWay) with
  | some p => s1.updWarp g w fun x => { x with progress := p }
  | none => s1

/-- A hold of one split (R425), with the stop record of R419 where it stops now; `why` is the breakpoint, 15, or 16 for a step, which has
no record. A split in wait stays one whose instruction is not performed: it is to issue again once it is let go. -/
def State.holdSplit (s : State) (g w n why : Nat) : State :=
  let x := s.split g w n
  if !x.live || x.st == .held then s
  else if x.st == .inTrap || x.handler then s.updSplit g w n fun y => { y with holdNext := some why }
  else
    let s1 := if x.st == .wait && x.wait.reissues then (s.dropWaits g w n).updSplit g w n fun y => { y with wait := .again } else s
    let s2 := (s1.holdChain g w true).updSplit g w n fun y => { y with before := y.st, st := .held, holdNext := none, since := s.tick }
    if why < 16 then s2.traceEvent g w n 5 2 why else s2

/-- Every debug-held split returns to the state before (R424). -/
def State.unholdSplit (s : State) (g w n : Nat) : State :=
  let x := s.split g w n
  if !x.live then s
  else if x.st == .held then
    (s.holdChain g w false).updSplit g w n fun y => { y with st := y.before, before := .run, holdNext := none, since := s.tick }
  else s.updSplit g w n fun y => { y with holdNext := none }

/-- After every step: a split that has stopped at an instruction boundary, for a hold that waited for one, has its array instructions
stopped (R425) and its record written (R419). A step ends without a record: it stops for no breakpoint and no hold command. -/
def State.settleStops (s : State) : State :=
  let due := s.wgs.flatMap fun p => p.2.warps.flatMap fun q => q.2.splits.filterMap fun r => r.2.stopRec.map fun why => (p.1, q.1, r.1, why)
  due.foldl (fun t (g, w, n, why) =>
    let u := (t.updSplit g w n fun y => { y with stopRec := none, since := s.tick }).holdChain g w true
    if why < 16 then u.traceEvent g w n 5 2 why else u) s

/-- The splits of a scope: 0 one split, 1 its warp, 2 its workgroup. -/
def State.scopeSplits (s : State) (g w n scope : Nat) : List (Nat × Nat) :=
  match scope with
  | 0 => [(w, n)]
  | 1 => splitIxs.map fun i => (w, i)
  | _ => (s.wg g).warps.flatMap fun p => splitIxs.map fun i => (p.1, i)

/-! ## Breakpoints (R422, R423) -/

/-- Does breakpoint `b` of a core match a split that is about to issue? -/
def State.bpMatches (s : State) (g w n b : Nat) : Bool :=
  let wg := s.wg g
  let d := (s.core wg.core).dbg
  let c := sget (fun _ => 0) d.bpcfg b
  let pc := (sget (fun _ => 0) d.bppc b).toNat % 2 ^ 57
  c.getLsbD 31 && bitsAt c 8 8 == wg.ctx && (c.getLsbD 7 || bitsAt c 0 7 == w) && offsetOk pc && pc == (s.split g w n).pc.toNat

/-- A split's line, where it has been read and the split's PC is settled. -/
def Split.loaded (x : Split) : Option Line :=
  match x.line with
  | some (a, l) => if !x.seq && a == PC.line x.pc then some l else none
  | none => none

/-- The breakpoints that match a split that is about to issue, unless it is to pass them. A carrier never issues (R422). -/
def State.breakpointsAt (s : State) (g w n : Nat) : List Nat :=
  let x := s.split g w n
  match x.loaded with
  | none => []
  | some l =>
    if x.pass || (Line.badStripes l = 0 && !Line.illegal l && Line.lit l (PC.slot x.pc)) then []
    else (List.range 8).filter (s.bpMatches g w n)

/-- BP.ACT of a breakpoint of a core. -/
def Debug.bpAct (d : Debug) (b : Nat) : Nat := bitsAt (sget (fun _ => 0) d.bpcfg b) 29 2

/-- A match (R423): the split stops with its instruction not performed, and the others of the action's scope at their boundaries; or
only a stop record is written. -/
def State.breakOn (s : State) (g w n b : Nat) : State :=
  let act := (s.core (s.wg g).core).dbg.bpAct b
  if act = 3 then s.traceEvent g w n 5 2 b
  else ((w, n) :: s.scopeSplits g w n act).foldl (fun t p => t.holdSplit g p.1 p.2 b) s

/-- Every match of a split acts (R423), and the split then passes them: it may issue the instruction that they name (log entry 34). -/
def State.breakOnAll (s : State) (g w n : Nat) (bs : List Nat) : State :=
  if bs.isEmpty then s else (bs.foldl (fun t b => t.breakOn g w n b) s).updSplit g w n fun y => { y with pass := true }

/-- BREAKPOINT_MATCH (R423): a split in run whose PC is settled and whose line has been read is about to issue. -/
def execBreakpointMatch (g w n : Nat) (s : State) : Out :=
  let x := s.split g w n
  if x.live && x.st == .run && !x.replay then .next (s.breakOnAll g w n (s.breakpointsAt g w n)) else .next s

/-! ## DBGCMD (R424) -/

/-- The workgroup that DBGTGT names, if it is resident on the core. -/
def State.dbgTarget (s : State) (core : Nat) : Option Nat :=
  let t := (s.core core).dbg.tgt
  (s.wgs.find? fun p => p.2.live && p.2.core == core && p.2.wgid == bitsAt t 32 32 && p.2.ctx == bitsAt t 16 8).map (·.1)

/-- Does a kind of item belong to the warp that DBGTGT names, and is that warp not resident (R424)? -/
def State.dbgAbsent (s : State) (g w : Nat) (sel : Word) : Bool :=
  !(s.warp g w).live && sel.toNat / 2 ^ 28 != 8 && sel.toNat / 2 ^ 28 != 9

/-- A DBGCMD by a master (R424): `feature` must be open and the target resident; `act` gives the state, or the error. -/
def State.dbgCommand (s : State) (m : Master) (core feature : Nat) (act : State → Nat → Nat → Nat → Nat → State ⊕ Nat) : State :=
  let t := (s.core core).dbg.tgt
  let done (u : State) (err : Nat) : State := u.updDebug core fun d => { d with cmd := result err }
  if !s.owns m then s
  else if !s.featureOpen feature then done s 4
  else
    match s.dbgTarget core with
    | none => done s 1
    | some g =>
      match act s g (bitsAt t 8 7) (bitsAt t 0 2) (bitsAt t 2 2) with
      | .inl u => done u 0
      | .inr err => done s err

/-- DBGCMD_HOLD. -/
def execDbgcmdHold (m : Master) (core : Nat) (s : State) : Out :=
  .next (s.dbgCommand m core 1 fun t g w n scope =>
    if scope = 3 then .inr 3
    else if scope < 2 && !(t.warp g w).live then .inr 1
    else if scope = 0 && !(t.split g w n).live then .inr 2
    else .inl ((t.scopeSplits g w n scope).foldl (fun u p => u.holdSplit g p.1 p.2 0xF) t))
/-- DBGCMD_RESUME. -/
def execDbgcmdResume (m : Master) (core : Nat) (s : State) : Out :=
  .next (s.dbgCommand m core 1 fun t g w n scope =>
    if scope = 3 then .inr 3
    else if scope < 2 && !(t.warp g w).live then .inr 1
    else .inl ((t.scopeSplits g w n scope).foldl (fun u p => u.unholdSplit g p.1 p.2) t))
/-- DBGCMD_STEP: the split goes on, and is held again at its next instruction boundary, or where its instruction waits. -/
def execDbgcmdStep (m : Master) (core : Nat) (s : State) : Out :=
  .next (s.dbgCommand m core 1 fun t g w n _ =>
    if !(t.warp g w).live then .inr 1
    else if (t.split g w n).live && (t.split g w n).st == .held then
      .inl ((t.unholdSplit g w n).updSplit g w n fun y =>
        { if y.st == .wait && y.wait == .again then y.again else y with holdNext := some 16, pass := true })
    else .inr 2)

/-- Is every split of a warp debug-held? -/
def State.warpHeld (s : State) (g w : Nat) : Bool := splitIxs.all fun n => !(s.split g w n).live || (s.split g w n).st == .held

/-- The resume PC that kind 5 names is that of a split in state in-trap, or the PC at which a debug-held split goes on. -/
def State.dbgResume (s : State) (g w n : Nat) : Option PC :=
  let x := s.split g w n
  if !x.live then none else if x.st == .held then some x.pc else if x.st == .inTrap then some x.resume else none

/-- A WREG kind's value (R206). -/
def State.dbgElem (s : State) (g w n : Nat) (e : Elem) : Option Word :=
  match e with
  | .resume i high => (s.dbgResume g w i).map fun pc => halfOf high (pc.setWidth 64)
  | _ => (s.actAs g w n).readElem w e
/-- A WREG kind written. -/
def State.dbgSetElem (s : State) (g w n : Nat) (e : Elem) (y : Word) : Option State :=
  match e with
  | .resume i high =>
    (s.dbgResume g w i).map fun pc =>
      let z : PC := (setHalf high (pc.setWidth 64) y).setWidth 57
      s.updSplit g w i fun x =>
        if x.st == .held then { x with pc := z, seq := false, pass := false } else { x with resume := z, resumeSeq := false }
  | _ => ((s.actAs g w n).writeElem w e y).map fun t => { t with cur := s.cur }

/-- The item that DBGSEL and DBGADDR select (R424), or the error. -/
def State.dbgItem (s : State) (g w n : Nat) (sel : Word) (addr : Nat) : Nat ⊕ Nat :=
  let wg := s.wg g
  let x := s.warp g w
  let core := s.core wg.core
  let low := sel.toNat % 2 ^ 28
  let held (r : Option Nat) : Nat ⊕ Nat := if !s.warpHeld g w then .inr 2 else match r with | some v => .inl v | none => .inr 3
  match sel.toNat / 2 ^ 28 with
  | 6 => held (if low < 2 ^ 16 then x.statItem low else none)
  | 8 => if addr % 8 = 0 && addr + 8 ≤ wg.userBytes then .inl (ofBytes (core.spRead (wg.user + addr) 8)) else .inr 3
  | 9 => if addr < wg.windows * Config.windowEntries then .inl (core.entry (wg.entryAt addr)).toNat else .inr 3
  | 10 =>
    if x.role ≠ .maths then .inr 3
    else if (s.warpChain g w).isNone then held none
    else held (if addr < Config.spillEntries then some (sget (fun _ => 0) (s.chainSpill g w) addr).toNat else none)
  | 11 =>
    match s.warpChain g w with
    | some c =>
      held (if addr < 2 ^ 14 || (addr < 2 ^ 15 && c.mods.p) then some ((sget (fun _ => 0) c.pe addr).toNat - 1) else none)
    | none => held none
  | k => if k < 6 then held ((x.elem sel.toNat).bind fun e => (s.dbgElem g w n e).map (·.toNat)) else .inr 3

/-- DBGCMD_READ. -/
def execDbgcmdRead (m : Master) (core : Nat) (s : State) : Out :=
  let d := (s.core core).dbg
  .next (s.dbgCommand m core 2 fun t g w n _ =>
    if t.dbgAbsent g w d.sel then .inr 1
    else
      match t.dbgItem g w n d.sel d.addr.toNat with
      | .inl v => .inl (t.updDebug core fun d => { d with data := BitVec.ofNat 128 v })
      | .inr err => .inr err)

/-- An item written (R424): as an ST.64 or an STA of the workgroup, or as WREG. -/
def State.dbgSet (s : State) (g w n : Nat) (sel : Word) (addr : Nat) (data : BitVec 128) : State ⊕ Nat :=
  let wg := s.wg g
  match sel.toNat / 2 ^ 28 with
  | 8 =>
    if addr % 8 = 0 && addr + 8 ≤ wg.userBytes then .inl (s.updCore wg.core fun c => c.spWrite (wg.user + addr) (toBytes 8 (bitsAt data 0 64)))
    else .inr 3
  | 9 =>
    if addr < wg.windows * Config.windowEntries then .inl (s.updCore wg.core fun c => c.setEntry (wg.entryAt addr) (data.extractLsb' 0 64))
    else .inr 3
  | k =>
    if 6 ≤ k then .inr 3
    else if !s.warpHeld g w then .inr 2
    else
      match ((s.warp g w).elem sel.toNat).bind fun e => s.dbgSetElem g w n e (data.extractLsb' 0 32) with
      | some t => .inl t
      | none => .inr 3

/-- DBGCMD_WRITE. -/
def execDbgcmdWrite (m : Master) (core : Nat) (s : State) : Out :=
  let d := (s.core core).dbg
  .next (s.dbgCommand m core 3 fun t g w n _ => if t.dbgAbsent g w d.sel then .inr 1 else t.dbgSet g w n d.sel d.addr.toNat d.data)

/-! ## Trace control (R417, R421) -/

/-- TRCTL_WRITE (R417, R427): setting EN zeroes TRPROD, TRCONS and TRLOST; while tracing is closed EN stays 0. -/
def execTrctlWrite (m : Master) (core : Nat) (v : Word) (s : State) : Out :=
  if !s.owns m then .next s
  else
    let w := (if s.featureOpen 0 then v else v &&& 0x7FFFFFFF) &&& 0x8F0FFFBC
    .next ((s.samples core).updDebug core fun d =>
      if w.getLsbD 31 && !d.trctl.getLsbD 31 then
        { d with trctl := w, trprod := 0, trcons := 0, trlost := 0, trdrop := 0, clocks := [], slots := [] }
      else { d with trctl := w })

end Sys2Proof.Machine
end

