-- ==== Sys2Proof/Machine/Fleet.lean ====
section
/-! DEFINITION. Fleet operation: the headgate, boot and reset, recovery, attestation, keys, permits, errors, power (R429 to R447). -/
namespace Sys2Proof.Machine

/-- The state with its fleet registers changed. -/
def State.updFleet (s : State) (f : Fleet → Fleet) : State := { s with fleet := f s.fleet }

/-! ## The headgate (R429 to R432) -/

/-- The number of a master (R429). -/
def masterNum : Master → Nat
  | .host => 0
  | .bmc => 1
  | .fabric => 2

/-- A master's HGRES (R430). -/
def Fleet.setResult (f : Fleet) (m : Master) (r : Nat) : Fleet := { f with results := sset (fun _ => 0) f.results (masterNum m) (BitVec.ofNat 32 r) }

/-- A headgate act, which recovery does not present (R435). -/
def State.headgate (s : State) (f : Fleet → Fleet) : State := if s.fleet.recovery = 0 then s.updFleet f else s

/-- HGCMD_CLAIM (R431). -/
def execHgcmdClaim (m : Master) (s : State) : Out :=
  .next (s.headgate fun f =>
    if f.owner = none || f.pendTo = some m then ({ f with owner := some m, pendTo := none, epoch := f.epoch + 1 }).setResult m 0
    else f.setResult m 1)
/-- HGCMD_RELEASE (R431). -/
def execHgcmdRelease (m : Master) (s : State) : Out :=
  .next (s.headgate fun f =>
    if f.owner = some m then ({ f with owner := none, pendTo := none, epoch := f.epoch + 1 }).setResult m 0 else f.setResult m 2)
/-- A hand-over to a master, or to number 3 (R431). -/
def Fleet.handOver (f : Fleet) (m : Master) (target : Option Master) : Fleet :=
  if f.owner ≠ some m then f.setResult m 2
  else if target = none || target = some m then f.setResult m 3
  else ({ f with pendTo := target }).setResult m 0
/-- HGCMD_HAND_OVER (R431). -/
def execHgcmdHandOver (m target : Master) (s : State) : Out := .next (s.headgate fun f => f.handOver m (some target))

/-- HGMBOX_WRITE (R430): any master may write. -/
def execHgmboxWrite (m : Master) (ix : Nat) (v : Word) (s : State) : Out :=
  .next (if ix < 8 then s.headgate fun f =>
    { f with mbox := sset (fun _ => 0) f.mbox ix v, mboxSrc := BitVec.ofNat 32 (2 ^ 31 + masterNum m) } else s)

/-- A master's path is lost (R432): where it is the owner it loses ownership; a hand-over of its is void. -/
def State.losePath (s : State) (m : Master) : State :=
  if s.fleet.owner = some m then s.updFleet fun f => { f with owner := none, pendTo := none, epoch := f.epoch + 1 } else s
/-- OWNER_PATH_LOSS (R432). -/
def execOwnerPathLoss (m : Master) (s : State) : Out := .next (s.losePath m)

/-! ## Boot, reset and recovery (R433 to R435, R437) -/

/-- Is the header well formed, and do its parts lie in the image? -/
def fwReadable (img : List Byte) : Bool :=
  let h := fwHeader img
  bitsAt h 0 16 == 0x51F3 && bitsAt h 16 16 == 1 && reservedZero h [(0, 33), (48, 80)] && fwLen img % 64 == 0
  && fwIdx img % 4096 == 0 && 64 + fwLen img + sigBytes ≤ img.length
  && fwIdx img + (2 * keyBytes + sigBytes) ≤ img.length

/-- The step of the boot that an image fails under a floor (R434, R435), or 0. -/
def bootCheck (img : List Byte) (floor : Nat) : Nat :=
  if !fwReadable img then 5
  else
    let key := Config.imageKey (sliceOf img 64 (fwLen img))
    if Config.sha256 key ≠ Config.fusedDigest then 1
    else if !Config.hssVerify key (img.take (64 + fwLen img)) (sliceOf img (64 + fwLen img) sigBytes) then 2
    else if fwSvn img < floor then 3
    else if !Config.hssVerify key ((fwIndex img).take (2 * keyBytes)) ((fwIndex img).drop (2 * keyBytes)) then 4
    else 0

/-- What the boot ROM extends the measurements with (R437): the image's digest, the signature index's, the life-cycle state. -/
def bootMeasures (img : List Byte) (life : Life) : Sparse (BitVec 256) :=
  let ext (x : List Byte) : BitVec 256 := Config.sha256 (toBytes 32 0 ++ x)
  [(0, ext (toBytes 32 (Config.sha256 (img.take (64 + fwLen img + sigBytes))).toNat)),
   (1, ext (toBytes 32 (Config.sha256 (fwIndex img)).toNat)), (2, ext [BitVec.ofNat 8 life.bits])]

/-- The fleet registers after a reset: what is fused or in flash stays, and the attestation key goes on behind the leaves that flash
holds as reserved; the ROM boots the image, and a boot that succeeds may raise the floor, or the device is in recovery. -/
def Fleet.boot (f : Fleet) : Fleet :=
  let failed := bootCheck f.flash f.floor
  let g : Fleet := { flash := f.flash, floor := f.floor, life := f.life, signatures := f.reserved, reserved := f.reserved, drawn := f.drawn, recovery := failed }
  if failed ≠ 0 then g
  else
    { g with svn := fwSvn f.flash, meas := bootMeasures f.flash f.life,
             floor := if (fwHeader f.flash).getLsbD 32 then fwSvn f.flash else f.floor }

/-- DEVICE_RESET (R433, R434): every register and all on-die state take their reset values; HBM, host and peer memory keep their
contents, and the model's own fields go on. -/
def execDeviceReset (s : State) : Out :=
  .next { State.reset with mem := s.mem.filter fun p => !isCistern p.1 && !isWindow p.1, enc := s.enc, poison := s.poison.filter (fun l => isHbm (l.1 * 128)),
                           fleet := s.fleet.boot,
                           agenda := s.agenda, nextId := s.nextId, tick := s.tick, draws := s.draws }

/-- RCVCMD_VERIFY_WRITE (R435): in recovery, the host's image is checked as a boot image is; one that passes is written to flash, and
the device resets. -/
def execRcvcmdVerifyWrite (m : Master) (s : State) : Out :=
  let f := s.fleet
  let a := f.rcvAddr.toNat
  let n := f.rcvLen.toNat
  if m ≠ .host || f.recovery = 0 then .next s
  else
    let err : Nat := if isHost a && isHost (a + (n - 1)) then bootCheck (s.homeRead none a n) f.floor else 5
    if err ≠ 0 then .next (s.updFleet fun f => { f with rcvCmd := result err })
    else execDeviceReset (s.updFleet fun f => { f with flash := s.homeRead none a n ++ f.flash.drop n })

/-! ## Attestation and keys (R436 to R438) -/

/-- Is an address aligned to 64 bytes with `n` bytes in HBM, where firmware may access them (R407)? -/
def State.hbmBlock (s : State) (a n : Nat) : Bool := a % 64 == 0 && inHbm a n && !s.meetsArea a n

/-- The body of a report (R437). -/
def State.report (s : State) : List Byte :=
  let f := s.fleet
  let meas (n : Nat) : List Byte := toBytes 32 (sget (fun _ => 0) f.meas n).toNat
  toBytes 16 Config.devuid.toNat ++ toBytes 2 f.svn ++ toBytes 2 0 ++ toBytes 4 s.dbggate ++ toBytes 8 0
    ++ meas 0 ++ meas 1 ++ meas 2 ++ meas 3 ++ toBytes 32 f.attNonce.toNat ++ toBytes 64 0

/-- The next one-time leaf of the attestation key is taken: where those that flash holds as reserved are used up, 1,024 more are
reserved first (R437). -/
def Fleet.takeLeaf (f : Fleet) : Fleet :=
  { f with signatures := f.signatures + 1, reserved := if f.signatures < f.reserved then f.reserved else f.signatures + 1024 }

/-- ATTCMD_REPORT (R436, R437): any master may ask for a report. -/
def execAttcmdReport (_m : Master) (s : State) : Out :=
  let a := s.fleet.attAddr.toNat
  if s.fleet.recovery ≠ 0 then .next s
  else if !s.hbmBlock a (256 + sigBytes) then .next (s.updFleet fun f => { f with attCmd := result 1 })
  else
    let t := s.putThrough a (s.report ++ toBytes sigBytes (Config.hssSign s.fleet.signatures s.report).toNat)
    .next (t.updFleet fun f => { f.takeLeaf with attCmd := 0 })

/-- KEYCMD_LOAD (R438): the key is read, zeros are written over it, and it is installed. -/
def execKeycmdLoad (m : Master) (slot : Nat) (s : State) : Out :=
  let a := s.fleet.keyAddr.toNat
  if !s.owns m || s.fleet.pmtCmd.getLsbD 31 then .next s
  else if !s.hbmBlock a 64 then .next (s.updFleet fun f => { f with keyCmd := result 1 })
  else
    let key : BitVec 512 := BitVec.ofNat 512 (ofBytes (s.rawRead a 64))
    .next ((s.putThrough a (toBytes 64 0)).updFleet fun f =>
      { f with keyCmd := 0, keys := sset (fun _ => none) f.keys (slot % 16) (some key) })
/-- KEYCMD_CLEAR (R438). -/
def execKeycmdClear (m : Master) (slot : Nat) (s : State) : Out :=
  .next (if s.owns m && !s.fleet.pmtCmd.getLsbD 31 then s.updFleet fun f => { f with keyCmd := 0, keys := sset (fun _ => none) f.keys (slot % 16) none } else s)

/-! ## Permits (R440 to R442) -/

/-- PMTCMD_NEW_NONCE (R440). -/
def execPmtcmdNewNonce (m : Master) (s : State) : Out :=
  .next (if s.owns m && !s.fleet.pmtCmd.getLsbD 31 then s.updFleet fun f =>
    { f with pmtNonce := some (Config.random f.drawn), drawn := f.drawn + 1, pmtCmd := 0 } else s)

/-- The checks of a permit's header and signature (R441, R442), in the order of R442: none, or the error. -/
def State.permitError (s : State) (nonce : Option (BitVec 256)) (h : BitVec 512) (sig : List Byte) (ret : Bool) : Option Nat :=
  if bitsAt h 0 16 ≠ 0x7E51 || bitsAt h 16 16 ≠ 1 || !reservedZero h [(0, 34), (40, 5), (128, 384)]
      || h.extractLsb' 128 128 ≠ Config.devuid then some 2
  else if nonce ≠ some (h.extractLsb' 256 256) then some 1
  else if bitsAt h 32 2 ≠ s.fleet.life.bits || s.fleet.life ≠ .production || bitsAt h 40 4 = 0 || (ret && !h.getLsbD 44) then some 2
  else if !Config.hssVerify s.fleet.permitKey (toBytes 64 h.toNat) sig then some 3
  else none

/-- Every dirty L2 line written back (R442, step 4), and whether none is held for want of a pool line. -/
def State.writeAllBack (s : State) : List Nat → State × Bool
  | [] => (s, true)
  | line :: r =>
    let (t, ok) := (s.writeback line).1.writeAllBack r
    (t, ok && (s.writeback line).2)

/-- Key slots and on-die data wiped (R442, steps 5 and 6): all of them, so no poison of theirs stays (R445). -/
def State.wipe (s : State) : State :=
  let clean (c : Core) : Core :=
    { c with scratch := [], acc := [], userOf := [], windowOf := [], copies := [], unpub := [], late := [], spill := [] }
  { s.updFleet fun f => { f with keys := [] } with
    l2 := [], mem := s.mem.filter (fun p => !isCistern p.1 && !isWindow p.1), poison := s.poison.filter (fun p => isHbm (p.1 * 128)),
    behind := [], cores := s.cores.map fun p => (p.1, clean p.2) }

/-- Steps 1 to 3 of an apply of the permit at PMTADDR (R442): the permit's header, or the error. -/
def State.checkPermit (s : State) (ret : Bool) : BitVec 512 ⊕ Nat :=
  let a := s.fleet.pmtAddr.toNat
  if !s.hbmBlock a (64 + sigBytes) then .inr 5
  else
    let h : BitVec 512 := BitVec.ofNat 512 (ofBytes (s.rawRead a 64))
    match s.permitError s.fleet.pmtNonce h (s.rawRead (a + 64) sigBytes) ret with
    | some err => .inr err
    | none => if s.ctxs.any fun c => c.2.created then .inr 4 else .inl h

/-- Steps 4 to 7 (R442), and the end of the command: while a write-back is held it stays in progress, with BUSY set. -/
def State.finishPermit (s : State) : State :=
  match s.fleet.permit with
  | none => s
  | some (h, ret) =>
    match s.writeAllBack (s.l2.map (·.1)) with
    | (t, false) => t
    | (t, true) =>
      (t.wipe.updFleet fun f =>
        { f with features := f.features ||| h.extractLsb' 40 4, permit := none, pmtCmd := 0, life := if ret then .returned else f.life }).extend 2
          (toBytes 64 h.toNat)

/-- An apply (R442): its checks, which use up the nonce, and then its acts. An apply that is in progress goes on. -/
def State.applyPermit (s : State) (m : Master) (ret : Bool) : State :=
  if s.fleet.permit.isSome then s.finishPermit
  else if !s.owns m then s
  else
    let used (t : State) (f : Fleet → Fleet) : State := t.updFleet fun x => { f x with pmtNonce := none }
    match s.checkPermit ret with
    | .inr err => used s fun f => { f with pmtCmd := result err }
    | .inl h => (used s fun f => { f with pmtCmd := 0x80000000, permit := some (h, ret) }).finishPermit

/-- PMTCMD_APPLY (R442). -/
def execPmtcmdApply (m : Master) (s : State) : Out := .next (s.applyPermit m false)

/-- PMTCMD_ADVANCE (R439, R442). -/
def execPmtcmdAdvance (m : Master) (s : State) : Out :=
  if s.fleet.permit.isSome then .next s.finishPermit
  else if !s.owns m then .next s
  else
    match s.fleet.life with
    | .develop => .next (s.updFleet fun f => { f with life := .production, pmtCmd := 0 }).gateDebug
    | .returned => .next (s.updFleet fun f => { f with pmtCmd := result 2 })
    | .production => .next (s.applyPermit m true)

/-! ## Power (R447) -/

/-- PWRLIM_WRITE (R447). -/
def execPwrlimWrite (m : Master) (v : Word) (s : State) : Out :=
  let w := bitsAt v 0 16
  .next (if s.owns m && !s.fleet.locked then
    s.updFleet fun f => { f with pwrlim := if w = 0 || 1800 < w then 1800 else BitVec.ofNat 32 w, locked := v.getLsbD 31 } else s)

/-- CLOCK_THROTTLE (R19, R447): the latest measurements, and the clock that keeps power and temperature within their limits. The device
holds power within PWRLIM, so a measurement above it does not occur. -/
def execClockThrottle (power temp mhz : Nat) (s : State) : Out :=
  .next (if s.fleet.pwrlim.toNat < power then s else s.updFleet fun f =>
    { f with pwrnow := BitVec.ofNat 32 power, tempmax := BitVec.ofNat 32 temp, clknow := BitVec.ofNat 32 (min mhz 1500) })

/-- Time passes (R158): TIME counts nanoseconds, and THRCNT the clocks that are run below nominal. -/
def State.elapse (s : State) (ns : Nat) : State :=
  let f := s.fleet
  let slow := f.clknow.toNat < 1500
  { s with time := s.time + BitVec.ofNat 64 ns,
           fleet := if slow then { f with thrcnt := f.thrcnt + BitVec.ofNat 64 (ns * f.clknow.toNat / 1000) } else f }

/-- THERMAL_SHUTDOWN (R447): a record to every created context's ring, written at once behind those that wait, and the device stops. -/
def execThermalShutdown (s : State) : Out :=
  let t := (s.ctxs.filter fun c => c.2.created).foldl (fun t c =>
    let u := t.errorRecord c.1 0 0 0 0xF
    (List.range (u.ctx c.1).pending.length).foldl (fun v _ => v.ringWrite c.1) u) s
  .next (t.updFleet fun f => { f with stopped := true })

/-! ## Errors (R444, R445) -/

/-- CORRECTED_ERROR (R444): the structure's counter advances. -/
def execCorrectedError (code : Nat) (s : State) : Out :=
  .next (if code ≤ 6 || (8 ≤ code && code ≤ 10) then s.updFleet fun f =>
    { f with corrected := sset (fun _ => 0) f.corrected code (sget (fun _ => 0) f.corrected code + 1) } else s)

/-- A workgroup whose own state is struck ends, with a record of its WGID (R445). -/
def State.strike (s : State) (g structure_ : Nat) : State :=
  let wg := s.wg g
  if wg.live then (s.errorRecord wg.ctx wg.core wg.wgid 0 structure_).killWorkgroup g else s

/-- The workgroup that a part of a core belongs to. -/
def State.ownerOf (s : State) (mine : Workgroup → Bool) : Option Nat := (s.wgs.find? fun p => p.2.live && mine p.2).map (·.1)

/-- UNCORRECTABLE_DATA_ERROR (R445). -/
def execUncorrectableDataError (at_ : ErrorSite) (s : State) : Out :=
  let poisonLine (line code : Nat) : State := { s with poison := if s.poison.any (fun p => p.1 == line) then s.poison else (line, code) :: s.poison }
  match at_ with
  | .scratchpad core off =>
    match s.ownerOf fun g => g.core == core && g.user ≤ off && off < g.user + g.bytes with
    | some g => .next (s.strike g 3)
    | none => .next s
  | .accumulator core entry =>
    let w := entry / Config.windowEntries
    match s.ownerOf fun g => (g.core == core || (g.paired && g.core + 1 == core)) && g.window ≤ w && w < g.window + g.windows with
    | some g => .next (s.strike g 4)
    | none => .next s
  | .registers g _ => .next (s.strike g 7)
  | .streamBuffer core g => .next (if (s.wg g).core = core then s.strike g 0xB else s)
  | .l1 line => .next (poisonLine line 2)
  | .l2 line => .next (poisonLine line 1)
  | .hbm line => .next (poisonLine line (structureOf (line * 128)))
  | .flit line => .next (poisonLine line 8)
  | .control code =>
    if code = 9 then .next (s.updFleet fun f => { f with stopped := true })
    else if code = 10 then
      let t := s.updFleet fun f => { f with stations := f.stations - 1 }
      if t.fleet.stations = 0 then .next (t.losePath .fabric) else .next t
    else .next s

end Sys2Proof.Machine
end

