-- ==== Sys2Proof/Machine/Registers.lean ====
section
/-! DEFINITION. The control registers of BAR0, word by word: writes by the masters, and what a read returns (R352, R355, R357, R379,
R392, R404, R406, R415, R427, R429 to R447). -/
namespace Sys2Proof.Machine

/-- The state that an act leaves. -/
def after (s : State) (o : Out) : State :=
  match o with
  | .next t => t
  | _ => s

/-- Word `i` of a register replaced (R352). -/
def setWord {w : Nat} (x : BitVec w) (i : Nat) (v : Word) : BitVec w :=
  (x &&& ~~~(BitVec.ofNat w ((2 ^ 32 - 1) * 2 ^ (32 * i)))) ||| BitVec.ofNat w (v.toNat * 2 ^ (32 * i))

/-- Word `i` of a value. -/
def wordOf (x i : Nat) : Word := BitVec.ofNat 32 (x / 2 ^ (32 * i))

/-- A word index within a register that starts at `base` and has `n` words, or none. -/
def within (off base n : Nat) : Option Nat := if base ≤ off && off < base + 4 * n then some ((off - base) / 4) else none

/-! ## Writes -/

/-- A word written by the owner below 0x04_0000 (R352, R355, R438, R440, R447). -/
def State.writeGlobal (s : State) (m : Master) (off : Nat) (v : Word) : State :=
  let ctx := bitsAt v 0 8
  let op := bitsAt v 8 4
  match off with
  | 0x008 => { s with ctxtab := setWord s.ctxtab 0 v }
  | 0x00C => { s with ctxtab := setWord s.ctxtab 1 v }
  | 0x010 =>
    match op with
    | 1 => after s (execCtxCreate m ctx s)
    | 2 => after s (execCtxDestroy m ctx s)
    | 3 => after s (execCtxSuspend m ctx s)
    | 4 => after s (execCtxResume m ctx s)
    | _ => s
  | 0x018 => if v.getLsbD 8 then after s (execTlbcmdAll m ctx s) else after s (execTlbcmdPage m ctx s)
  | 0x020 => { s with tlbva := setWord s.tlbva 0 v }
  | 0x024 => { s with tlbva := setWord s.tlbva 1 v }
  | 0x130 => if v.getLsbD 31 then s.updFleet fun f => { f with mboxSrc := f.mboxSrc &&& 0x7FFFFFFF } else s
  | 0x420 => s.updFleet fun f => { f with pmtAddr := setWord f.pmtAddr 0 v }
  | 0x424 => s.updFleet fun f => { f with pmtAddr := setWord f.pmtAddr 1 v }
  | 0x428 =>
    match bitsAt v 0 4 with
    | 1 => after s (execPmtcmdNewNonce m s)
    | 2 => after s (execPmtcmdApply m s)
    | 3 => after s (execPmtcmdAdvance m s)
    | _ => s
  | 0x500 => s.updFleet fun f => { f with keyAddr := setWord f.keyAddr 0 v }
  | 0x504 => s.updFleet fun f => { f with keyAddr := setWord f.keyAddr 1 v }
  | 0x508 =>
    match op with
    | 1 => after s (execKeycmdLoad m (bitsAt v 0 4) s)
    | 2 => after s (execKeycmdClear m (bitsAt v 0 4) s)
    | _ => s
  | 0x600 => after s (execPwrlimWrite m v s)
  | _ => s

/-- A word of the MSI-X table written (R352, log entry 79): the message of an entry that is pending is sent once it is not masked. -/
def State.writeMsix (s : State) (i : Nat) (v : Word) : State :=
  let n := i / 4
  let x := setWord (s.msixEntry n) (i % 4) (if i % 4 = 3 then v &&& 1 else v)
  let t : State := { s with msixTable := sset msixMasked s.msixTable n x }
  if !x.getLsbD 96 && sget (fun _ => false) s.msixPending n then
    State.signal { t with msixPending := sset (fun _ => false) s.msixPending n false } n
  else t

/-- A word that any master may write (R429): HGCMD, HGMBOX and the attestation registers. -/
def State.writeOpen (s : State) (m : Master) (off : Nat) (v : Word) : State :=
  match within off 0x110 8, within off 0x3A0 8, off with
  | some i, _, _ => after s (execHgmboxWrite m i v s)
  | _, some i, _ => s.headgate fun f => { f with attNonce := setWord f.attNonce i v }
  | _, _, 0x104 =>
    match bitsAt v 0 4 with
    | 1 => after s (execHgcmdClaim m s)
    | 2 => after s (execHgcmdRelease m s)
    | 3 =>
      match bitsAt v 4 2 with
      | 0 => after s (execHgcmdHandOver m .host s)
      | 1 => after s (execHgcmdHandOver m .bmc s)
      | 2 => after s (execHgcmdHandOver m .fabric s)
      | _ => s.headgate fun f => f.handOver m none
    | _ => s
  | _, _, 0x3C0 => s.headgate fun f => { f with attAddr := setWord f.attAddr 0 v }
  | _, _, 0x3C4 => s.headgate fun f => { f with attAddr := setWord f.attAddr 1 v }
  | _, _, 0x3C8 => if bitsAt v 0 4 = 1 then after s (execAttcmdReport m s) else s
  | _, _, _ => s

/-- Is an offset one that any master may write? -/
def openOffset (off : Nat) : Bool := off == 0x104 || (within off 0x110 8).isSome || (0x3A0 ≤ off && off ≤ 0x3C8)

/-- A word written by master 0 in recovery (R435). -/
def State.writeRecovery (s : State) (m : Master) (off : Nat) (v : Word) : State :=
  if m ≠ .host then s
  else
    match off with
    | 0x208 => s.updFleet fun f => { f with rcvAddr := setWord f.rcvAddr 0 v }
    | 0x20C => s.updFleet fun f => { f with rcvAddr := setWord f.rcvAddr 1 v }
    | 0x210 => s.updFleet fun f => { f with rcvLen := v }
    | 0x214 => if bitsAt v 0 4 = 1 then after s (execRcvcmdVerifyWrite m s) else s
    | _ => s

/-- SVLEN as a write of word `i` leaves it (R379): one below SVUSED is ignored. -/
def Context.withSvlen (c : Context) (i : Nat) (v : Word) : Context :=
  let n := setWord c.svlen i v
  if n.toNat < c.svused.toNat then c else { c with svlen := n }

/-- A word of a context's block written (R379, R383). -/
def State.writeCtx (s : State) (m : Master) (ctx off : Nat) (v : Word) : State :=
  match off with
  | 0x04 => after s (execRconsWrite m ctx v s)
  | 0x08 => if v.getLsbD 31 then s.updCtx ctx fun c => { c with lost := false, lostCnt := 0 } else s
  | 0x0C => s.updCtx ctx fun c => { c with rcfg := v &&& 0x800007FF }
  | 0x10 =>
    match bitsAt v 0 4 with
    | 1 => after s (execWgcmdRelease m ctx s)
    | 2 => after s (execWgcmdKill m ctx s)
    | 3 => after s (execWgcmdResumeCommand m ctx s)
    | 4 => after s (execWgcmdCancelCommand m ctx s)
    | _ => s
  | 0x18 => s.updCtx ctx fun c => { c with wgarg := v }
  | 0x20 => s.updCtx ctx fun c => if c.svused = 0 then { c with svbase := setWord c.svbase 0 v } else c
  | 0x24 => s.updCtx ctx fun c => if c.svused = 0 then { c with svbase := setWord c.svbase 1 v } else c
  | 0x28 => s.updCtx ctx fun c => c.withSvlen 0 v
  | 0x2C => s.updCtx ctx fun c => c.withSvlen 1 v
  | _ => s

/-- A word of the routine table's registers written (R392). -/
def State.writeRoutine (s : State) (m : Master) (off : Nat) (v : Word) : State :=
  match off with
  | 0x80000 =>
    match bitsAt v 8 4 with
    | 1 => after s (execRtcmdLoad m (bitsAt v 0 6) s)
    | 2 => after s (execRtcmdUnload m (bitsAt v 0 6) s)
    | _ => s
  | 0x80008 => { s with rtaddr := setWord s.rtaddr 0 v }
  | 0x8000C => { s with rtaddr := setWord s.rtaddr 1 v }
  | _ => s

/-- COMPCTL written (R404). -/
def State.writeComp (s : State) (m : Master) (die off : Nat) (v : Word) : State :=
  if off ≠ 0 then s
  else
    let s1 := { s with compctl := sset (fun _ => 0xF) s.compctl die (v &&& 0xF) }
    if v.getLsbD 31 then after s1 (execCompctlClr m die s1) else s1

/-- A word of the deduplication registers written (R406): DDWIN, DDWLEN and DDAREA are ignored while deduplication is on. -/
def State.writeDedup (s : State) (m : Master) (die off : Nat) (v : Word) : State :=
  let place (f : Dedup → Dedup) : State := s.updDd die fun d => if d.ctl.getLsbD 0 then d else f d
  match off with
  | 0x00 => s.writeDdctl m die v
  | 0x04 => s.updDd die fun d => { d with irq := v &&& 0x800007FF }
  | 0x08 => place fun d => { d with win := setWord d.win 0 v }
  | 0x0C => place fun d => { d with win := setWord d.win 1 v }
  | 0x10 => place fun d => { d with wlen := setWord d.wlen 0 v }
  | 0x14 => place fun d => { d with wlen := setWord d.wlen 1 v }
  | 0x18 => place fun d => { d with area := setWord d.area 0 v }
  | 0x1C => place fun d => { d with area := setWord d.area 1 v }
  | 0x20 => after s (execDdpoolWrite m die (v.setWidth 64) s)
  | 0x24 => s.updDd die fun d => { d with low := v.setWidth 64 }
  | _ => s

/-- A breakpoint register written (R422, R427): BP.EN stays 0 while its feature is closed. -/
def State.writeBreakpoint (s : State) (core rel : Nat) (v : Word) : State :=
  let b := rel / 16
  match rel % 16 with
  | 0 => s.updDebug core fun d => { d with bppc := sset (fun _ => 0) d.bppc b (setWord (sget (fun _ => 0) d.bppc b) 0 v) }
  | 4 => s.updDebug core fun d => { d with bppc := sset (fun _ => 0) d.bppc b (setWord (sget (fun _ => 0) d.bppc b) 1 (v &&& 0x01FFFFFF)) }
  | 8 =>
    let w := (if s.featureOpen 1 then v else v &&& 0x7FFFFFFF) &&& 0xE000FFFF
    s.updDebug core fun d => { d with bpcfg := sset (fun _ => 0) d.bpcfg b w }
  | _ => s

/-- A word of a core's debug block written (R415 to R424). -/
def State.writeDebug (s : State) (m : Master) (core off : Nat) (v : Word) : State :=
  match within off 0x28 4, within off 0x40 32 with
  | some i, _ => s.updDebug core fun d => { d with data := setWord d.data i v }
  | _, some i => s.writeBreakpoint core (4 * i) v
  | _, _ =>
    match off with
    | 0x000 =>
      let s1 := if v.getLsbD 31 then after s (execPcctlClr m core s) else s
      if v.getLsbD 0 then after s1 (execPcctlFreeze m core s1) else s1.updDebug core fun d => { d with freeze := false }
    | 0x008 =>
      match bitsAt v 0 4 with
      | 1 => after s (execDbgcmdHold m core s)
      | 2 => after s (execDbgcmdResume m core s)
      | 3 => after s (execDbgcmdStep m core s)
      | 4 => after s (execDbgcmdRead m core s)
      | 5 => after s (execDbgcmdWrite m core s)
      | _ => s
    | 0x010 => s.updDebug core fun d => { d with tgt := setWord d.tgt 0 (v &&& 0x00FF7F0F) }
    | 0x014 => s.updDebug core fun d => { d with tgt := setWord d.tgt 1 v }
    | 0x018 => s.updDebug core fun d => { d with sel := v }
    | 0x020 => s.updDebug core fun d => { d with addr := setWord d.addr 0 v }
    | 0x024 => s.updDebug core fun d => { d with addr := setWord d.addr 1 v }
    | 0x0C0 => s.updDebug core fun d => if d.trctl.getLsbD 31 then d else { d with trbase := setWord d.trbase 0 v }
    | 0x0C4 => s.updDebug core fun d => if d.trctl.getLsbD 31 then d else { d with trbase := setWord d.trbase 1 v }
    | 0x0C8 => after s (execTrctlWrite m core v s)
    | 0x0D0 => s.updDebug core fun d => { d with trcons := v }
    | _ => s

/-- A word of a control register written by a master (R352, R429, R435). -/
def State.writeWord (s : State) (m : Master) (off : Nat) (v : Word) : State :=
  if s.fleet.recovery ≠ 0 then s.writeRecovery m off v
  else if 0x1000000 ≤ off then after s (execDoorbell m ((off - 0x1000000) / 4096) v (off % 4096) s)
  else if openOffset off then s.writeOpen m off v
  else if !s.owns m then s
  else if 0x2000 ≤ off && off < 0xA000 then s.writeMsix ((off - 0x2000) / 4) v
  else if off < 0x40000 then s.writeGlobal m off v
  else if off < 0x44000 then s.writeCtx m ((off - 0x40000) / 64) (off % 64) v
  else if off < 0x81000 then s.writeRoutine m off v
  else if off < 0x81200 then s.writeComp m ((off - 0x81000) / 0x100) (off % 0x100) v
  else if 0x82000 ≤ off && off < 0x82200 then s.writeDedup m ((off - 0x82000) / 0x100) (off % 0x100) v
  else if 0x100000 ≤ off && off < 0x140000 then s.writeQueue m ((off - 0x100000) / 64) (off % 64) v
  else if 0x200000 ≤ off && off < 0x200000 + 0x1000 * Config.cores then s.writeDebug m ((off - 0x200000) / 0x1000) (off % 0x1000) v
  else s

/-- The ranges of BAR0 that hold registers: first offset, and one past the last (R351, R352). The blocks of a context, of a queue and
of a core, and the doorbell pages, are whole (R379, R415; DESIGN CHOICE as to the second half of a queue's block, log entry 90). -/
def barRanges : List (Nat × Nat) :=
  [(0, 0x14), (0x18, 0x1C), (0x20, 0x28), (0x40, 0x44), (0x100, 0x10C), (0x110, 0x134), (0x200, 0x204), (0x208, 0x218), (0x300, 0x310)]
  ++ [(0x320, 0x3CC), (0x400, 0x42C), (0x500, 0x50C), (0x600, 0x60C), (0x610, 0x61C), (0x700, 0x780), (0x2000, 0xA100), (0x40000, 0x44000)]
  ++ [(0x80000, 0x80004), (0x80008, 0x80010), (0x80100, 0x80300), (0x81000, 0x81004), (0x81008, 0x81030), (0x81100, 0x81104)]
  ++ [(0x81108, 0x81130), (0x82000, 0x82048), (0x82100, 0x82148), (0x100000, 0x140000), (0x200000, 0x200000 + 0x1000 * Config.cores)]
  ++ [(0x1000000, 0x2000000)]

/-- Does a word of BAR0 lie in one of them? -/
def barMapped (off : Nat) : Bool := barRanges.any fun r => r.1 ≤ off && off < r.2

/-- Has an access of a master to BAR0 a form that the device takes (R352, R429): aligned, of 4 or 8 bytes? The management controller moves
words alone, and the management paths do not reach the doorbell pages. -/
def barForm (m : Master) (off width : Nat) : Bool :=
  (width = 4 || (width = 8 && m ≠ .bmc)) && off % width = 0 && (m = .host || decide (off < 0x1000000))

/-- One word of a write: an unmapped offset is an Unsupported Request, without effect (R351). -/
def State.putWord (s : State) (m : Master) (off : Nat) (v : Word) : State := if barMapped off then s.writeWord m off v else s.unsupported

/-- REGISTER_WRITE (R351, R352, R429): lower word first, each as an access of its own (log entry 86). An access of another form completes
as an Unsupported Request. -/
def execRegisterWrite (m : Master) (off width : Nat) (v : DWord) (s : State) : Out :=
  if barForm m off width then
    let s1 := { s with readData := [], readEnd := .done }.putWord m off (v.extractLsb' 0 32)
    .next (if width = 8 then s1.putWord m (off + 4) (v.extractLsb' 32 32) else s1)
  else .next s.unsupported

/-! ## Reads -/

/-- HGOWN (R430). -/
def Fleet.hgown (f : Fleet) : Nat :=
  (match f.owner with | some m => 2 ^ 31 + masterNum m | none => 0) + (match f.pendTo with | some m => 2 ^ 30 + masterNum m * 2 ^ 28 | none => 0)
    + f.epoch.toNat * 256

/-- FWSTAT (R435): the fused floor in recovery, else the running image's version. -/
def Fleet.fwstat (f : Fleet) : Nat :=
  if f.recovery = 0 then f.svn % 2 ^ 16 * 2 ^ 16 else f.floor % 2 ^ 16 * 2 ^ 16 + 256 + f.recovery

/-- A word below 0x04_0000 as a master reads it. -/
def State.readGlobal (s : State) (m : Master) (off : Nat) : Word :=
  let f := s.fleet
  let i := off % 8 / 4
  if off < 8 then wordOf (0x3A9D + Config.level * 2 ^ 16) i
  else if off < 0x10 then wordOf s.ctxtab.toNat i
  else if off = 0x10 then s.ctxcmd
  else if off = 0x18 then s.tlbcmd
  else if 0x20 ≤ off && off < 0x28 then wordOf s.tlbva.toNat i
  else if off = 0x40 then BitVec.ofNat 32 s.dbggate
  else if off = 0x100 then BitVec.ofNat 32 f.hgown
  else if off = 0x108 then sget (fun _ => 0) f.results (masterNum m)
  else if 0x110 ≤ off && off < 0x130 then sget (fun _ => 0) f.mbox ((off - 0x110) / 4)
  else if off = 0x130 then f.mboxSrc
  else if off = 0x200 then BitVec.ofNat 32 f.fwstat
  else if 0x208 ≤ off && off < 0x210 then wordOf f.rcvAddr.toNat i
  else if off = 0x210 then f.rcvLen
  else if off = 0x214 then f.rcvCmd
  else if 0x300 ≤ off && off < 0x310 then wordOf Config.devuid.toNat ((off - 0x300) / 4)
  else if 0x320 ≤ off && off < 0x3A0 then wordOf (sget (fun _ => 0) f.meas ((off - 0x320) / 32)).toNat (off % 32 / 4)
  else if 0x3A0 ≤ off && off < 0x3C0 then wordOf f.attNonce.toNat ((off - 0x3A0) / 4)
  else if 0x3C0 ≤ off && off < 0x3C8 then wordOf f.attAddr.toNat i
  else if off = 0x3C8 then f.attCmd
  else if 0x400 ≤ off && off < 0x420 then wordOf (f.pmtNonce.getD 0).toNat ((off - 0x400) / 4)
  else if 0x420 ≤ off && off < 0x428 then wordOf f.pmtAddr.toNat i
  else if off = 0x428 then f.pmtCmd
  else if 0x500 ≤ off && off < 0x508 then wordOf f.keyAddr.toNat i
  else if off = 0x508 then f.keyCmd
  else if off = 0x600 then f.pwrlim ||| (if f.locked then 0x80000000 else 0)
  else if off = 0x604 then f.pwrnow
  else if off = 0x608 then f.clknow
  else if 0x610 ≤ off && off < 0x618 then wordOf f.thrcnt.toNat i
  else if off = 0x618 then f.tempmax
  else if 0x700 ≤ off && off < 0x780 then wordOf (sget (fun _ => 0) f.corrected ((off - 0x700) / 8)).toNat i
  else 0

/-- A word of a context's block (R379, R381, R383). -/
def Context.readWord (c : Context) (off : Nat) : Word :=
  match off with
  | 0x00 => c.rprod
  | 0x04 => c.rcons
  | 0x08 => BitVec.ofNat 32 ((if c.lost then 2 ^ 31 else 0) + (if c.created && c.ringFull then 2 ^ 30 else 0) + c.lostCnt)
  | 0x0C => c.rcfg
  | 0x10 => c.wgcmd
  | 0x18 => c.wgarg
  | 0x20 => wordOf c.svbase.toNat 0
  | 0x24 => wordOf c.svbase.toNat 1
  | 0x28 => wordOf c.svlen.toNat 0
  | 0x2C => wordOf c.svlen.toNat 1
  | 0x30 => wordOf c.svused.toNat 0
  | 0x34 => wordOf c.svused.toNat 1
  | _ => 0

/-- RTENT of a routine (R392). -/
def RoutineEntry.word (e : RoutineEntry) : Nat := e.ver % 2 ^ 16 * 2 ^ 48 + e.id % 2 ^ 32 * 2 ^ 16 + (if e.valid then 1 else 0)

/-- A word of the deduplication registers (R406). -/
def Dedup.readWord (d : Dedup) (off : Nat) : Word :=
  let i := off % 8 / 4
  if off = 0 then d.ctl
  else if off = 4 then d.irq
  else if off < 0x10 then wordOf d.win.toNat i
  else if off < 0x18 then wordOf d.wlen.toNat i
  else if off < 0x20 then wordOf d.area.toNat i
  else if off = 0x20 then wordOf d.pool.toNat 0
  else if off = 0x24 then wordOf d.low.toNat 0
  else if off = 0x28 then wordOf d.free.toNat 0
  else if off = 0x2C then wordOf d.shared.toNat 0
  else if off < 0x38 then wordOf d.mapped.toNat i
  else if off < 0x40 then wordOf d.sat.toNat i
  else if off < 0x48 then wordOf d.miss.toNat i
  else 0

/-- A word of a queue block (R357). -/
def State.readQueue (s : State) (q off : Nat) : Word :=
  let x := s.queue q
  match off with
  | 0x00 => wordOf x.base.toNat 0
  | 0x04 => wordOf x.base.toNat 1
  | 0x08 => x.cfg
  | 0x0C => x.wptr
  | 0x10 => x.rptr
  | 0x14 => BitVec.ofNat 32 ((if x.stop then 2 ^ 31 else 0) + (if x.fwait then 2 ^ 30 else 0) + x.err)
  | 0x18 => wordOf (s.qtl q).count 0
  | 0x1C => wordOf (s.qtl q).count 1
  | _ => 0

/-- A word of a core's debug block (R415). -/
def Debug.readWord (d : Debug) (off : Nat) : Word :=
  let i := off % 8 / 4
  if off = 0 then (if d.freeze then 1 else 0)
  else if off = 8 then d.cmd
  else if 0x10 ≤ off && off < 0x18 then wordOf d.tgt.toNat i
  else if off = 0x18 then d.sel
  else if 0x20 ≤ off && off < 0x28 then wordOf d.addr.toNat i
  else if 0x28 ≤ off && off < 0x38 then wordOf d.data.toNat ((off - 0x28) / 4)
  else if 0x40 ≤ off && off < 0xC0 then
    (if off % 16 < 8 then wordOf (sget (fun _ => 0) d.bppc ((off - 0x40) / 16)).toNat i
     else if off % 16 = 8 then sget (fun _ => 0) d.bpcfg ((off - 0x40) / 16) else 0)
  else if 0xC0 ≤ off && off < 0xC8 then wordOf d.trbase.toNat i
  else if off = 0xC8 then d.trctl
  else if off = 0xCC then d.trprod
  else if off = 0xD0 then d.trcons
  else if off = 0xD4 then d.trlost
  else if 0x100 ≤ off && off < 0x400 then wordOf (sget (fun _ => 0) d.counters ((off - 0x100) / 8)).toNat i
  else 0

/-- A word of a control register as a master reads it (R352, R429, R435); a read has no effect. -/
def State.readWord (s : State) (m : Master) (off : Nat) : Word :=
  if s.fleet.recovery ≠ 0 && !(off < 8 || (0x200 ≤ off && off < 0x218)) then 0
  else if 0x2000 ≤ off && off < 0xA000 then wordOf (s.msixEntry ((off - 0x2000) / 16)).toNat (off % 16 / 4)
  else if 0xA000 ≤ off && off < 0xA100 then
    BitVec.ofNat 32 (((List.range 32).map fun i =>
      if sget (fun _ => false) s.msixPending ((off - 0xA000) * 8 + i) then 2 ^ i else 0).foldl (· + ·) 0)
  else if off < 0x40000 then s.readGlobal m off
  else if off < 0x44000 then (s.ctx ((off - 0x40000) / 64)).readWord (off % 64)
  else if off = 0x80000 then s.rtcmd
  else if off < 0x80010 then wordOf s.rtaddr.toNat (off % 8 / 4)
  else if 0x80100 ≤ off && off < 0x80300 then
    wordOf (sget (fun _ => ({} : RoutineEntry)) s.routines ((off - 0x80100) / 8)).word (off % 8 / 4)
  else if 0x81000 ≤ off && off < 0x81200 then
    (let die := (off - 0x81000) / 0x100
     let o := off % 0x100
     if o = 0 then s.compCtl die
     else if 8 ≤ o && o < 0x30 then wordOf (s.compCount die (o / 8 - 1)).toNat (o % 8 / 4) else 0)
  else if 0x82000 ≤ off && off < 0x82200 then (s.dd ((off - 0x82000) / 0x100)).readWord (off % 0x100)
  else if 0x100000 ≤ off && off < 0x140000 then s.readQueue ((off - 0x100000) / 64) (off % 64)
  else if 0x1000000 ≤ off then (if off % 4096 = 0 && m == .host then s.readQueue ((off - 0x1000000) / 4096) 0x0C else 0)
  else if 0x200000 ≤ off && off < 0x200000 + 0x1000 * Config.cores then
    (s.core ((off - 0x200000) / 0x1000)).dbg.readWord (off % 0x1000)
  else 0

/-- The bytes of one word of a read: none of an unmapped offset. -/
def State.getWord (s : State) (m : Master) (off : Nat) : List Byte := if barMapped off then toBytes 4 (s.readWord m off).toNat else []

/-- A read of a register by a master (R351, R352, R429): one word, or two at one instant. A word at an unmapped offset makes the access an
Unsupported Request, and gives no data (log entry 86). -/
def State.registerRead (s : State) (m : Master) (off width : Nat) : State :=
  if barForm m off width then
    let words := if width = 8 then [off, off + 4] else [off]
    { s with readData := words.flatMap (s.getWord m), readEnd := if words.all barMapped then .done else .unsupported }
  else s.unsupported

end Sys2Proof.Machine
end

