-- ==== Sys2Proof/Machine/Issue.lean ====
section
/-! DEFINITION. Issue: the ports and their picker, the checks before an instruction, pairs, the charging of slots and samples
(R139, R140, R153 to R156, R160, R183, R371, R412 to R420). -/
namespace Sys2Proof.Machine

/-! ## The scoreboard (R154, log entry 12) -/

/-- Registers from `n` on. -/
def regRun (mk : Nat → PendReg) (n count : Nat) : List PendReg := (List.range count).map fun i => mk (n + i)

/-- The registers that a source names. -/
def srcRegs : SrcKind → Src → List PendReg
  | .of f, .v n _ _ => regRun .v n f.v
  | .of f, .k n _ _ => regRun .k n f.k
  | .of f, .obj n _ => if f.hi = 15 then [if n < 8 then .p n else .kp (n - 8)] else []
  | _, .m n => [.m n]
  | _, _ => []

/-- A predicate register that is written; p7 and kp7 are not (R145). -/
def predReg (mk : Nat → PendReg) (n : Nat) : List PendReg := if n < 7 then [mk n] else []

/-- What a destination field names; a number up to 7 is a kp where `kp` says so. -/
def dstRegs (d : Nat) (kp : Bool) : DstKind → List PendReg
  | .v al => regRun .v d al
  | .k al => regRun .k d al
  | .pred => predReg .p d
  | .num last => if kp && last = 7 then predReg .kp d else []
  | _ => []

/-- The modern instruction whose form a retired one has (R325), for the registers that it touches. -/
def State.modernOf (s : State) (g w n : Nat) (i : Instr) : Instr :=
  match i with
  | .syncw r | .imad24 r | .fmad16 r | .loge r | .ldv r | .mma4 r =>
    match (rawModern (Raw.ofSlot r.words)).map fun m => decodeFields (s.decodeCtx g w n) m r.carrier with
    | some (.ok j) => j
    | _ => i
  | _ => i

/-- The number of a register source, in a warp: what the register holds, or the immediate. -/
def Warp.srcNum (w : Warp) : Src → Nat
  | .k n _ _ => (w.getK n).toNat
  | .imm i => i.toNat
  | .trail _ y => y.toNat
  | _ => 0
/-- The tile slot of the handle in a k pair. -/
def Warp.srcTile (w : Warp) : Src → List PendReg
  | .k n _ _ => [.tile (handleSlot (w.getK64 n))]
  | _ => []
/-- The registers, windows and tile slots that an instruction writes (R154). The windows of an array instruction's chain are held by
its own waits (R286, R287). -/
def writesOf (w : Warp) (i : Instr) : List PendReg :=
  let d := i.args.d
  (match i with
    | .nstat .. | .smaxstep .. => regRun .v d 3
    | _ => dstRegs d (i.op / 128 < 6) i.sig.d) ++
    match i with
    | .xlane _ pd _ _ => predReg .p pd.val
    | .qswap _ pd _ => predReg .p pd.val
    | .qtry _ kpd => predReg .kp kpd.val
    | .mld _ q _ => regRun .m d (q.val + 1)
    | .mzero o _ | .mpromoI2P o _ | .mpromoP2I o _ => regRun .window d (min (w.srcNum o.a) 64)
    | .tcopy o _ | .tgather o _ _ _ | .tfill o _ | .tcoll o _ _ _ => w.srcTile o.b
    | _ => []

/-- The registers, windows and tile slots that an instruction reads, its guard among them (R154). -/
def readsOf (w : Warp) (i : Instr) : List PendReg :=
  let o := i.args
  let s := i.sig
  (if o.g.idx.val = 7 then [] else [if w.guardIsUniform i.op o.g then .kp o.g.idx.val else .p o.g.idx.val])
    ++ srcRegs s.a o.a ++ srcRegs s.b o.b ++ srcRegs s.c o.c
    ++ match i with
      | .mld o _ _ => w.srcTile o.a
      | .mma o m | .mmai o m | .mmab o m =>
        regRun .m (regNum o.a) ((m.q.val + 1) * if m.p then 2 else 1) ++ .window o.d :: w.srcTile o.b
      | .tstore o _ | .tscatter o _ _ _ => w.srcTile o.b
      | _ => []

/-- The windows of the groups that an MMAI.GROUPED of the issuing split reaches (R119). -/
def State.groupWindows (s : State) (i : Instr) : List PendReg :=
  match i with
  | .mmai o m => if m.grouped then regRun .window o.d (s.lastWindow .integer o m (s.arrayOps o m) + 1 - o.d) else []
  | _ => []

/-- The pending results of a warp that an instruction waits for, each with whether the memory leaf counts the wait; `more` are windows that
it touches beside its operands. -/
def Warp.conflicts (w : Warp) (i : Instr) (more : List PendReg) : List (PendReg × Bool) :=
  let touched := writesOf w i ++ readsOf w i ++ more
  w.score.filter fun p => touched.contains p.1

/-- Is an instruction's result one that the memory leaf of R413 counts: a class 101 load, KLD or LDC? -/
def memoryResult (i : Instr) : Bool := i.op / 128 == 5 || i.op == 0x0C0

/-! ## Ports, presence and readiness (R28, R371, R413) -/

/-- The port that a warp issues through (R28, R412). -/
def Warp.port (w : Warp) : Nat :=
  match w.role with
  | .copy => 4
  | .maths => 5
  | .epi => w.slot / 2 % 4

/-- The splits that are present on a port of a core (R413): workgroup, warp, split. -/
def State.present (s : State) (core port : Nat) : List (Nat × Nat × Nat) :=
  s.wgs.flatMap fun p =>
    if p.2.live && p.2.core == core && !(s.cluster p.2.cluster).preempting then
      p.2.warps.flatMap fun q =>
        if q.2.live && q.2.port == port then (splitIxs.filter fun n => (s.split p.1 q.1 n).live).map fun n => (p.1, q.1, n) else []
    else []

/-- The instruction at a split's next PC, if its line has been read and it decodes. -/
def State.nextInstr (s : State) (g w n : Nat) : Option Instr :=
  let x := s.split g w n
  match x.loaded with
  | none => none
  | some l =>
    match decode (s.decodeCtx g w n) (Line.slot l (PC.slot x.pc)) (Line.carrier l (PC.slot x.pc)) with
    | .ok i => some i
    | .err _ => none

/-- The pending results that a split's next instruction waits for. -/
def State.nextConflicts (s : State) (g w n : Nat) : List (PendReg × Bool) :=
  match s.nextInstr g w n with
  | some i => (s.warp g w).conflicts (s.modernOf g w n i) ((s.actAs g w n).groupWindows (s.modernOf g w n i))
  | none => []

/-- May the split be picked: in state run, with nothing that its instruction waits for (R154, R371, R377)? -/
def State.pickable (s : State) (g w n : Nat) : Bool :=
  let x := s.split g w n
  x.live && x.st == .run && !(s.warp g w).siblingHandler n && (s.nextConflicts g w n).isEmpty

/-- Is the split ready, its line at hand (R371)? -/
def State.isReady (s : State) (g w n : Nat) : Bool := s.pickable g w n && (s.split g w n).loaded.isSome

/-- The picker's order (R371): a number that is less for the split that goes first. -/
def State.pickKey (s : State) (p : Nat × Nat × Nat) : Nat × Nat × Nat × Nat × Nat × Nat :=
  let wp := s.warp p.1 p.2.1
  (31 - s.effPrio p.1 p.2.1 p.2.2, (s.split p.1 p.2.1 p.2.2).since, wp.slot, p.2.2, boolBit wp.half, p.1)

/-- Does one key come before another? -/
def keyLt (a b : Nat × Nat × Nat × Nat × Nat × Nat) : Bool :=
  a.1 < b.1 || (a.1 == b.1 && (a.2.1 < b.2.1 || (a.2.1 == b.2.1 && (a.2.2.1 < b.2.2.1 || (a.2.2.1 == b.2.2.1
    && (a.2.2.2.1 < b.2.2.2.1 || (a.2.2.2.1 == b.2.2.2.1 && (a.2.2.2.2.1 < b.2.2.2.2.1 || (a.2.2.2.2.1 == b.2.2.2.2.1
    && a.2.2.2.2.2 < b.2.2.2.2.2)))))))))

/-- The first split of a list in the picker's order. -/
def State.firstPick (s : State) : List (Nat × Nat × Nat) → Option (Nat × Nat × Nat)
  | [] => none
  | p :: r =>
    match s.firstPick r with
    | none => some p
    | some q => if keyLt (s.pickKey q) (s.pickKey p) then some q else some p

/-- The split that a port picks: the second of a pair whose first has issued in this clock, or the first in order. -/
def State.pick (s : State) (core port : Nat) : Option (Nat × Nat × Nat) :=
  let q := s.portSlot core port
  match q.who with
  | some (g, w, n) =>
    if q.pair && s.pickable g w n then some (g, w, n)
    else s.firstPick ((s.present core port).filter fun p => s.pickable p.1 p.2.1 p.2.2)
  | none => s.firstPick ((s.present core port).filter fun p => s.pickable p.1 p.2.1 p.2.2)

/-! ## The charging of slots (R412 to R416) -/

/-- ACTIVE of an instruction that is about to issue, by its class (R170). -/
def State.activeOf (s : State) (i : Instr) : LaneMask :=
  match i with
  | .syncw r | .imad24 r | .fmad16 r | .loge r | .ldv r | .mma4 r =>
    let q := Raw.ofSlot r.words
    s.activeH q.op (rawGuard q)
  | .illegalOpcode _ => s.curSplit.mask
  | _ =>
    let c := i.op / 128
    if (2 ≤ c && c ≤ 4) || i.op == 0x280 || i.op == 0x282 || i.op == 0x283 || i.op == 0x287 then s.activeH i.op i.args.g
    else s.active i.op i.args.g

/-- One clock of a port, charged to a leaf; `sampled` says whether TRCTL admits a sample of the slot, which is due at the interval
(R420). -/
def Debug.charge (d : Debug) (port leaf : Nat) (slot : PortSlot) (sampled : Bool) : Debug :=
  let up (m : Sparse DWord) (c : Nat) : Sparse DWord := sset (fun _ => 0) m (port * 16 + c) (sget (fun _ => 0) m (port * 16 + c) + 1)
  let on := d.trctl.getLsbD 31
  let clock := sget (fun _ => 0) d.clocks port + if on then 1 else 0
  { d with counters := if d.freeze then d.counters else up (up d.counters leaf) 15,
           clocks := sset (fun _ => 0) d.clocks port clock,
           slots := sset (fun _ => {}) d.slots port { slot with due := sampled && clock % 2 ^ (bitsAt d.trctl 16 4 + 8) == 0 } }

/-- The fields of a sample of a port's slot, but for its leaf (R418 to R420), at an effective priority. -/
def State.sampleFields (s : State) (port : Nat) (who : Option (Nat × Nat × Nat)) (prio : Nat) : Nat :=
  2 ^ 196 + s.time.toNat * 2 ^ 384 + match who with
    | none => port * 2 ^ 460
    | some (g, w, n) => s.traceSplit g w n + (prio + (s.split g w n).stateBits * 2 ^ 8 + port * 2 ^ 12) * 2 ^ 448

/-- The slot of a port that is charged to a leaf and names a split. -/
def State.newSlot (s : State) (core port leaf : Nat) (who : Option (Nat × Nat × Nat)) (prio : Nat) (pair : Bool) : PortSlot :=
  { leaf := leaf, counted := !(s.core core).dbg.freeze, who := who, fields := s.sampleFields port who prio, pair := pair }

/-- A clock of a port of `t` is charged to a leaf, with the slot as it is in `s`. -/
def State.chargeSlot (t : State) (core port leaf : Nat) (q : PortSlot) : State :=
  let sampled := match q.who with
    | some (g, _, _) => t.traces core (t.wg g).ctx 5
    | none => (t.core core).dbg.trctl.getLsbD 31 && (t.core core).dbg.trctl.getLsbD 5
  t.updDebug core fun d => d.charge port leaf q sampled

/-- A clock passes for the splits of a port that are not picked (R371): one that is ready waits a clock longer, whether its line has been
read or not (log entry 12), and a hint that the port's pick has met is over. -/
def State.passOver (s : State) (core port : Nat) (picked : Option (Nat × Nat × Nat)) : State :=
  (s.present core port).foldl (fun t p =>
    if some p == picked then t
    else
      let ready := s.pickable p.1 p.2.1 p.2.2
      t.updSplit p.1 p.2.1 p.2.2 fun x =>
        { x with waited := if ready then x.waited + 1 else x.waited / 256 * 256, hint := x.hint && picked.isNone }) s

/-- A slot of a port in which nothing issues, charged to a leaf, with the split that it names. A sample that is due of the slot before
is written first. -/
def State.charge (s0 : State) (core port leaf : Nat) (who : Option (Nat × Nat × Nat)) : State :=
  let s := (s0.sample core port).passOver core port none
  let prio := match who with | some (g, w, n) => s.effPrio g w n | none => 0
  s.chargeSlot core port leaf (s.newSlot core port leaf who prio false)

/-- The second of a pair issues in the slot of the first (R155): a masked-only slot becomes useful where it is active. -/
def State.chargeSecond (s : State) (core port : Nat) (useful : Bool) : State :=
  s.updDebug core fun d =>
    let q := sget (fun _ => {}) d.slots port
    let up (m : Sparse DWord) (c : Nat) (x : DWord) : Sparse DWord :=
      sset (fun _ => 0) m (port * 16 + c) (sget (fun _ => 0) m (port * 16 + c) + x)
    let move := useful && q.leaf == 1
    { d with counters := if move && q.counted && !d.freeze then up (up d.counters 1 (-1)) 0 1 else d.counters,
             slots := sset (fun _ => {}) d.slots port { q with pair := false, leaf := if move then 0 else q.leaf } }

/-- The leaf of an instruction whose waits are of one kind: those that the table of R413 names, and MREL, which waits for reads of the array. -/
def waitLeaf : Instr → Option Nat
  | .qpush _ => some 8
  | .qpop _ => some 8
  | .barSync _ => some 9
  | .barWait _ => some 9
  | .tlwait _ _ => some 9
  | .mrel _ _ => some 11
  | .yield _ _ => some 12
  | _ => none

/-- The leaf of a wait (R413; log entry 21 for those that the table does not name). -/
def Wait.leaf : Wait → Nat
  | .nempty _ => 8
  | .nfull _ => 8
  | .pop _ => 8
  | .push _ _ => 8
  | .tb _ _ => 9
  | .counter _ _ => 9
  | .barrier _ _ => 9
  | .copyRoom => 10
  | .walk => 10
  | _ => 11

/-- The lowest leaf of 3 to 12 that a present split meets, if it meets one (R413, R414). -/
def State.leafOf (s : State) (g w n : Nat) : Option Nat :=
  let x := s.split g w n
  if x.st == .inTrap || x.handler || (s.warp g w).siblingHandler n then some 3
  else
    match x.st with
    | .held => some 4
    | .wait => some (
        if (x.wait == .perform || x.wait == .array || (x.pend.bind waitLeaf) == some 11) && (s.chainsOf g w).any (·.draining) then 6
        else if x.wait == .perform && (s.core (s.wg g).core).queue.any (fun c => c.wg == g && c.warp == w) then 7
        else (x.pend.bind waitLeaf).getD x.wait.leaf)
    | .joinWait => some 9
    | _ =>
      if x.loaded.isNone then some 5
      else
        match s.nextConflicts g w n with
        | [] => none
        | l => some (if l.any (·.2) then 10 else 11)

/-- The lowest leaf that any of the present splits meets, and the split that is charged (R414). -/
def State.stalled (s : State) (l : List (Nat × Nat × Nat)) : Option (Nat × (Nat × Nat × Nat)) :=
  (List.range 13).findSome? fun leaf =>
    (s.firstPick (l.filter fun p => s.leafOf p.1 p.2.1 p.2.2 == some leaf)).map fun p => (leaf, p)

/-- Is a workgroup whose warps use the port being saved on the core (R413)? -/
def State.switching (s : State) (core port : Nat) : Bool :=
  s.wgs.any fun p => p.2.live && p.2.core == core && (s.cluster p.2.cluster).preempting
    && p.2.warps.any fun q => q.2.live && q.2.port == port

/-- A slot of a port in which nothing issues (R413, R414). -/
def State.idleSlot (s : State) (core port : Nat) : State :=
  match s.present core port with
  | [] => s.charge core port (if s.switching core port then 14 else 13) none
  | l =>
    match s.stalled l with
    | some (leaf, p) => s.charge core port leaf (some p)
    | none => s

/-- ISSUE_SLOT (R412 to R414): a clock of a port in which nothing issues. Where a split is ready, none occurs: it issues. -/
def execIssueSlot (core port : Nat) (s : State) : Out :=
  if core < Config.cores && port < 6 && !((s.present core port).any fun p => s.isReady p.1 p.2.1 p.2.2) then .next (s.idleSlot core port)
  else .next s

/-- TRACE_SAMPLE (R420): at the sample interval, a record of a port's slot, once the slot is over. -/
def execTraceSample (core port : Nat) (s : State) : Out :=
  .next (if core < Config.cores && port < 6 && !s.pairOpen core port then s.sample core port else s)

/-! ## Before an instruction (R139, R140, R153, R183) -/

/-- The issuing split traps with a fault of its fetch, at the PC about to issue (R139, R386); no instruction is read, and the lane field is 0
(DESIGN CHOICE, log entry 65). -/
def State.fetchTrap (s : State) (f : AccFault) : State :=
  let t := s.updCur fun x => if x.seq then { x with pc := BitVec.ofNat 57 (f.addr / 64 * 64), seq := false } else x
  let pc := t.curSplit.pc
  s.afterArray (t.trapSplit s.cur.wg s.cur.warp s.cur.split f.code pc.toNat f.data (pc, false) 0)

/-- The issuing split's PC is settled and its line read (R139, R140); or the split has trapped. -/
def State.readLine (s : State) : State × Option Line :=
  let ctx := s.curWg.ctx
  let x := s.curSplit
  match x.loaded with
  | some l => if PC.named x.pc then (s, some l) else (s.trapAt 0x12 x.pc.toNat 0, none)
  | none =>
    match s.settle ctx settleFuel (x.pc, x.seq) with
    | (s1, .inr f) => (s1.fetchTrap f, none)
    | (s1, .inl pc) =>
      let s2 := s1.updCur fun y => { y with pc := pc, seq := false }
      if !PC.named pc then (s2.trapAt 0x12 pc.toNat 0, none)
      else
        match s2.fetchLine ctx (PC.line pc) with
        | (s3, .inr f) => (s3.fetchTrap f, none)
        | (s3, .inl l) => (s3.updCur fun y => { y with line := some (PC.line pc, l) }, some l)

/-- The traps of decoding (R23, R153, R373). -/
def State.decodeTrap (s : State) : DecodeError → State
  | .role => s.trapAt 0x02 0 s.curWarp.role.toBits
  | .privilege => s.trapAt 0x03 0 0
  | .budget file n => s.trapAt 0x04 0 (file * 256 + n)
  | .operand f => s.trapAt 0x06 0 f

/-- Does the check of R183 apply: an undefined opcode is no instruction, and traps as such (R160, log entry 34)? -/
def endChecked : Instr → Bool
  | .illegalOpcode _ => false
  | _ => true

/-- The instruction that the issuing split is to issue from its line, or the state after what comes in its place: the checks
of R140, a breakpoint (R423), and the checks of R153 and R183. -/
def State.checkSlot (s : State) (l : Line) : State × Option Instr :=
  let (g, w, n) := (s.cur.wg, s.cur.warp, s.cur.split)
  let x := s.curSplit
  let pc := x.pc
  let bad := Line.badStripes l
  let matched := if x.replay then [] else s.breakpointsAt g w n
  let trap (t : State) : State × Option Instr :=
    if bad ≠ 0 then (t.afterArray (t.trapSplit g w n 0x10 (PC.line pc) bad (pc, false) 0), none)
    else if Line.illegal l then (t.afterArray (t.trapSplit g w n 0x11 (PC.line pc) (Line.word l).toNat (pc, false) 0), none)
    else if Line.lit l (PC.slot pc) then (t.trapAt 0x12 pc.toNat 0, none)
    else
      match decode (t.decodeCtx g w n) (Line.slot l (PC.slot pc)) (Line.carrier l (PC.slot pc)) with
      | .err e => (t.decodeTrap e, none)
      | .ok i =>
        if endChecked i && x.loops.head?.any (fun r => r.endsAt pc) && !x.defer.isEmpty then (t.trapAt 0x15 0 0, none) else (t, some i)
  let t := s.breakOnAll g w n matched
  if (t.split g w n).st == .run then trap t else (t, none)

/-- Split `n` is to issue: the instruction, or what comes in its place; neither where the scoreboard holds it. -/
def State.prepare (s : State) (g w n : Nat) : State × Option Instr :=
  let s0 : State := { s with cur := { wg := g, warp := w, split := n, prio := s.effPrio g w n } }
  match s0.readLine with
  | (s1, none) => (s1, none)
  | (s1, some l) => if (s1.nextConflicts g w n).isEmpty then s1.checkSlot l else (s1, none)

/-! ## Pairs (R155, R156, R423) -/

/-- The v registers that an instruction's sources read, each as often as it is read. -/
def vSources (l : List PendReg) : List Nat := l.filterMap fun r => match r with | .v n => some n | _ => none

/-- Source ports that an operand takes (R155, condition 7). -/
def srcPorts : Src → Nat
  | .v .. => 1
  | .k .. => 1
  | .bank .. => 1
  | _ => 0
/-- Source ports that an instruction takes. -/
def argPorts (o : Args) : Nat := srcPorts o.a + srcPorts o.b + srcPorts o.c

/-- What R155 asks of an instruction: its class, the registers that it reads and writes, its source ports. -/
structure PairSide where
  cls : Nat
  reads : List PendReg := []
  writes : List PendReg := []
  ports : Nat := 0
  deriving DecidableEq, Repr

/-- The side of an instruction, with its modern form where it is retired; one that fails its decoding touches no register (log
entry 13). -/
def State.pairSide (s : State) (g w n op : Nat) (i : Option Instr) : PairSide :=
  match i.map (s.modernOf g w n) with
  | none => { cls := op / 128 }
  | some j => { cls := op / 128, reads := readsOf (s.warp g w) j, writes := writesOf (s.warp g w) j, ports := argPorts j.args }

/-- Conditions 2 to 7 of R155 for two slots, of which the first is ready. -/
def Warp.pairs (w : Warp) (i j : PairSide) : Bool :=
  let vs := vSources i.reads ++ vSources j.reads
  let ready := !(w.score.any fun p => j.reads.contains p.1 || j.writes.contains p.1)
  w.role == .epi && 2 ≤ i.cls && i.cls ≤ 5 && 2 ≤ j.cls && j.cls ≤ 5 && i.cls != j.cls && ready
    && !(i.writes.any fun r => j.reads.contains r || j.writes.contains r) && !(j.writes.any i.reads.contains)
    && (List.range 4).all (fun b => (vs.filter fun r => r % 4 == b).length ≤ 2) && i.ports + j.ports ≤ 5

/-- What the pair bit of an instruction that is about to issue brings. -/
inductive PairKind where
  /-- No pair is marked, or the second is to stop at a breakpoint, or the first is a step (R423, R424). -/
  | single
  /-- The next slot issues in the same clock. -/
  | pair
  /-- A condition of R155 fails. -/
  | broken
  deriving DecidableEq, Repr

/-- The kind of the pair that begins with the issuing split's instruction `i`. -/
def State.pairKind (s : State) (i : Instr) : PairKind :=
  let (g, w, n) := (s.cur.wg, s.cur.warp, s.cur.split)
  let x := s.curSplit
  let k := PC.slot x.pc
  match x.loaded with
  | none => .single
  | some l =>
    if !Line.pair l k || Line.lit l (k + 1) then .single
    else
      let t := s.updCur fun y => { y with pc := PC.make (PC.line x.pc) (k + 1), pass := false }
      if x.holdNext.isSome || (t.breakpointsAt g w n).any (fun b => s.curCore.dbg.bpAct b != 3) then .single
      else if s.curWarp.pairs (s.pairSide g w n i.op (some i))
          (t.pairSide g w n (Raw.ofSlot (Line.slot l (k + 1))).op (t.nextInstr g w n)) then .pair
      else .broken

/-! ## After an instruction -/

/-- What issue leaves beside the instruction's effect: `s` is the state in which instruction `i` issued, `t` the state after its
effect. A split that issues again after a wait makes no new issue (R412). -/
def State.issued (s : State) (i : Instr) (t : State) : State :=
  let (g, w, n) := (s.cur.wg, s.cur.warp, s.cur.split)
  let x := s.curSplit
  let core := s.curWg.core
  let port := s.curWarp.port
  let y := t.split g w n
  let useful := s.activeOf i != 0
  let second := (s.portSlot core port).pair && (s.portSlot core port).who == some (g, w, n)
  let kind := if second then .single else s.pairKind i
  let goesOn := y.live && y.st == .run && kind == .pair && y.pc == PC.make (PC.line x.pc) (PC.slot x.pc + 1)
  let t1 :=
    if x.replay then t
    else if second then t.chargeSecond core port useful
    else
      let leaf := if kind == .broken then 2 else if useful then 0 else 1
      ((t.sample core port).passOver core port (some (g, w, n))).chargeSlot core port leaf
        (s.newSlot core port leaf (some (g, w, n)) s.cur.prio goesOn)
  if !y.live then { t1 with lag := 0 }
  else
    let results := if y.st == .run || y.st == .joinWait then (writesOf s.curWarp i).map fun r => (r, memoryResult i) else []
    let t2 := (State.updSplit { t1 with lag := 0 } g w n fun z =>
      { z with age := 0, waited := 0, hint := i.args.cs && i.op / 128 != 7, pass := false, since := if z.st == .run then s.tick else z.since }).updWarp g w fun v =>
        { v with score := v.score ++ results.filter fun r => !v.score.contains r }
    if y.st == .wait && x.holdNext == some 16 then t2.holdSplit g w n 16 else t2

/-- RESULT_DELIVERY (R154): a pending result arrives, and the scoreboard holds its register no longer; a split that nothing else holds
becomes ready (R371). -/
def execResultDelivery (wg warp : Nat) (reg : PendReg) (s : State) : Out :=
  if !(s.wg wg).live then .next s
  else
    let t := s.updWarp wg warp fun w => { w with score := w.score.filter (·.1 != reg) }
    .next (splitIxs.foldl (fun u n =>
      let x := s.split wg warp n
      if x.live && x.st == .run && !(s.nextConflicts wg warp n).isEmpty && (t.nextConflicts wg warp n).isEmpty then
        u.updSplit wg warp n fun y => { y with since := s.tick }
      else u) t)

/-- ILLEGAL_OPCODE (R160): an opcode that is not defined for the kernel traps. -/
def execIllegalOpcode (_words : Slot) (s : State) : Out := .next (s.trapAt 0x01 0 0)

end Sys2Proof.Machine
end

