-- ==== Sys2Proof/Machine/Place.lean ====
section
/-! DEFINITION. Placing one instruction where the next step fetches it: what a loader would do from outside (log entry 8). -/
namespace Sys2Proof.Machine

/-- The kernel of a placed instruction (R312): level 3, lanes of 32, 256 epilogue registers, 96 barriers, a user area of 64 KiB, 8
windows, no trap entries. -/
def placedKernel : BitVec 1024 :=
  BitVec.ofNat 1024 (3 * 2 ^ 28 + 1 * 2 ^ 14 + 0x10000 * 2 ^ 32 + 8 * 2 ^ 64 + 32 * 2 ^ 72 + 96 * 2 ^ 96 + (2 ^ 96 - 1) * 2 ^ 224)

/-- Where the placed line, its root table and its two other tables lie (R53). -/
def placedLine : Nat := 0x40000
def placedRoot : Nat := 0x10000

/-- A line that holds an instruction at slot 0 and its carrier at slot 1, with its parity (R138, R140). -/
def placedCode (w : Nat) : Line :=
  Line.withParity (BitVec.ofNat 512 (2 ^ 19 + 2 ^ 27 + w % 2 ^ 192 * 2 ^ 32))

/-- A warp that issues it (`DecodeCtx.forOp`). -/
def placedWarp (op : Nat) : Warp :=
  let cx := DecodeCtx.forOp op
  let maths := cx.role == .maths
  { live := true, role := cx.role, width := if maths then 0 else cx.width, regs := if cx.role == .copy then 32 else if maths then 0 else cx.regs,
    splits := [(0, { live := true, pc := PC.make placedLine 0, mask := if maths then 1 else firstLanes cx.width, handler := privileged op })] }

/-- Its workgroup. -/
def placedWorkgroup (op : Nat) : Workgroup :=
  { live := true, kdesc := placedKernel, warps := [(0, placedWarp op)], bytes := 0x10000,
    flumes := (List.range 16).map fun f => (f, { declared := true, prod := .epi, cons := .epi, max := 4, depth := 4 }),
    shapes := (List.range 8).map fun i => (i, { declared := true, max := 64 }) }

/-- An instruction's words at its address and the page tables that map it: root, level 3 and level 2, with one page of 1 GiB that maps
addresses to themselves, readable, writable, executable and marked accessed and dirty (R54, R56). -/
def State.placeWords (s : State) (w : Nat) : State :=
  let put (m : List Host.Cell) (a n x : Nat) : List Host.Cell :=
    ((toBytes n x).zipIdx).foldl (fun m p => sset memDefault m (a + p.2) p.1) m
  let m1 := put s.mem placedRoot 8 (placedRoot + 0x1001)
  let m2 := put m1 (placedRoot + 0x1000) 8 (placedRoot + 0x2001)
  let m3 := put m2 (placedRoot + 0x2000) 8 0x31F
  { s with mem := put m3 placedLine 64 (placedCode w).toNat }

/-- The state with an instruction placed where the next step fetches it: the words and their page tables in HBM, context 0 with that
root, one resident warp at the words, and the port that is to pick it. -/
def State.placeFetch (s : State) (w : Nat) : State :=
  let op := w % 2 ^ 96 / 2 ^ 86
  let t := s.placeWords w
  { t with l2 := [], enc := [], saved := [], ctxs := [(0, { created := true, ptroot := placedRoot })], wgs := [(0, placedWorkgroup op)],
           behind := [], lag := 0,
           agenda := [.pick 0 (placedWarp op).port], fleet := { t.fleet with stopped := false } }

end Sys2Proof.Machine
end

