-- ==== Sys2Proof/Machine/Scalar.lean ====
section
/-! DEFINITION. Class 001: uniform integer arithmetic (R201, R202). -/
namespace Sys2Proof.Machine

/-- A 32-bit uniform operation: where its kp guard holds, the destination k register takes the result; then sequential
flow (R144, R201). -/
def State.uop (s : State) (k : OpKind) (o : Args) (f : Word → Word → Word → Word) : State :=
  if s.acts 0x080 o.g then
    (s.updCurWarp fun w => w.setK o.d (f (s.opnd k o.a 0) (s.opnd k o.b 0) (s.opnd k o.c 0))).advance
  else s.advance

/-- A 64-bit uniform operation on k pairs. -/
def State.uop64 (s : State) (k : OpKind) (o : Args) (f : DWord → DWord → DWord → DWord) : State :=
  if s.acts 0x080 o.g then
    (s.updCurWarp fun w => w.setK64 o.d (f (s.opnd64 k o.a 0) (s.opnd64 k o.b 0) (s.opnd64 k o.c 0))).advance
  else s.advance

/-- A 64-bit operation whose B is a 32-bit word: a shift count or a position (R201). -/
def State.uop64s (s : State) (k : OpKind) (o : Args) (f : DWord → Word → DWord → DWord) : State :=
  if s.acts 0x080 o.g then
    (s.updCurWarp fun w => w.setK64 o.d (f (s.opnd64 k o.a 0) (s.opnd k o.b 0) (s.opnd64 k o.c 0))).advance
  else s.advance

/-- A uniform operation that writes a kp register. -/
def State.uopPred (s : State) (o : Args) (b : Bool) : State :=
  if s.acts 0x080 o.g then (s.updCurWarp fun w => w.setUpred o.d b).advance else s.advance

/-- KADD (R202). -/
def execKadd (o : Args) (s : State) : Out := .next (s.uop .int o fun a b _ => a + b)
/-- KADD.64. -/
def execKadd64 (o : Args) (s : State) : Out := .next (s.uop64 .int o fun a b _ => a + b)
/-- KSUB. -/
def execKsub (o : Args) (s : State) : Out := .next (s.uop .int o fun a b _ => a - b)
/-- KSUB.64. -/
def execKsub64 (o : Args) (s : State) : Out := .next (s.uop64 .int o fun a b _ => a - b)
/-- KMUL. -/
def execKmul (o : Args) (s : State) : Out := .next (s.uop .int o fun a b _ => a * b)
/-- KMUL.64. -/
def execKmul64 (o : Args) (s : State) : Out := .next (s.uop64 .int o fun a b _ => a * b)
/-- KMULH. -/
def execKmulh (o : Args) (u : Bool) (s : State) : Out := .next (s.uop .int o fun a b _ => mulHigh u a b)
/-- KMULH.64. -/
def execKmulh64 (o : Args) (u : Bool) (s : State) : Out := .next (s.uop64 .int o fun a b _ => mulHigh u a b)
/-- KMAD. -/
def execKmad (o : Args) (s : State) : Out := .next (s.uop .int o fun a b c => a * b + c)
/-- KMAD.64. -/
def execKmad64 (o : Args) (s : State) : Out := .next (s.uop64 .int o fun a b c => a * b + c)
/-- KSHL. -/
def execKshl (o : Args) (s : State) : Out := .next (s.uop .int o fun a b _ => shiftLeft a b)
/-- KSHL.64. -/
def execKshl64 (o : Args) (s : State) : Out := .next (s.uop64s .int o fun a b _ => shiftLeft a b)
/-- KSHR. -/
def execKshr (o : Args) (s : State) : Out := .next (s.uop .int o fun a b _ => shiftRight a b)
/-- KSHR.64. -/
def execKshr64 (o : Args) (s : State) : Out := .next (s.uop64s .int o fun a b _ => shiftRight a b)
/-- KSAR. -/
def execKsar (o : Args) (s : State) : Out := .next (s.uop .int o fun a b _ => shiftArith a b)
/-- KSAR.64. -/
def execKsar64 (o : Args) (s : State) : Out := .next (s.uop64s .int o fun a b _ => shiftArith a b)
/-- KAND. -/
def execKand (o : Args) (s : State) : Out := .next (s.uop .logic o fun a b _ => a &&& b)
/-- KAND.64. -/
def execKand64 (o : Args) (s : State) : Out := .next (s.uop64 .logic o fun a b _ => a &&& b)
/-- KOR. -/
def execKor (o : Args) (s : State) : Out := .next (s.uop .logic o fun a b _ => a ||| b)
/-- KOR.64. -/
def execKor64 (o : Args) (s : State) : Out := .next (s.uop64 .logic o fun a b _ => a ||| b)
/-- KXOR. -/
def execKxor (o : Args) (s : State) : Out := .next (s.uop .logic o fun a b _ => a ^^^ b)
/-- KXOR.64. -/
def execKxor64 (o : Args) (s : State) : Out := .next (s.uop64 .logic o fun a b _ => a ^^^ b)
/-- KMIN. -/
def execKmin (o : Args) (u : Bool) (s : State) : Out := .next (s.uop .int o fun a b _ => lesser u a b)
/-- KMIN.64. -/
def execKmin64 (o : Args) (u : Bool) (s : State) : Out := .next (s.uop64 .int o fun a b _ => lesser u a b)
/-- KMAX. -/
def execKmax (o : Args) (u : Bool) (s : State) : Out := .next (s.uop .int o fun a b _ => greater u a b)
/-- KMAX.64. -/
def execKmax64 (o : Args) (u : Bool) (s : State) : Out := .next (s.uop64 .int o fun a b _ => greater u a b)
/-- KSEL: A where the kp register of C is true, else B. -/
def execKsel (o : Args) (s : State) : Out :=
  .next (s.uop .int o fun a b _ => if s.predObj o.c != 0 then a else b)
/-- KSEL.64. -/
def execKsel64 (o : Args) (s : State) : Out :=
  .next (s.uop64 .int o fun a b _ => if s.predObj o.c != 0 then a else b)
/-- KMOV. -/
def execKmov (o : Args) (s : State) : Out := .next (s.uop .int o fun a _ _ => a)
/-- KMOV.64. -/
def execKmov64 (o : Args) (s : State) : Out := .next (s.uop64 .int o fun a _ _ => a)
/-- KCMP. -/
def execKcmp (o : Args) (u : Bool) (cond : Cond) (s : State) : Out :=
  .next (s.uopPred o (condHolds cond u (s.opnd .int o.a 0) (s.opnd .int o.b 0)))
/-- KCMP.64. -/
def execKcmp64 (o : Args) (u : Bool) (cond : Cond) (s : State) : Out :=
  .next (s.uopPred o (condHolds cond u (s.opnd64 .int o.a 0) (s.opnd64 .int o.b 0)))
/-- KCLZ. -/
def execKclz (o : Args) (s : State) : Out :=
  .next (s.uop .logic o fun a _ _ => BitVec.ofNat 32 (countLeadingZeros a))
/-- KCLZ.64, into a single k register. -/
def execKclz64 (o : Args) (s : State) : Out :=
  .next (s.uop .logic { o with a := .none } fun _ _ _ => BitVec.ofNat 32 (countLeadingZeros (s.opnd64 .logic o.a 0)))
/-- KPOPC. -/
def execKpopc (o : Args) (s : State) : Out := .next (s.uop .logic o fun a _ _ => BitVec.ofNat 32 (popCount a))
/-- KPOPC.64, into a single k register. -/
def execKpopc64 (o : Args) (s : State) : Out :=
  .next (s.uop .logic { o with a := .none } fun _ _ _ => BitVec.ofNat 32 (popCount (s.opnd64 .logic o.a 0)))
/-- KBFE. -/
def execKbfe (o : Args) (sgn : Bool) (s : State) : Out := .next (s.uop .logic o fun a b _ => bitFieldExtract sgn a b)
/-- KBFE.64. -/
def execKbfe64 (o : Args) (sgn : Bool) (s : State) : Out := .next (s.uop64s .logic o fun a b _ => bitFieldExtract sgn a b)
/-- KBFI. -/
def execKbfi (o : Args) (s : State) : Out := .next (s.uop .logic o fun a b c => bitFieldInsert a b c)
/-- KBFI.64. -/
def execKbfi64 (o : Args) (s : State) : Out := .next (s.uop64s .logic o fun a b c => bitFieldInsert a b c)

end Sys2Proof.Machine
end

