-- ==== Sys2Proof/Machine/Shape.lean ====
section
/-! DEFINITION. Shape registers: SHLD, SHSYNC and SHINFO (R122 to R130, R266). -/
namespace Sys2Proof.Machine

/-- The number held in `n` little-endian bytes from byte `i` on. -/
def leAt (bs : List Byte) (i n : Nat) : Nat := ofBytes ((bs.drop i).take n)

/-- The image that a record makes (R122, R123). -/
def shapeOf (header : List Byte) (bounds : List Nat) : ShapeImage :=
  let pol := leAt header 0 2
  { fill := BitVec.ofNat 32 (leAt header 12 4), gen := BitVec.ofNat 32 (leAt header 8 4), rows := leAt header 4 4,
    nseq := leAt header 2 2, maskv := pol / 2 ^ 14 % 4, cross := pol / 2 ^ 12 % 4, bounds := bounds }

/-- Do the boundaries rise? -/
def risingBounds : List Nat → Bool
  | a :: b :: r => a ≤ b && risingBounds (b :: r)
  | _ => true

/-- Is a record well formed (R123)? -/
def shapeOk (header : List Byte) (bounds : List Nat) : Bool :=
  let pol := leAt header 0 2
  pol % 256 == 0x5C && pol / 256 % 16 == 1 && leAt header 16 48 == 0 && pol / 2 ^ 14 % 4 != 3 && pol / 2 ^ 12 % 4 != 3
    && bounds.headD 1 == 0 && risingBounds bounds && bounds.getLastD 0 == leAt header 4 4

/-- What the reads of a record give: its header and bounds, or what stops them. -/
inductive ShapeRead where
  | ok (header : List Byte) (bounds : List Nat)
  | stop (at_ : Nat) (x : Located)
  | poison (pa : Nat)
  deriving DecidableEq, Repr

/-- The issuing split reads bytes of a record (R126), or meets a fault, a walk or poison. -/
def State.recordBytes (s : State) (space addr n : Nat) : State × (List Byte ⊕ ShapeRead) :=
  match s.locate s.cur.wg s.cur.warp 0 space 0 addr n .read with
  | .ok p =>
    match s.placePoison p n with
    | some pa => (s, .inr (.poison pa))
    | none => let (s1, bs) := s.readOne s.curWg.core n p; (s1, .inl bs)
  | x => (s, .inr (.stop addr x))

/-- The words of the boundary table. -/
def State.recordWords (s : State) (space addr : Nat) : Nat → State × (List Nat ⊕ ShapeRead)
  | 0 => (s, .inl [])
  | n + 1 =>
    match s.recordBytes space addr 4 with
    | (s1, .inl bs) =>
      match State.recordWords s1 space (addr + 4) n with
      | (s2, .inl r) => (s2, .inl (ofBytes bs :: r))
      | (s2, .inr e) => (s2, .inr e)
    | (s1, .inr e) => (s1, .inr e)

/-- The header and the table of a record (R126, step 1). -/
def State.readShape (s : State) (space addr : Nat) : State × ShapeRead :=
  match s.recordBytes space addr 64 with
  | (s1, .inr e) => (s1, e)
  | (s1, .inl h) =>
    match s1.recordWords space (addr + 64) (leAt h 2 2 + 1) with
    | (s2, .inl b) => (s2, .ok h b)
    | (s2, .inr e) => (s2, e)

/-- A shape register is bound to the record at an address (R126), by instruction `i`; `lane` is the lowest of LIVE. The image that R125
puts into the context's shape area is held with the register: where in the area it lies, and what a read of the area's bytes
gives, is the model's choice (DESIGN CHOICE, log entry 77). -/
def State.bindShape (s : State) (i : Instr) (n space addr lane : Nat) : State :=
  let reg := s.curWg.shape n
  match s.readShape space addr with
  | (s1, .poison pa) => s1.consumePoison s.cur.wg pa
  | (s1, .stop a x) =>
    match x with
    | .fault f => s1.accessTrap f lane
    | _ => s1.walkWait i a .read lane
  | (s1, .ok h b) =>
    if !shapeOk h b || leAt h 2 2 > reg.max then s1.trapAt 0x31 addr n
    else
      let bound := { reg with bound := true, addr := BitVec.ofNat 64 addr, space := space, image := shapeOf h b }
      (s1.updCurWg fun g => { g with shapes := sset (fun _ => {}) g.shapes n bound }).advance

/-- SHLD (R126, R266). -/
def execShld (o : Args) (space : SeqSpace) (s : State) : Out :=
  if !s.acts 0x310 o.g then .next s.advance
  else .next (s.bindShape (.shld o space) o.d space.toBits (s.laneAddr o space.toBits true 0)
      (s.liveLane 0x310 o.g))

/-- SHSYNC (R126, R266). -/
def execShsync (o : Args) (s : State) : Out :=
  let reg := s.curWg.shape o.d
  if !s.acts 0x311 o.g then .next s.advance
  else if !reg.bound then .next (s.trapAt 0x32 0 o.d)
  else .next (s.bindShape (.shsync o) o.d reg.space reg.addr.toNat (s.liveLane 0x311 o.g))

/-- An item of SHINFO (R266), where there is one. -/
def ShapeReg.item (r : ShapeReg) (n : Nat) : Option Word :=
  match n with
  | 0 => some (BitVec.ofNat 32 r.image.nseq)
  | 1 => some (BitVec.ofNat 32 r.image.rows)
  | 2 => some r.image.gen
  | 3 => some r.image.fill
  | 4 => some (r.addr.extractLsb' 0 32)
  | 5 => some (r.addr.extractLsb' 32 32)
  | _ => none

/-- SHINFO (R266). -/
def execShinfo (o : Args) (bnd : ShKind) (s : State) : Out :=
  let n := objNum o.a 0x10
  let reg := s.curWg.shape n
  let x := (s.uni o.b).toNat
  if !s.acts 0x312 o.g then .next s.advance
  else if !reg.bound then .next (s.trapAt 0x32 0 n)
  else
    match bnd with
    | .bound =>
      let v : Word := if x > reg.image.nseq then 0xFFFFFFFF else BitVec.ofNat 32 (reg.image.bound x)
      .next (s.updCurWarp fun w => w.setK o.d v).advance
    | .item =>
      match reg.item x with
      | some v => .next (s.updCurWarp fun w => w.setK o.d v).advance
      | none => .next (s.illegalOperand 2)

end Sys2Proof.Machine
end

