-- ==== Sys2Proof/Machine/Dispatch.lean ====
section
/-! DEFINITION. What each instruction and each event does: one arm per constructor of `Instr`. -/
namespace Sys2Proof.Machine

/-- The effect of an instruction on the issuing split, or of an event. -/
def exec (i : Instr) (s : State) : Host.Outcome State Fault Refusal :=
  match i with
  | .nop o => Sys2Proof.Machine.execNop o s
  | .bra o => Sys2Proof.Machine.execBra o s
  | .brx o => Sys2Proof.Machine.execBrx o s
  | .call o klink => Sys2Proof.Machine.execCall o klink s
  | .callx o klink => Sys2Proof.Machine.execCallx o klink s
  | .ret o => Sys2Proof.Machine.execRet o s
  | .exit o => Sys2Proof.Machine.execExit o s
  | .join o => Sys2Proof.Machine.execJoin o s
  | .loop o => Sys2Proof.Machine.execLoop o s
  | .brk o => Sys2Proof.Machine.execBrk o s
  | .yield o kind => Sys2Proof.Machine.execYield o kind s
  | .wait o kind => Sys2Proof.Machine.execWait o kind s
  | .elect o => Sys2Proof.Machine.execElect o s
  | .poll o mode => Sys2Proof.Machine.execPoll o mode s
  | .trap o => Sys2Proof.Machine.execTrap o s
  | .trapfence o => Sys2Proof.Machine.execTrapfence o s
  | .barInit o scope => Sys2Proof.Machine.execBarInit o scope s
  | .barArrive o => Sys2Proof.Machine.execBarArrive o s
  | .barWait o => Sys2Proof.Machine.execBarWait o s
  | .barSync o => Sys2Proof.Machine.execBarSync o s
  | .barMask o => Sys2Proof.Machine.execBarMask o s
  | .qinit o => Sys2Proof.Machine.execQinit o s
  | .qpush o => Sys2Proof.Machine.execQpush o s
  | .qpop o => Sys2Proof.Machine.execQpop o s
  | .qtry o kpd => Sys2Proof.Machine.execQtry o kpd s
  | .phaseRel o scope => Sys2Proof.Machine.execPhaseRel o scope s
  | .phaseAcq o scope => Sys2Proof.Machine.execPhaseAcq o scope s
  | .fence o scope => Sys2Proof.Machine.execFence o scope s
  | .tlsig o scope => Sys2Proof.Machine.execTlsig o scope s
  | .tlwait o scope => Sys2Proof.Machine.execTlwait o scope s
  | .s2k o sr vdst => Sys2Proof.Machine.execS2k o sr vdst s
  | .k2s o sr => Sys2Proof.Machine.execK2s o sr s
  | .setmode o wrnd rnd wftz ftz wnanp nanp => Sys2Proof.Machine.execSetmode o wrnd rnd wftz ftz wnanp nanp s
  | .wstat o => Sys2Proof.Machine.execWstat o s
  | .wregR o => Sys2Proof.Machine.execWregR o s
  | .wregW o => Sys2Proof.Machine.execWregW o s
  | .wresume o => Sys2Proof.Machine.execWresume o s
  | .wkill o => Sys2Proof.Machine.execWkill o s
  | .eret o => Sys2Proof.Machine.execEret o s
  | .tlbinvPage o => Sys2Proof.Machine.execTlbinvPage o s
  | .tlbinvAll o => Sys2Proof.Machine.execTlbinvAll o s
  | .emuargs o => Sys2Proof.Machine.execEmuargs o s
  | .emuargsW o => Sys2Proof.Machine.execEmuargsW o s
  | .kadd o => Sys2Proof.Machine.execKadd o s
  | .kadd64 o => Sys2Proof.Machine.execKadd64 o s
  | .ksub o => Sys2Proof.Machine.execKsub o s
  | .ksub64 o => Sys2Proof.Machine.execKsub64 o s
  | .kmul o => Sys2Proof.Machine.execKmul o s
  | .kmul64 o => Sys2Proof.Machine.execKmul64 o s
  | .kmulh o u => Sys2Proof.Machine.execKmulh o u s
  | .kmulh64 o u => Sys2Proof.Machine.execKmulh64 o u s
  | .kmad o => Sys2Proof.Machine.execKmad o s
  | .kmad64 o => Sys2Proof.Machine.execKmad64 o s
  | .kshl o => Sys2Proof.Machine.execKshl o s
  | .kshl64 o => Sys2Proof.Machine.execKshl64 o s
  | .kshr o => Sys2Proof.Machine.execKshr o s
  | .kshr64 o => Sys2Proof.Machine.execKshr64 o s
  | .ksar o => Sys2Proof.Machine.execKsar o s
  | .ksar64 o => Sys2Proof.Machine.execKsar64 o s
  | .kand o => Sys2Proof.Machine.execKand o s
  | .kand64 o => Sys2Proof.Machine.execKand64 o s
  | .kor o => Sys2Proof.Machine.execKor o s
  | .kor64 o => Sys2Proof.Machine.execKor64 o s
  | .kxor o => Sys2Proof.Machine.execKxor o s
  | .kxor64 o => Sys2Proof.Machine.execKxor64 o s
  | .kmin o u => Sys2Proof.Machine.execKmin o u s
  | .kmin64 o u => Sys2Proof.Machine.execKmin64 o u s
  | .kmax o u => Sys2Proof.Machine.execKmax o u s
  | .kmax64 o u => Sys2Proof.Machine.execKmax64 o u s
  | .ksel o => Sys2Proof.Machine.execKsel o s
  | .ksel64 o => Sys2Proof.Machine.execKsel64 o s
  | .kmov o => Sys2Proof.Machine.execKmov o s
  | .kmov64 o => Sys2Proof.Machine.execKmov64 o s
  | .kcmp o u cond => Sys2Proof.Machine.execKcmp o u cond s
  | .kcmp64 o u cond => Sys2Proof.Machine.execKcmp64 o u cond s
  | .kclz o => Sys2Proof.Machine.execKclz o s
  | .kclz64 o => Sys2Proof.Machine.execKclz64 o s
  | .kpopc o => Sys2Proof.Machine.execKpopc o s
  | .kpopc64 o => Sys2Proof.Machine.execKpopc64 o s
  | .kbfe o sgn => Sys2Proof.Machine.execKbfe o sgn s
  | .kbfe64 o sgn => Sys2Proof.Machine.execKbfe64 o sgn s
  | .kbfi o => Sys2Proof.Machine.execKbfi o s
  | .kbfi64 o => Sys2Proof.Machine.execKbfi64 o s
  | .kldGlobal o w64 => Sys2Proof.Machine.execKldGlobal o w64 s
  | .kldBank o w64 => Sys2Proof.Machine.execKldBank o w64 s
  | .iadd o u sat => Sys2Proof.Machine.execIadd o u sat s
  | .isub o u sat => Sys2Proof.Machine.execIsub o u sat s
  | .imul o u sat => Sys2Proof.Machine.execImul o u sat s
  | .imulh o u => Sys2Proof.Machine.execImulh o u s
  | .imad o u sat => Sys2Proof.Machine.execImad o u sat s
  | .imadw o u sat => Sys2Proof.Machine.execImadw o u sat s
  | .ishl o => Sys2Proof.Machine.execIshl o s
  | .ishr o => Sys2Proof.Machine.execIshr o s
  | .isar o => Sys2Proof.Machine.execIsar o s
  | .land o => Sys2Proof.Machine.execLand o s
  | .lor o => Sys2Proof.Machine.execLor o s
  | .lxor o => Sys2Proof.Machine.execLxor o s
  | .lnot o => Sys2Proof.Machine.execLnot o s
  | .imin o u => Sys2Proof.Machine.execImin o u s
  | .imax o u => Sys2Proof.Machine.execImax o u s
  | .iabs o sat => Sys2Proof.Machine.execIabs o sat s
  | .isel o => Sys2Proof.Machine.execIsel o s
  | .icmp o u cond => Sys2Proof.Machine.execIcmp o u cond s
  | .ibfe o sgn => Sys2Proof.Machine.execIbfe o sgn s
  | .ibfi o => Sys2Proof.Machine.execIbfi o s
  | .ipopc o => Sys2Proof.Machine.execIpopc o s
  | .iclz o => Sys2Proof.Machine.execIclz o s
  | .ibrev o => Sys2Proof.Machine.execIbrev o s
  | .bpick o => Sys2Proof.Machine.execBpick o s
  | .idp4 o ua ub sat => Sys2Proof.Machine.execIdp4 o ua ub sat s
  | .idp2 o hi ua ub sat => Sys2Proof.Machine.execIdp2 o hi ua ub sat s
  | .imov o => Sys2Proof.Machine.execImov o s
  | .fadd o r => Sys2Proof.Machine.execFadd o r s
  | .fsub o r => Sys2Proof.Machine.execFsub o r s
  | .fmul o r => Sys2Proof.Machine.execFmul o r s
  | .ffma o r => Sys2Proof.Machine.execFfma o r s
  | .fmin o nanp ftz => Sys2Proof.Machine.execFmin o nanp ftz s
  | .fmax o nanp ftz => Sys2Proof.Machine.execFmax o nanp ftz s
  | .fcmp o cond ftz => Sys2Proof.Machine.execFcmp o cond ftz s
  | .fclass o => Sys2Proof.Machine.execFclass o s
  | .frnd o nanp ftz rnd => Sys2Proof.Machine.execFrnd o nanp ftz rnd s
  | .hadd2 o bf r => Sys2Proof.Machine.execHadd2 o bf r s
  | .hfma2 o bf r => Sys2Proof.Machine.execHfma2 o bf r s
  | .fdot2 o bf r => Sys2Proof.Machine.execFdot2 o bf r s
  | .cvt o r sel => Sys2Proof.Machine.execCvt o r sel s
  | .bfpack o m sat ftz rnd => Sys2Proof.Machine.execBfpack o m sat ftz rnd s
  | .bfunpack o m sat rnd => Sys2Proof.Machine.execBfunpack o m sat rnd s
  | .rcp o r => Sys2Proof.Machine.execRcp o r s
  | .rsq o r => Sys2Proof.Machine.execRsq o r s
  | .sqrt o r => Sys2Proof.Machine.execSqrt o r s
  | .ex2 o r => Sys2Proof.Machine.execEx2 o r s
  | .lg2 o r => Sys2Proof.Machine.execLg2 o r s
  | .sin o r => Sys2Proof.Machine.execSin o r s
  | .cos o r => Sys2Proof.Machine.execCos o r s
  | .tanh o r => Sys2Proof.Machine.execTanh o r s
  | .xlane o pd seg mode => Sys2Proof.Machine.execXlane o pd seg mode s
  | .qswap o pd mode => Sys2Proof.Machine.execQswap o pd mode s
  | .scan o red => Sys2Proof.Machine.execScan o red s
  | .wred o red => Sys2Proof.Machine.execWred o red s
  | .segscan o red => Sys2Proof.Machine.execSegscan o red s
  | .segred o red => Sys2Proof.Machine.execSegred o red s
  | .lpeerLead o w64 => Sys2Proof.Machine.execLpeerLead o w64 s
  | .lpeerRank o w64 => Sys2Proof.Machine.execLpeerRank o w64 s
  | .nstat o nanp ftz rnd => Sys2Proof.Machine.execNstat o nanp ftz rnd s
  | .napply o sh r => Sys2Proof.Machine.execNapply o sh r s
  | .smaxstep o sh nanp ftz rnd => Sys2Proof.Machine.execSmaxstep o sh nanp ftz rnd s
  | .ld o size space => Sys2Proof.Machine.execLd o size space s
  | .ldCluster o size => Sys2Proof.Machine.execLdCluster o size s
  | .st o size space => Sys2Proof.Machine.execSt o size space s
  | .stCluster o size => Sys2Proof.Machine.execStCluster o size s
  | .ldc o size => Sys2Proof.Machine.execLdc o size s
  | .lda o view fol => Sys2Proof.Machine.execLda o view fol s
  | .sta o view fol => Sys2Proof.Machine.execSta o view fol s
  | .atom o scope space sel => Sys2Proof.Machine.execAtom o scope space sel s
  | .atomRed o scope space sel => Sys2Proof.Machine.execAtomRed o scope space sel s
  | .ldseq o size nocross space => Sys2Proof.Machine.execLdseq o size nocross space s
  | .prefetch o lvl space => Sys2Proof.Machine.execPrefetch o lvl space s
  | .cctlEvict o space => Sys2Proof.Machine.execCctlEvict o space s
  | .cctlEvictall o => Sys2Proof.Machine.execCctlEvictall o s
  | .tcopy o m => Sys2Proof.Machine.execTcopy o m s
  | .tstore o m => Sys2Proof.Machine.execTstore o m s
  | .tgather o gm sh n => Sys2Proof.Machine.execTgather o gm sh n s
  | .tscatter o gm sh n => Sys2Proof.Machine.execTscatter o gm sh n s
  | .txform o n => Sys2Proof.Machine.execTxform o n s
  | .tfill o n => Sys2Proof.Machine.execTfill o n s
  | .tfillTb o => Sys2Proof.Machine.execTfillTb o s
  | .tfillTbinv o => Sys2Proof.Machine.execTfillTbinv o s
  | .tcoll o op root n => Sys2Proof.Machine.execTcoll o op root n s
  | .tcancel o => Sys2Proof.Machine.execTcancel o s
  | .shld o space => Sys2Proof.Machine.execShld o space s
  | .shsync o => Sys2Proof.Machine.execShsync o s
  | .shinfo o bnd => Sys2Proof.Machine.execShinfo o bnd s
  | .mld o q map => Sys2Proof.Machine.execMld o q map s
  | .mma o m => Sys2Proof.Machine.execMma o m s
  | .mmai o m => Sys2Proof.Machine.execMmai o m s
  | .mmab o m => Sys2Proof.Machine.execMmab o m s
  | .mdrain o stall => Sys2Proof.Machine.execMdrain o stall s
  | .mzero o p => Sys2Proof.Machine.execMzero o p s
  | .mpromoI2P o p => Sys2Proof.Machine.execMpromoI2P o p s
  | .mpromoP2I o p => Sys2Proof.Machine.execMpromoP2I o p s
  | .mcfg o => Sys2Proof.Machine.execMcfg o s
  | .mstat o => Sys2Proof.Machine.execMstat o s
  | .mrel o tb => Sys2Proof.Machine.execMrel o tb s
  | .syncw raw => Sys2Proof.Machine.execSyncw raw s
  | .imad24 raw => Sys2Proof.Machine.execImad24 raw s
  | .fmad16 raw => Sys2Proof.Machine.execFmad16 raw s
  | .loge raw => Sys2Proof.Machine.execLoge raw s
  | .ldv raw => Sys2Proof.Machine.execLdv raw s
  | .mma4 raw => Sys2Proof.Machine.execMma4 raw s
  | .illegalOpcode words => Sys2Proof.Machine.execIllegalOpcode words s
  | .issueSlot core port => Sys2Proof.Machine.execIssueSlot core port s
  | .engineGlobalWrite engine => Sys2Proof.Machine.execEngineGlobalWrite engine s
  | .clusterBarrierConversion cluster bar => Sys2Proof.Machine.execClusterBarrierConversion cluster bar s
  | .joinRelease wg warp => Sys2Proof.Machine.execJoinRelease wg warp s
  | .agingStep wg warp split => Sys2Proof.Machine.execAgingStep wg warp split s
  | .lineFetchComplete wg warp split => Sys2Proof.Machine.execLineFetchComplete wg warp split s
  | .resultDelivery wg warp reg => Sys2Proof.Machine.execResultDelivery wg warp reg s
  | .waitWake wg warp split => Sys2Proof.Machine.execWaitWake wg warp split s
  | .flumeWaiterServed wg flume => Sys2Proof.Machine.execFlumeWaiterServed wg flume s
  | .tlwaitWake wg warp split => Sys2Proof.Machine.execTlwaitWake wg warp split s
  | .copyQueueRoom core => Sys2Proof.Machine.execCopyQueueRoom core s
  | .releaseCompletion core ix => Sys2Proof.Machine.execReleaseCompletion core ix s
  | .l1Eviction core line => Sys2Proof.Machine.execL1Eviction core line s
  | .pageWalkComplete ix => Sys2Proof.Machine.execPageWalkComplete ix s
  | .tlbInvalidationComplete ix => Sys2Proof.Machine.execTlbInvalidationComplete ix s
  | .arrayGrant core => Sys2Proof.Machine.execArrayGrant core s
  | .arrayClock core => Sys2Proof.Machine.execArrayClock core s
  | .arrayRetire core => Sys2Proof.Machine.execArrayRetire core s
  | .commandArrival core ix => Sys2Proof.Machine.execCommandArrival core ix s
  | .sectorWrite core ix => Sys2Proof.Machine.execSectorWrite core ix s
  | .commandCompletion core ix => Sys2Proof.Machine.execCommandCompletion core ix s
  | .collectiveCompletion cluster => Sys2Proof.Machine.execCollectiveCompletion cluster s
  | .sourceFill core ix n => Sys2Proof.Machine.execSourceFill core ix n s
  | .routineInrel core ix n => Sys2Proof.Machine.execRoutineInrel core ix n s
  | .routineInwait core ix n => Sys2Proof.Machine.execRoutineInwait core ix n s
  | .routineOutcommit core ix n bytes => Sys2Proof.Machine.execRoutineOutcommit core ix n bytes s
  | .routineDone core ix status => Sys2Proof.Machine.execRoutineDone core ix status s
  | .routineFault core ix pc => Sys2Proof.Machine.execRoutineFault core ix pc s
  | .routineBudgetExpiry core ix pc => Sys2Proof.Machine.execRoutineBudgetExpiry core ix pc s
  | .handlerEntry wg => Sys2Proof.Machine.execHandlerEntry wg s
  | .trapRingRecordWrite ctx => Sys2Proof.Machine.execTrapRingRecordWrite ctx s
  | .breakpointMatch wg warp split => Sys2Proof.Machine.execBreakpointMatch wg warp split s
  | .clusterExitBarrier cluster => Sys2Proof.Machine.execClusterExitBarrier cluster s
  | .clusterAdmission cores => Sys2Proof.Machine.execClusterAdmission cores s
  | .preemption cluster => Sys2Proof.Machine.execPreemption cluster s
  | .readmissionLimitExpiry cluster => Sys2Proof.Machine.execReadmissionLimitExpiry cluster s
  | .contextSave cluster => Sys2Proof.Machine.execContextSave cluster s
  | .contextRestore image cores => Sys2Proof.Machine.execContextRestore image cores s
  | .pktNop q => Sys2Proof.Machine.execPktNop q s
  | .pktLaunch q => Sys2Proof.Machine.execPktLaunch q s
  | .pktFence q => Sys2Proof.Machine.execPktFence q s
  | .pktSignal q => Sys2Proof.Machine.execPktSignal q s
  | .pktFlush q => Sys2Proof.Machine.execPktFlush q s
  | .pktHostcopy q => Sys2Proof.Machine.execPktHostcopy q s
  | .pktPrio q => Sys2Proof.Machine.execPktPrio q s
  | .fenceCounterRead q entry => Sys2Proof.Machine.execFenceCounterRead q entry s
  | .fencePollTimer q entry => Sys2Proof.Machine.execFencePollTimer q entry s
  | .signalAtomic q => Sys2Proof.Machine.execSignalAtomic q s
  | .packetCompletion q n => Sys2Proof.Machine.execPacketCompletion q n s
  | .doorbell master q v page => Sys2Proof.Machine.execDoorbell master q v page s
  | .ctxCreate master ctx => Sys2Proof.Machine.execCtxCreate master ctx s
  | .registerWrite master off width v => Sys2Proof.Machine.execRegisterWrite master off width v s
  | .hostHbmAccess off n w => Sys2Proof.Machine.execHostHbmAccess off n w s
  | .qcfgWrite master q v => Sys2Proof.Machine.execQcfgWrite master q v s
  | .qstatStopClear master q v => Sys2Proof.Machine.execQstatStopClear master q v s
  | .ctxDestroy master ctx => Sys2Proof.Machine.execCtxDestroy master ctx s
  | .ctxSuspend master ctx => Sys2Proof.Machine.execCtxSuspend master ctx s
  | .ctxResume master ctx => Sys2Proof.Machine.execCtxResume master ctx s
  | .tlbcmdPage master ctx => Sys2Proof.Machine.execTlbcmdPage master ctx s
  | .tlbcmdAll master ctx => Sys2Proof.Machine.execTlbcmdAll master ctx s
  | .rconsWrite master ctx v => Sys2Proof.Machine.execRconsWrite master ctx v s
  | .wgcmdRelease master ctx => Sys2Proof.Machine.execWgcmdRelease master ctx s
  | .wgcmdKill master ctx => Sys2Proof.Machine.execWgcmdKill master ctx s
  | .wgcmdResumeCommand master ctx => Sys2Proof.Machine.execWgcmdResumeCommand master ctx s
  | .wgcmdCancelCommand master ctx => Sys2Proof.Machine.execWgcmdCancelCommand master ctx s
  | .rtcmdLoad master index => Sys2Proof.Machine.execRtcmdLoad master index s
  | .rtcmdUnload master index => Sys2Proof.Machine.execRtcmdUnload master index s
  | .compctlClr master die => Sys2Proof.Machine.execCompctlClr master die s
  | .ddctlEnable master die => Sys2Proof.Machine.execDdctlEnable master die s
  | .ddctlDisable master die => Sys2Proof.Machine.execDdctlDisable master die s
  | .ddctlClr master die => Sys2Proof.Machine.execDdctlClr master die s
  | .ddpoolWrite master die v => Sys2Proof.Machine.execDdpoolWrite master die v s
  | .l2Writeback line => Sys2Proof.Machine.execL2Writeback line s
  | .heldWritebackRetry line => Sys2Proof.Machine.execHeldWritebackRetry line s
  | .pcctlClr master core => Sys2Proof.Machine.execPcctlClr master core s
  | .pcctlFreeze master core => Sys2Proof.Machine.execPcctlFreeze master core s
  | .dbgcmdHold master core => Sys2Proof.Machine.execDbgcmdHold master core s
  | .dbgcmdResume master core => Sys2Proof.Machine.execDbgcmdResume master core s
  | .dbgcmdStep master core => Sys2Proof.Machine.execDbgcmdStep master core s
  | .dbgcmdRead master core => Sys2Proof.Machine.execDbgcmdRead master core s
  | .dbgcmdWrite master core => Sys2Proof.Machine.execDbgcmdWrite master core s
  | .trctlWrite master core v => Sys2Proof.Machine.execTrctlWrite master core v s
  | .traceSample core port => Sys2Proof.Machine.execTraceSample core port s
  | .hgcmdClaim master => Sys2Proof.Machine.execHgcmdClaim master s
  | .hgcmdRelease master => Sys2Proof.Machine.execHgcmdRelease master s
  | .hgcmdHandOver master target => Sys2Proof.Machine.execHgcmdHandOver master target s
  | .hgmboxWrite master ix v => Sys2Proof.Machine.execHgmboxWrite master ix v s
  | .ownerPathLoss master => Sys2Proof.Machine.execOwnerPathLoss master s
  | .deviceReset => Sys2Proof.Machine.execDeviceReset s
  | .rcvcmdVerifyWrite master => Sys2Proof.Machine.execRcvcmdVerifyWrite master s
  | .attcmdReport master => Sys2Proof.Machine.execAttcmdReport master s
  | .keycmdLoad master slot => Sys2Proof.Machine.execKeycmdLoad master slot s
  | .keycmdClear master slot => Sys2Proof.Machine.execKeycmdClear master slot s
  | .pmtcmdNewNonce master => Sys2Proof.Machine.execPmtcmdNewNonce master s
  | .pmtcmdApply master => Sys2Proof.Machine.execPmtcmdApply master s
  | .pmtcmdAdvance master => Sys2Proof.Machine.execPmtcmdAdvance master s
  | .pwrlimWrite master v => Sys2Proof.Machine.execPwrlimWrite master v s
  | .clockThrottle power temp mhz => Sys2Proof.Machine.execClockThrottle power temp mhz s
  | .thermalShutdown => Sys2Proof.Machine.execThermalShutdown s
  | .correctedError code => Sys2Proof.Machine.execCorrectedError code s
  | .uncorrectableDataError site => Sys2Proof.Machine.execUncorrectableDataError site s
  | .hostWindowAccess off n w => Sys2Proof.Machine.execHostWindowAccess off n w s
  | .peerAccess addr n act => Sys2Proof.Machine.execPeerAccess addr n act s

end Sys2Proof.Machine
end

