-- ==== Sys2Proof/Machine/Schedule.lean ====
section
/-! DEFINITION. What happens next: issue from a port, the events of the other agents, and the default schedule (log entries 2 and 3). -/
namespace Sys2Proof.Machine

/-! ## Issue (R153, R371) -/

/-- A port takes one issue: its first split in the picker's order issues its instruction, or traps, or stops at a breakpoint. Where no
split may be picked, the port's slot is charged as one in which nothing issues. -/
def State.issueFrom (s : State) (core port : Nat) : Out :=
  match s.pick core port with
  | none => exec (.issueSlot core port) s
  | some (g, w, n) =>
    match s.prepare g w n with
    | (s1, none) => .next s1
    | (s1, some i) =>
      match exec i s1 with
      | .next t => .next (s1.issued i t)
      | r => r

/-! ## Events -/

/-- Is this one of the events of the agents, and not an instruction of a warp? -/
def isAgentEvent (i : Instr) : Bool :=
  match i with
  | .illegalOpcode _ => false
  | _ => i.op == 0x3ff

/-- The events of a command that runs a routine: the fill, and the write of the control block that the routine is at (R397, R398). -/
def Routine.events (core ix : Nat) (r : Routine) : List Instr :=
  let rest := (r.mxOut.map List.length).getD 0 - r.committed
  let commit (n : Nat) : Instr := .routineOutcommit core ix n ((r.commitBytes n).getD [])
  let writes : List Instr :=
    if r.isMxcvt then
      [.routineInrel core ix r.avail, commit (min 4096 rest)] ++ r.mxStatus.toList.map (.routineDone core ix)
    else
      match r.acts with
      | .control off x :: _ =>
        if off = 0x30 then [.routineInrel core ix x.toNat]
        else if off = 0x34 then [.routineInwait core ix x.toNat]
        else if off = 0x3C then [commit x.toNat]
        else [.routineDone core ix x]
      | _ => [.routineFault core ix r.rvPc]
  .sourceFill core ix (min 4096 (min (r.srcLen - r.filled) (65536 - r.avail))) :: writes ++ [.routineBudgetExpiry core ix r.rvPc]

/-- The events of a core. -/
def Core.events (n : Nat) (c : Core) : List Instr :=
  (List.range c.releases.length).map (.releaseCompletion n)
    ++ [.arrayGrant n, .arrayClock n, .arrayRetire n, .copyQueueRoom n]
    ++ (c.cmds.zipIdx.flatMap fun p =>
      [.commandArrival n p.2, .sectorWrite n p.2, .engineGlobalWrite (.copy n p.2), .commandCompletion n p.2]
        ++ match p.1.routine with | some r => r.events n p.2 | none => [])

/-- The events of a warp. -/
def Warp.events (g n : Nat) (w : Warp) : List Instr :=
  .joinRelease g n :: w.score.map (fun p => .resultDelivery g n p.1)
    ++ splitIxs.flatMap fun i => [.waitWake g n i, .tlwaitWake g n i]

/-- The events of a workgroup. -/
def Workgroup.events (g : Nat) (x : Workgroup) : List Instr :=
  .handlerEntry g :: x.warps.flatMap (fun p => p.2.events g p.1) ++ x.flumes.map fun p => .flumeWaiterServed g p.1

/-- The events of a cluster. -/
def Cluster.events (n : Nat) (c : Cluster) : List Instr :=
  c.converting.map (fun p => .clusterBarrierConversion n p.1) ++ [.collectiveCompletion n, .clusterExitBarrier n, .preemption n, .contextSave n]

/-- The events of a queue. -/
def Queue.events (n : Nat) (q : Queue) : List Instr :=
  (List.range q.fence.length).flatMap (fun e => [.fenceCounterRead n e, .fencePollTimer n e])
    ++ .signalAtomic n :: q.packets.flatMap (fun p => [.engineGlobalWrite (.dma n p.number), .packetCompletion n p.number])
    ++ [.pktNop n, .pktLaunch n, .pktFence n, .pktSignal n, .pktFlush n, .pktHostcopy n, .pktPrio n]

/-- Cores for the members of a candidate: the first that have room, all of one die, those with free arrays first. -/
def State.coresFor (s : State) (c : Candidate) : Option (List Nat) :=
  let (_, kdesc, needs) := s.asks c
  [0, 1].findSome? fun die =>
    let cores := ((List.range Config.coresPerDie).map fun i => die * Config.coresPerDie + i).filter fun k => (s.seatOn kdesc k).isSome
    let order := cores.filter (s.arraysFree kdesc) ++ cores.filter fun k => !s.arraysFree kdesc k
    let l := order.take needs.length
    if (s.seats c l).isSome then some l else none

/-- The launcher's next admission. -/
def State.launchEvents (s : State) : List Instr :=
  match s.firstCandidate with
  | none => []
  | some (_, c) =>
    match s.coresFor c, c with
    | none, _ => []
    | some l, .grid _ => [.clusterAdmission l]
    | some l, .saved ix => [.contextRestore ix l]

/-- The events of the device's own agents that may occur, in the order in which the default schedule tries them. -/
def State.internalEvents (s : State) : List Instr :=
  (List.range s.walks.length).map .pageWalkComplete ++ (List.range s.invals.length).map .tlbInvalidationComplete
    ++ s.wgs.flatMap (fun p => p.2.events p.1) ++ s.cores.flatMap (fun p => p.2.events p.1)
    ++ s.ctxs.map (fun p => .trapRingRecordWrite p.1) ++ s.clusters.flatMap (fun p => p.2.events p.1)
    ++ s.queues.flatMap (fun p => p.2.events p.1) ++ s.launchEvents
    ++ (List.range s.saved.length).map .readmissionLimitExpiry

/-- The first act of a core that is no instruction of the table: a late store that is performed, the publications of its narrow releases
that reach the other die, an instruction of a routine. -/
def Core.acts (s : State) (n : Nat) (c : Core) : Option State :=
  if !c.late.isEmpty then some (s.performOne n 0)
  else if s.behind.any (fun b => b.core == n) then some (s.reach n)
  else ((List.range c.cmds.length).find? fun ix => (s.running n ix).isSome).map (s.routineStep n)

/-- The first of some events whose effect is not to leave everything as it is, with its effect. -/
def State.firstEvent (s : State) : List Instr → Option State
  | [] => none
  | i :: r =>
    match exec i s with
    | .next t => if t = s then s.firstEvent r else some t
    | _ => s.firstEvent r

/-- The core and port of the split that the default schedule lets issue. -/
def State.defaultPort (s : State) : Option (Nat × Nat) :=
  let all := s.wgs.flatMap fun p =>
    if p.2.live && !(s.cluster p.2.cluster).preempting then
      p.2.warps.flatMap fun q => (splitIxs.filter fun n => s.pickable p.1 q.1 n).map fun n => (p.1, q.1, n)
    else []
  (s.firstPick all).map fun p => ((s.wg p.1).core, (s.warp p.1 p.2.1).port)

/-- The default schedule (log entry 2): by turns a split issues or an event of the device occurs; where neither can, a nanosecond
passes. -/
def State.defaultStep (s0 : State) : Out :=
  let s : State := { s0 with turn := (s0.turn + 1) % 2 }
  let event : Option State := ((s.firstEvent s.internalEvents).or (s.cores.findSome? fun p => p.2.acts s p.1)).or
    (if s.fleet.permit.isSome then some s.finishPermit else none)
  let idle : State := s.elapse 1
  match s.defaultPort with
  | some (core, port) =>
    if s0.turn = 0 then s.issueFrom core port
    else match event with | some t => .next t | none => s.issueFrom core port
  | none => .next (event.getD idle)

/-- Is this the one action that a stopped device still does, a reset (R445, R447)? -/
def Action.afterStop : Action → Bool
  | .event .deviceReset => true
  | _ => false

/-- What an action does. Only a reset recovers a device that has stopped (R445, R447). -/
def State.act (s : State) (a : Action) : Out :=
  if s.fleet.stopped && !a.afterStop then .next s
  else
    match a with
    | .pick core port => s.issueFrom core port
    | .event i => if isAgentEvent i then exec i s else .next s
    | .elapse ns => .next (s.elapse ns)
    | .delay lanes => .next { s with lag := lanes }
    | .perform core ix => .next (s.performOne core ix)
    | .reach core => .next (s.reach core)
    | .reachLine core line => .next (s.reachLine core line)
    | .engineHold core line => .next (if isCached (line * 128) then s.engineHold core line else s)
    | .registerRead m off n => .next (s.registerRead m off n)
    | .routine core ix => .next (s.routineStep core ix)
    | .engineRead core ix word => .next (s.readEarly core ix word)

/-- What follows every act at once: waits whose conditions hold (R41, R186), stops (R419, R425), FENCE counters (R363). -/
def State.settleAll (s t : State) : State := s.settleFences t.settleWaits.settleStops

/-- One step: the next action, or the default schedule's. -/
def State.run (s0 : State) : Out :=
  let s : State := { s0 with tick := s0.tick + 1 }
  let out := match s.agenda with
    | a :: rest => State.act { s with agenda := rest } a
    | [] => if s.fleet.stopped then .next s else s.defaultStep
  match out with
  | .next t => .next (s.settleAll t)
  | r => r

end Sys2Proof.Machine
end

