-- ==== Sys2Proof/Machine/Step.lean ====
section
/-! DEFINITION. One step of the machine, and the placing of an instruction for it. -/
namespace Sys2Proof.Machine

/-- One step (log entry 2): the next action of the agenda, or what the default schedule chooses. -/
def step (s : State) : Host.Outcome State Fault Refusal := s.run

/-- The state with one instruction stored where the next step fetches and runs it (log entry 8). -/
def State.withFetchWord (s : State) (_nbits w : Nat) : State := s.placeFetch w

end Sys2Proof.Machine
end

