-- ==== Sys2Proof/Safety.lean ====
section
/-! DEFINITION. What a safe run is, and the words in which the claims say what an instruction changes and what it leaves alone. -/
namespace Sys2Proof.Machine

/-- The outcome is a next state: neither a fault nor a refusal. -/
def Out.completes (o : Out) : Prop := ∃ t, o = .next t

/-- A state is safe where memory is in its canonical form and nothing has stopped the device. -/
def State.Safe (s : State) : Prop := Mem.wf s.mem = true ∧ s.fleet.stopped = false

/-- The registers of the issuing warp that an instruction may change: k and kp by number, v by lane and number, p by number and
lane, and ARITH.FLAGS. -/
structure Touched where
  k : Nat → Bool := fun _ => false
  v : Nat → Nat → Bool := fun _ _ => false
  p : Nat → Nat → Bool := fun _ _ => false
  kp : Nat → Bool := fun _ => false
  flags : Bool := false

/-- The state with the workgroups of another. -/
def State.withWgsOf (t s : State) : State := { t with wgs := s.wgs }
/-- The workgroup with the warps of another. -/
def Workgroup.withWarpsOf (x y : Workgroup) : Workgroup := { x with warps := y.warps }
/-- The warp with the registers, ARITH.FLAGS and split table of another. -/
def Warp.withRegsOf (x y : Warp) : Warp := { x with k := y.k, v := y.v, p := y.p, kp := y.kp, flags := y.flags, splits := y.splits }

/-- The warp with the split table of another. -/
def Warp.withSplitsOf (x y : Warp) : Warp := { x with splits := y.splits }
/-- The workgroup with the barriers, or the flumes, of another. -/
def Workgroup.withBarsOf (x y : Workgroup) : Workgroup := { x with bars := y.bars }
def Workgroup.withFlumesOf (x y : Workgroup) : Workgroup := { x with flumes := y.flumes }

/-- The state with the cores of another. -/
def State.withCoresOf (t s : State) : State := { t with cores := s.cores }
/-- The core with the scratchpad of another. -/
def Core.withScratchOf (x y : Core) : Core := { x with scratch := y.scratch }
/-- The core with the accumulator store of another. -/
def Core.withAccOf (x y : Core) : Core := { x with acc := y.acc }

/-- Nothing outside the issuing workgroup has changed, memory of every kind included: each byte of the scratchpads, of the cores' and
the home slices' views and of the accumulator stores reads as before. -/
structure SameElsewhere (s t : State) : Prop where
  rest : t.withWgsOf s = s
  groups : ∀ g, g ≠ s.cur.wg → t.wg g = s.wg g
  scratch : ∀ core a, (t.core core).sp a = (s.core core).sp a
  bytes : ∀ core key pa, t.coreByte core key pa = s.coreByte core key pa
  home : ∀ key pa, t.homeByte key pa = s.homeByte key pa
  acc : ∀ core e, (t.core core).entry e = (s.core core).entry e

/-- Nothing has changed but registers of the issuing warp that `w` names, and the issuing split. -/
structure OnlyTouches (s t : State) (w : Touched) : Prop where
  elsewhere : SameElsewhere s t
  group : t.curWg.withWarpsOf s.curWg = s.curWg
  warps : ∀ n, n ≠ s.cur.warp → t.warp s.cur.wg n = s.warp s.cur.wg n
  splits : ∀ n, n ≠ s.cur.split → t.split s.cur.wg s.cur.warp n = s.split s.cur.wg s.cur.warp n
  warp : t.curWarp.withRegsOf s.curWarp = s.curWarp
  k : ∀ n, w.k n = false → t.curWarp.getK n = s.curWarp.getK n
  v : ∀ l n, n < 256 → w.v l n = false → t.curWarp.getV l n = s.curWarp.getV l n
  p : ∀ n l, w.p n l = false → (t.curWarp.pred n).getLsbD l = (s.curWarp.pred n).getLsbD l
  kp : ∀ n, w.kp n = false → t.curWarp.upred n = s.curWarp.upred n
  flags : w.flags = false → t.curWarp.flags = s.curWarp.flags

/-- The instruction completes in `t` without a transfer: the issuing split goes on by sequential flow (R139, R183), and only what `w` names
has changed beside. -/
structure Completes (i : Instr) (s t : State) (w : Touched) : Prop where
  next : exec i s = .next t
  flow : t.curSplit = s.curSplit.advance
  frame : OnlyTouches s t w

/-- ARITH.FLAGS after a per-lane instruction: UNINIT and UREG as R104 sets them for the v registers `regs`, and what the LIVE lanes set. -/
def State.flagsWith (s : State) (live : LaneMask) (regs : List Nat) (f : Nat → Flags) : Word :=
  (s.curWarp.checkUninit live regs).flags ||| (orFlags ((lanesOf live).map f)).setWidth 32

/-- The instruction completes; each lane of `act` has the `n` words of `f` in the registers from `d` on; the flags are `fl`; nothing else
has changed. -/
def LanesGet (i : Instr) (s : State) (act : LaneMask) (d n : Nat) (f : Nat → List Word) (fl : Word) : Prop :=
  ∃ t, Completes i s t { v := fun l r => act.getLsbD l && d ≤ r && r < d + n, flags := true } ∧
    (∀ l k, act.getLsbD l = true → k < n → t.curWarp.getV l (d + k) = (f l).getD k 0) ∧ t.curWarp.flags = fl

/-- The instruction completes; each lane of `act` has bit `f l` in p register `d`, a write to p7 being discarded (R145); the flags are `fl`;
nothing else has changed. -/
def LanesTest (i : Instr) (s : State) (act : LaneMask) (d : Nat) (f : Nat → Bool) (fl : Word) : Prop :=
  ∃ t, Completes i s t { p := fun n l => n == d && decide (n < 7) && act.getLsbD l, flags := true } ∧
    (d < 7 → ∀ l, act.getLsbD l = true → (t.curWarp.pred d).getLsbD l = f l) ∧ t.curWarp.flags = fl

/-- The exact integer `x` as a result of R213 in `w` bits: wrapped, or clamped under .SAT. -/
def wrapOrClamp (w : Nat) (unsigned sat : Bool) (x : Int) : BitVec w :=
  BitVec.ofInt w (if sat then max (loBound unsigned w) (min (hiBound unsigned w) x) else x)

/-- SAT, where .SAT applies and the exact integer `x` lies outside the range of `w` bits (R213). -/
def satRaised (w : Nat) (unsigned sat : Bool) (x : Int) : Flags :=
  if sat ∧ (x < loBound unsigned w ∨ hiBound unsigned w < x) then flagSat else 0

/-- The instruction completes in `t` without a transfer, and nothing has changed but the issuing split's place and the cores' stores: no register of
any warp, and no state outside the cores. -/
structure CompletesInCores (i : Instr) (s t : State) : Prop where
  next : exec i s = .next t
  wgs : t.wgs = s.advance.wgs
  rest : (t.withWgsOf s).withCoresOf s = s

/-- Every store of the issuing split's core is performed, and its next store leaves none for later (R71 to R73, log entry 69). -/
def State.Prompt (s : State) : Prop := (s.core s.curWg.core).late = [] ∧ s.lag = 0

/-- What a load of a core delivers for a byte, with a key (R60, R62, R77, R79): the core's newest unpublished store, else the copy that it
holds, else the published line as the core's die sees it. -/
def State.coreSees (s : State) (core : Nat) (key : Option (BitVec 512)) (pa : Nat) : Byte :=
  let l := sget (fun _ => ({} : LineCopy)) (s.core core).copies (lineOf pa)
  match (s.core core).heldStore pa with
  | some h => reKey h.attr.key key pa h.byte
  | none =>
    if l.live then reKey l.key key pa (lineByte l.data (pa % 128))
    else reKey (s.lineKey (lineOf pa)) key pa (lineByte (s.dieView (core / Config.coresPerDie) (lineOf pa)) (pa % 128))

/-- No deduplication window holds any address (R406). -/
def State.NoWindows (s : State) : Prop := ∀ pa, s.windowDie pa = none

/-- What is published (without a key) is as in `s`, but for the bytes `bs` from `pa` on. -/
def State.HomeHas (s t : State) (pa : Nat) (bs : List Byte) : Prop :=
  ∀ q, t.homeByte none q = if pa ≤ q ∧ q < pa + bs.length then bs.getD (q - pa) 0 else s.homeByte none q

/-- The state with the contexts, the queues, the debug blocks' cores, or the fleet registers of another. -/
def State.withCtxsOf (t s : State) : State := { t with ctxs := s.ctxs }
def State.withQueuesOf (t s : State) : State := { t with queues := s.queues }
def State.withFleetOf (t s : State) : State := { t with fleet := s.fleet }
def State.withDedupOf (t s : State) : State := { t with dedup := s.dedup }

/-- Nothing has changed but the debug block of a core. -/
structure OnlyDebug (s t : State) (core : Nat) : Prop where
  rest : t.withCoresOf s = s
  others : ∀ c, c ≠ core → t.core c = s.core c
  core : { t.core core with dbg := (s.core core).dbg } = s.core core

end Sys2Proof.Machine
end

