-- ==== Sys2Proof/Certificates/Slice0/Obligations.lean ====
section
/-! DEFINITION. The statements for the provers. -/
open Sys2Proof Sys2Proof.Machine

/-! ## Class 001: uniform integer arithmetic -/

/-- R201, R202: where its guard holds, each 32-bit uniform instruction (and KCLZ.64 and KPOPC.64, whose result is a single register) writes the
result of the table to its destination and nothing else; the class sets no flag. Which operands NEG and ABS reach is the model's choice
(log entry 39). -/
def Obligations.UniformResults32 : Prop :=
  ∀ (s : State) (o : Args), s.acts 0x080 o.g = true →
    let a := s.opnd .int o.a 0
    let b := s.opnd .int o.b 0
    let c := s.opnd .int o.c 0
    let x := s.opnd .logic o.a 0
    let y := s.opnd .logic o.b 0
    let z := s.opnd .logic o.c 0
    let gives (i : Instr) (r : Word) : Prop := ∃ t, Completes i s t { k := (· == o.d) } ∧ t.curWarp.getK o.d = r
    gives (.kadd o) (BitVec.ofInt 32 (a.toInt + b.toInt)) ∧
    gives (.ksub o) (BitVec.ofInt 32 (a.toInt - b.toInt)) ∧
    gives (.kmul o) (BitVec.ofInt 32 (a.toInt * b.toInt)) ∧
    gives (.kmulh o false) (BitVec.ofInt 32 (a.toInt * b.toInt / 2 ^ 32)) ∧
    gives (.kmulh o true) (BitVec.ofNat 32 (a.toNat * b.toNat / 2 ^ 32)) ∧
    gives (.kmad o) (BitVec.ofInt 32 (a.toInt * b.toInt + c.toInt)) ∧
    gives (.kshl o) (BitVec.ofNat 32 (a.toNat * 2 ^ b.toNat)) ∧
    gives (.kshr o) (BitVec.ofNat 32 (a.toNat / 2 ^ b.toNat)) ∧
    gives (.ksar o) (BitVec.ofInt 32 (a.toInt / (2 ^ min b.toNat 31 : Nat))) ∧
    gives (.kand o) (x &&& y) ∧ gives (.kor o) (x ||| y) ∧ gives (.kxor o) (x ^^^ y) ∧
    gives (.kmin o false) (if b.toInt < a.toInt then b else a) ∧ gives (.kmin o true) (if b.toNat < a.toNat then b else a) ∧
    gives (.kmax o false) (if a.toInt < b.toInt then b else a) ∧ gives (.kmax o true) (if a.toNat < b.toNat then b else a) ∧
    gives (.ksel o) (if s.predObj o.c = 0 then b else a) ∧
    gives (.kmov o) a ∧
    (∀ sgn, gives (.kbfe o sgn) (bitFieldExtract sgn x y)) ∧ gives (.kbfi o) (bitFieldInsert x y z) ∧
    gives (.kclz o) (BitVec.ofNat 32 (countLeadingZeros x)) ∧ gives (.kpopc o) (BitVec.ofNat 32 (popCount x)) ∧
    gives (.kclz64 o) (BitVec.ofNat 32 (countLeadingZeros (s.opnd64 .logic o.a 0))) ∧
    gives (.kpopc64 o) (BitVec.ofNat 32 (popCount (s.opnd64 .logic o.a 0)))

/-- R201, R202: the same for the 64-bit uniform instructions, which write a k pair; a shift count, a position and KSEL's predicate stay narrow.
Which operands NEG and ABS reach is the model's choice (log entry 39). -/
def Obligations.UniformResults64 : Prop :=
  ∀ (s : State) (o : Args), s.acts 0x080 o.g = true →
    let a := s.opnd64 .int o.a 0
    let b := s.opnd64 .int o.b 0
    let c := s.opnd64 .int o.c 0
    let x := s.opnd64 .logic o.a 0
    let y := s.opnd64 .logic o.b 0
    let z := s.opnd64 .logic o.c 0
    let n := (s.opnd .int o.b 0).toNat
    let pos := s.opnd .logic o.b 0
    let gives (i : Instr) (r : DWord) : Prop :=
      ∃ t, Completes i s t { k := fun m => m == o.d || m == o.d + 1 } ∧ t.curWarp.getK64 o.d = r
    gives (.kadd64 o) (BitVec.ofInt 64 (a.toInt + b.toInt)) ∧
    gives (.ksub64 o) (BitVec.ofInt 64 (a.toInt - b.toInt)) ∧
    gives (.kmul64 o) (BitVec.ofInt 64 (a.toInt * b.toInt)) ∧
    gives (.kmulh64 o false) (BitVec.ofInt 64 (a.toInt * b.toInt / 2 ^ 64)) ∧
    gives (.kmulh64 o true) (BitVec.ofNat 64 (a.toNat * b.toNat / 2 ^ 64)) ∧
    gives (.kmad64 o) (BitVec.ofInt 64 (a.toInt * b.toInt + c.toInt)) ∧
    gives (.kshl64 o) (BitVec.ofNat 64 (a.toNat * 2 ^ n)) ∧
    gives (.kshr64 o) (BitVec.ofNat 64 (a.toNat / 2 ^ n)) ∧
    gives (.ksar64 o) (BitVec.ofInt 64 (a.toInt / (2 ^ min n 63 : Nat))) ∧
    gives (.kand64 o) (x &&& y) ∧ gives (.kor64 o) (x ||| y) ∧ gives (.kxor64 o) (x ^^^ y) ∧
    gives (.kmin64 o false) (if b.toInt < a.toInt then b else a) ∧ gives (.kmin64 o true) (if b.toNat < a.toNat then b else a) ∧
    gives (.kmax64 o false) (if a.toInt < b.toInt then b else a) ∧ gives (.kmax64 o true) (if a.toNat < b.toNat then b else a) ∧
    gives (.ksel64 o) (if s.predObj o.c = 0 then b else a) ∧
    gives (.kmov64 o) a ∧
    (∀ sgn, gives (.kbfe64 o sgn) (bitFieldExtract sgn x pos)) ∧ gives (.kbfi64 o) (bitFieldInsert x pos z)

/-- R145, R201, R202, R144: KCMP writes the truth of its condition, over signed or unsigned operands of either width, to its kp register and changes
nothing else; a write to kp7 is discarded, and kp7 stays true (which operands NEG and ABS reach: the model's choice, log entry 39).
A uniform instruction whose guard holds in no lane changes nothing and flows on. -/
def Obligations.UniformCompareAndFalseGuard : Prop :=
  (∀ (s : State) (o : Args), s.acts 0x080 o.g = true →
     let holds (cond : Cond) (x y : Int) : Bool :=
       match cond with
       | .eq => decide (x = y)
       | .ne => decide (x ≠ y)
       | .lt => decide (x < y)
       | .le => decide (x ≤ y)
       | .gt => decide (x > y)
       | .ge => decide (x ≥ y)
     let gives (i : Instr) (r : Bool) : Prop :=
       ∃ t, Completes i s t { kp := fun n => n == o.d && decide (n < 7) } ∧ (o.d < 7 → t.curWarp.upred o.d = r) ∧ t.curWarp.upred 7 = true
     ∀ cond,
       gives (.kcmp o false cond) (holds cond (s.opnd .int o.a 0).toInt (s.opnd .int o.b 0).toInt) ∧
       gives (.kcmp o true cond) (holds cond (s.opnd .int o.a 0).toNat (s.opnd .int o.b 0).toNat) ∧
       gives (.kcmp64 o false cond) (holds cond (s.opnd64 .int o.a 0).toInt (s.opnd64 .int o.b 0).toInt) ∧
       gives (.kcmp64 o true cond) (holds cond (s.opnd64 .int o.a 0).toNat (s.opnd64 .int o.b 0).toNat)) ∧
  (∀ (s : State) (o : Args) (i : Instr), s.acts 0x080 o.g = false →
     (i ∈ [.kadd o, .kadd64 o, .ksub o, .ksub64 o, .kmul o, .kmul64 o, .kmad o, .kmad64 o, .kshl o, .kshl64 o, .kshr o, .kshr64 o, .ksar o,
           .ksar64 o, .kand o, .kand64 o, .kor o, .kor64 o, .kxor o, .kxor64 o, .ksel o, .ksel64 o, .kmov o, .kmov64 o, .kclz o, .kclz64 o,
           .kpopc o, .kpopc64 o, .kbfi o, .kbfi64 o] ∨
       (∃ u, i ∈ [.kmulh o u, .kmulh64 o u, .kmin o u, .kmin64 o u, .kmax o u, .kmax64 o u, .kbfe o u, .kbfe64 o u, .kldGlobal o u, .kldBank o u]) ∨
       (∃ u cond, i ∈ [.kcmp o u cond, .kcmp64 o u cond])) →
     Completes i s s.advance {})

/-! ## Class 010: vector integer -/

/-- R101, R211, R213, R215: the integer instructions whose result is an exact integer, wrapped or with .SAT clamped: each lane of ACTIVE gets its
result, a LIVE lane whose exact result lies outside the range sets SAT under .SAT, and nothing else changes.
Which operands NEG and ABS reach is the model's choice (log entry 39). -/
def Obligations.VectorExact : Prop :=
  ∀ (s : State) (o : Args), o.d < 256 →
    let act := s.activeH 0x100 o.g
    let live := s.active 0x100 o.g
    let int (u : Bool) (x : Src) (l : Nat) : Int := if u then (s.opnd .int x l).toNat else (s.opnd .int x l).toInt
    let bytes (u : Bool) (x : Src) (l k : Nat) : Int := readInt u ((s.opnd .bits x l).extractLsb' (8 * k) 8)
    let halves (u : Bool) (x : Src) (l k : Nat) : Int := readInt u ((s.opnd .bits x l).extractLsb' (16 * k) 16)
    let gives (i : Instr) (u sat : Bool) (x : Nat → Int) : Prop :=
      LanesGet i s act o.d 1 (fun l => [wrapOrClamp 32 u sat (x l)])
        (s.flagsWith live (Src.vregs o.a 1 ++ Src.vregs o.b 1 ++ Src.vregs o.c 1) fun l => satRaised 32 u sat (x l))
    ∀ u sat,
      gives (.iadd o u sat) u sat (fun l => int u o.a l + int u o.b l) ∧
      gives (.isub o u sat) u sat (fun l => int u o.a l - int u o.b l) ∧
      gives (.imul o u sat) u sat (fun l => int u o.a l * int u o.b l) ∧
      gives (.imad o u sat) u sat (fun l => int u o.a l * int u o.b l + int u o.c l) ∧
      gives (.iabs o sat) false sat (fun l => (int false o.a l).natAbs) ∧
      (∀ ua ub, gives (.idp4 o ua ub sat) false sat (fun l =>
        bytes ua o.a l 0 * bytes ub o.b l 0 + bytes ua o.a l 1 * bytes ub o.b l 1 + bytes ua o.a l 2 * bytes ub o.b l 2
          + bytes ua o.a l 3 * bytes ub o.b l 3 + (s.opnd .bits o.c l).toInt)) ∧
      (∀ hi ua ub, gives (.idp2 o hi ua ub sat) false sat (fun l =>
        halves ua o.a l 0 * bytes ub o.b l (if hi then 2 else 0) + halves ua o.a l 1 * bytes ub o.b l (if hi then 3 else 1)
          + (s.opnd .bits o.c l).toInt))

/-- R211, R215, R213: the other integer instructions with one 32-bit result: each lane of ACTIVE gets its result; they set no flag but those of R104.
Which operands NEG and ABS reach is the model's choice (log entry 39).
IMADW adds a 64-bit C to the exact product and writes a pair, wrapped or clamped at 64 bits, in each lane of ACTIVE; ICMP
writes its condition to its p register in the lanes of ACTIVE and to no other lane. -/
def Obligations.VectorBitsWideAndCompare : Prop :=
  (∀ (s : State) (o : Args), o.d < 256 →
     let act := s.activeH 0x100 o.g
     let a := s.opnd .int o.a
     let b := s.opnd .int o.b
     let x := s.opnd .logic o.a
     let y := s.opnd .logic o.b
     let z := s.opnd .logic o.c
     let gives (i : Instr) (r : Nat → Word) : Prop :=
       LanesGet i s act o.d 1 (fun l => [r l])
         (s.flagsWith (s.active 0x100 o.g) (Src.vregs o.a 1 ++ Src.vregs o.b 1 ++ Src.vregs o.c 1) fun _ => 0)
     gives (.imulh o false) (fun l => BitVec.ofInt 32 ((a l).toInt * (b l).toInt / 2 ^ 32)) ∧
     gives (.imulh o true) (fun l => BitVec.ofNat 32 ((a l).toNat * (b l).toNat / 2 ^ 32)) ∧
     gives (.ishl o) (fun l => BitVec.ofNat 32 ((a l).toNat * 2 ^ (b l).toNat)) ∧
     gives (.ishr o) (fun l => BitVec.ofNat 32 ((a l).toNat / 2 ^ (b l).toNat)) ∧
     gives (.isar o) (fun l => BitVec.ofInt 32 ((a l).toInt / (2 ^ min (b l).toNat 31 : Nat))) ∧
     gives (.land o) (fun l => x l &&& y l) ∧ gives (.lor o) (fun l => x l ||| y l) ∧ gives (.lxor o) (fun l => x l ^^^ y l) ∧
     gives (.lnot o) (fun l => ~~~(x l)) ∧ gives (.imov o) x ∧
     gives (.imin o false) (fun l => if (b l).toInt < (a l).toInt then b l else a l) ∧
     gives (.imin o true) (fun l => if (b l).toNat < (a l).toNat then b l else a l) ∧
     gives (.imax o false) (fun l => if (a l).toInt < (b l).toInt then b l else a l) ∧
     gives (.imax o true) (fun l => if (a l).toNat < (b l).toNat then b l else a l) ∧
     gives (.isel o) (fun l => if (s.predObj o.c).getLsbD l then a l else b l) ∧
     (∀ sgn, gives (.ibfe o sgn) (fun l => bitFieldExtract sgn (x l) (y l))) ∧
     gives (.ibfi o) (fun l => bitFieldInsert (x l) (y l) (z l)) ∧
     gives (.ipopc o) (fun l => BitVec.ofNat 32 (popCount (x l))) ∧
     gives (.iclz o) (fun l => BitVec.ofNat 32 (countLeadingZeros (x l))) ∧
     gives (.ibrev o) (fun l => (x l).reverse) ∧
     gives (.bpick o) (fun l => bpickByte (x l) (y l) ((z l).extractLsb' 24 8) ++ bpickByte (x l) (y l) ((z l).extractLsb' 16 8)
       ++ bpickByte (x l) (y l) ((z l).extractLsb' 8 8) ++ bpickByte (x l) (y l) ((z l).extractLsb' 0 8))) ∧
  (∀ (s : State) (o : Args) (u : Bool),
     let act := s.activeH 0x100 o.g
     let live := s.active 0x100 o.g
     let int (x : Src) (l : Nat) : Int := if u then (s.opnd .int x l).toNat else (s.opnd .int x l).toInt
     let wide (l : Nat) : Int := int o.a l * int o.b l + (if u then ((s.opnd64 .int o.c l).toNat : Int) else (s.opnd64 .int o.c l).toInt)
     (∀ sat, o.d + 1 < 256 → LanesGet (.imadw o u sat) s act o.d 2
       (fun l => [(wrapOrClamp 64 u sat (wide l)).extractLsb' 0 32, (wrapOrClamp 64 u sat (wide l)).extractLsb' 32 32])
       (s.flagsWith live (Src.vregs o.a 1 ++ Src.vregs o.b 1 ++ Src.vregs o.c 2) fun l => satRaised 64 u sat (wide l))) ∧
     (∀ cond, LanesTest (.icmp o u cond) s act o.d
       (fun l => match cond with
         | .eq => decide (int o.a l = int o.b l)
         | .ne => decide (int o.a l ≠ int o.b l)
         | .lt => decide (int o.a l < int o.b l)
         | .le => decide (int o.a l ≤ int o.b l)
         | .gt => decide (int o.a l > int o.b l)
         | .ge => decide (int o.a l ≥ int o.b l))
       (s.flagsWith live (Src.vregs o.a 1 ++ Src.vregs o.b 1 ++ Src.vregs o.c 1) fun _ => 0)))

/-! ## Class 011 and the special functions: vector float -/

/-- R97, R98, R217, R218, R223, R224: each lane of ACTIVE gets the result of the float instruction on its operands, read in the effective mode, rounded
once; the LIVE lanes' conditions set their flags; nothing else changes. What the functions named here deliver, RoundingIsExact states; the
model's choices are the precision in which EX2, LG2, SIN, COS and TANH are formed (log entry 10) and, in FFMA, infinities of opposite signs
beside a NaN (log entry 83). -/
def Obligations.FloatResults : Prop :=
  ∀ (s : State) (o : Args), o.d < 256 →
    let x (md : FMode) (a : Src) (l : Nat) : FVal := fp32.value md.ftz (s.opnd .float a l).toNat
    let gives (i : Instr) (f : Nat → Nat × Flags) : Prop :=
      LanesGet i s (s.activeH 0x180 o.g) o.d 1 (fun l => [BitVec.ofNat 32 (f l).1])
        (s.flagsWith (s.active 0x180 o.g) (Src.vregs o.a 1 ++ Src.vregs o.b 1 ++ Src.vregs o.c 1) fun l => (f l).2)
    let pick (isMax nanp ftz : Bool) (l : Nat) : Nat × Flags :=
      let md := modeOf s.curWarp.mode { ftz := ftz, nanp := nanp }
      minMaxVal fp32 md isMax (x md o.a l) (x md o.b l) (s.opnd .float o.a l).toNat (s.opnd .float o.b l).toNat
    (∀ r, let md := modeOf s.curWarp.mode r
      gives (.fadd o r) (fun l => fp32.add md (x md o.a l) (x md o.b l)) ∧
      gives (.fsub o r) (fun l => fp32.sub md (x md o.a l) (x md o.b l)) ∧
      gives (.fmul o r) (fun l => fp32.mul md (x md o.a l) (x md o.b l)) ∧
      gives (.ffma o r) (fun l => fp32.dot md [(x md o.a l, x md o.b l)] (x md o.c l)) ∧
      gives (.rcp o r) (fun l => specialFn .rcp md (x md o.a l)) ∧ gives (.rsq o r) (fun l => specialFn .rsq md (x md o.a l)) ∧
      gives (.sqrt o r) (fun l => specialFn .sqrt md (x md o.a l)) ∧ gives (.ex2 o r) (fun l => specialFn .ex2 md (x md o.a l)) ∧
      gives (.lg2 o r) (fun l => specialFn .lg2 md (x md o.a l)) ∧ gives (.sin o r) (fun l => specialFn .sin md (x md o.a l)) ∧
      gives (.cos o r) (fun l => specialFn .cos md (x md o.a l)) ∧ gives (.tanh o r) (fun l => specialFn .tanh md (x md o.a l))) ∧
    (∀ nanp ftz, gives (.fmin o nanp ftz) (pick false nanp ftz) ∧ gives (.fmax o nanp ftz) (pick true nanp ftz)) ∧
    (∀ nanp ftz rnd, gives (.frnd o nanp ftz rnd)
      (fun l => let md := modeOf s.curWarp.mode { rnd := rnd, ftz := ftz, nanp := nanp }; frndVal md (x md o.a l))) ∧
    gives (.fclass o) (fun l => (2 ^ fclassBit (s.opnd .float o.a l).toNat, 0)) ∧
    (∀ m sat rnd, gives (.bfunpack o m sat rnd) (fun l =>
      let md := modeOf s.curWarp.mode { rnd := rnd, sat := sat }
      let bits := m.toBits + 2
      let y : Int := ((s.opnd .int o.a l).setWidth bits).toInt
      let e := (s.opnd .int o.b l).toNat % 256
      if e = 0 then (0, 0) else if e = 255 ∨ y = -(2 ^ (bits - 1) : Nat) then (0x7FC00000, 0)
      else fp32.round md (decide (y < 0)) y.natAbs ((e : Int) - 127) false))

/-- R97, R218, R219, R221: FCMP writes its condition to its p register; the packed forms compute half by half in FP16 or BF16, FDOT2 rounds its two
exact products and C once. Infinities of opposite signs beside a NaN operand set no INVALID: the model's choice (log entry 83). -/
def Obligations.FloatCompareAndPacked : Prop :=
  ∀ (s : State) (o : Args),
    let act := s.activeH 0x180 o.g
    let live := s.active 0x180 o.g
    let regs := Src.vregs o.a 1 ++ Src.vregs o.b 1 ++ Src.vregs o.c 1
    let x (md : FMode) (a : Src) (l : Nat) : FVal := fp32.value md.ftz (s.opnd .float a l).toNat
    let half (f : FFmt) (md : FMode) (a : Src) (l h : Nat) : FVal := f.value md.ftz ((s.opnd .half a l).extractLsb' (16 * h) 16).toNat
    (∀ cond ftz, let md := modeOf s.curWarp.mode { ftz := ftz }
      LanesTest (.fcmp o cond ftz) s act o.d (fun l => fcondHolds cond (x md o.a l) (x md o.b l))
        (s.flagsWith live regs fun l => if (x md o.a l).isSnan || (x md o.b l).isSnan then flagInvalid else 0)) ∧
    (o.d < 256 → ∀ bf r, let md := modeOf s.curWarp.mode r
      let f := if bf then bf16 else fp16
      let pack (i : Instr) (g : Nat → Nat → Nat × Flags) : Prop :=
        LanesGet i s act o.d 1 (fun l => [BitVec.ofNat 32 ((g l 0).1 + (g l 1).1 * 2 ^ 16)]) (s.flagsWith live regs fun l => (g l 0).2 ||| (g l 1).2)
      pack (.hadd2 o bf r) (fun l h => f.add md (half f md o.a l h) (half f md o.b l h)) ∧
      pack (.hfma2 o bf r) (fun l h => f.dot md [(half f md o.a l h, half f md o.b l h)] (half f md o.c l h)) ∧
      LanesGet (.fdot2 o bf r) s act o.d 1
        (fun l => [BitVec.ofNat 32 (fp32.dot md [(half f md o.a l 0, half f md o.b l 0), (half f md o.a l 1, half f md o.b l 1)] (x md o.c l)).1])
        (s.flagsWith live regs fun l => (fp32.dot md [(half f md o.a l 0, half f md o.b l 0), (half f md o.a l 1, half f md o.b l 1)] (x md o.c l)).2))

/-- R220, R221, R222: CVT converts the selected part; a result narrower than 32 bits takes its part of the destination, whose other bits stay; a 64-bit
result takes a pair.
CVT's rounding and saturation is stated by RoundingIsExact.
BFPACK gives each run of 32 lanes the least exponent at which its largest finite magnitude fits, and each lane its mantissa at it. -/
def Obligations.ConversionAndBlockPack : Prop :=
  (∀ (s : State) (o : Args) (r : RMod) (sel : CvtSel),
     let act := s.activeH 0x180 o.g
     let live := s.active 0x180 o.g
     let md := modeOf s.curWarp.mode r
     let sf := numFmt sel.sf
     let w := (numFmt sel.df).width
     let y (l : Nat) : Nat × Flags := convert md sf (numFmt sel.df) (s.cvtPart o.a sf sel.spart.val l)
     let fl := s.flagsWith live (Src.vregs o.a (if sf.width = 64 then 2 else 1)) fun l => (y l).2
     (w = 64 → o.d + 1 < 256 →
       LanesGet (.cvt o r sel) s act o.d 2 (fun l => [BitVec.ofNat 32 (y l).1, BitVec.ofNat 32 ((y l).1 / 2 ^ 32)]) fl) ∧
     (w < 64 → o.d < 256 → w * sel.part.val + w ≤ 32 →
       ∃ t, Completes (.cvt o r sel) s t { v := fun l n => act.getLsbD l && n == o.d, flags := true } ∧ t.curWarp.flags = fl ∧
         ∀ l, act.getLsbD l = true → ∀ k < 32, (t.curWarp.getV l o.d).getLsbD k =
           if w * sel.part.val ≤ k ∧ k < w * sel.part.val + w then (y l).1.testBit (k - w * sel.part.val)
           else (s.curWarp.getV l o.d).getLsbD k)) ∧
  (∀ (s : State) (o : Args) (m : BfpWidth) (sat ftz : Bool) (rnd : RndSel), o.d + 1 < 256 →
     let live := s.active 0x18D o.g
     let md := modeOf s.curWarp.mode { sat := sat, ftz := ftz, rnd := rnd }
     let x (l : Nat) : FVal := fp32.value md.ftz (s.opnd .float o.a l).toNat
     let top := 2 ^ (m.toBits + 1) - 1
     let group (g : Nat) : List FVal := ((lanesOf live).filter fun l => l / 32 == g).map x
     ∃ e : Nat → Nat,
       (∀ g, (∀ v ∈ group g, mag149 v = 0) → e g = if (group g).any (fun v => v.isNan || v.isInf) then 127 else 0) ∧
       (∀ g, (∃ v ∈ group g, mag149 v ≠ 0) → 1 ≤ e g ∧ e g ≤ 254 ∧
         (e g < 254 → ∀ v ∈ group g, mag149 v ≤ top * 2 ^ (e g + 22)) ∧
         (1 < e g → ∃ v ∈ group g, top * 2 ^ (e g + 21) < mag149 v)) ∧
       LanesGet (.bfpack o m sat ftz rnd) s (s.activeH 0x18D o.g) o.d 2
         (fun l => [BitVec.ofInt 32 (bfpMantissa md (m.toBits + 2) (e (l / 32)) (x l)).1, BitVec.ofNat 32 (e (l / 32))])
         (s.flagsWith live (Src.vregs o.a 1 ++ Src.vregs o.b 1 ++ Src.vregs o.c 1) fun l => (bfpMantissa md (m.toBits + 2) (e (l / 32)) (x l)).2))

/-- R97, R98, R217, R218, R219, R220, R221, R224: rounding a value to a format without flushing. Where consecutive finite patterns `lo` and `lo + 1` bracket the exact magnitude `m × 2^e`, the
delivered pattern is `lo` where it is exact, and otherwise what the mode picks: the nearer, ties to the even pattern (RNE) or away from zero (RNA),
or the one toward zero (RZ), up (RU), down (RD); INEXACT is set exactly where the value is not representable, and OVERFLOW is not.
The sum of two finite values is rounded once from the exact sum; where that is zero the result is +0, or −0 in mode RD, unless both
addends are zeros of one sign.
A product and a sum of products are rounded once from their exact value; 0 times infinity is invalid; a NaN operand
gives the canonical NaN, or under NANP the first NaN in the order of R98 with its payload; FMIN and FMAX deliver the pattern of the lesser or
greater operand, −0 below +0; FRND and a CVT to an integer round to the integer that the mode picks, the CVT with its clamp; RCP, SQRT and RSQ
deliver one of the two patterns that bracket the exact value, as the mode picks; EX2 of an integer and LG2 of a power of two are exact; the
values of R224's table. Of EX2, LG2, SIN, COS and TANH elsewhere nothing is stated (log entry 10). -/
def Obligations.RoundingIsExact : Prop :=
  (∀ f ∈ [fp32, fp16, bf16, e4m3, e5m2, f26], ∀ (md : FMode) (neg : Bool) (m : Nat) (e : Int) (lo : Nat),
     let mag (b : Nat) : Nat := if b < 2 ^ f.fbits then b else (2 ^ f.fbits + b % 2 ^ f.fbits) * 2 ^ (b / 2 ^ f.fbits - 1)
     let scaleB (b : Nat) : Nat := mag b * 2 ^ (f.minExp - e).toNat
     let exact := m * 2 ^ (e - f.minExp).toNat
     md.ftz = false → lo + 1 ≤ f.maxBits → scaleB lo ≤ exact → exact < scaleB (lo + 1) →
     let up := match md.rnd with
       | .rne => scaleB lo + scaleB (lo + 1) < 2 * exact ∨ (2 * exact = scaleB lo + scaleB (lo + 1) ∧ lo % 2 = 1)
       | .rna => scaleB lo + scaleB (lo + 1) ≤ 2 * exact
       | .rz => False
       | .ru => neg = false ∧ scaleB lo ≠ exact
       | .rd => neg = true ∧ scaleB lo ≠ exact
     let r := f.round md neg m e false
     (up → r.1 = f.signed neg (lo + 1)) ∧ (¬up → r.1 = f.signed neg lo) ∧
       (r.2.getLsbD 4 = true ↔ scaleB lo ≠ exact) ∧ r.2.getLsbD 2 = false) ∧
  (∀ (f : FFmt) (md : FMode) (na nb : Bool) (ma mb : Nat) (ea eb : Int),
     let q := min ea eb
     let signedInt (n : Bool) (m : Nat) (e : Int) : Int := (if n then -1 else 1) * ((m * 2 ^ (e - q).toNat : Nat) : Int)
     let sum := signedInt na ma ea + signedInt nb mb eb
     let a := FVal.fin na ma ea
     let b := FVal.fin nb mb eb
     (sum ≠ 0 → f.add md a b = f.round md (decide (sum < 0)) sum.natAbs q false) ∧
     (sum = 0 → f.add md a b = (f.signed (if ma = 0 ∧ na = nb then na else md.rnd == .rd) 0, 0)) ∧
     f.sub md a b = f.add md a (.fin (!nb) mb eb) ∧
     f.mul md a b = f.round md (na != nb) (ma * mb) (ea + eb) false ∧
     (mb ≠ 0 → f.mul md (.inf na) b = f.infinity md (na != nb)) ∧
     (mb = 0 → f.mul md (.inf na) b = (f.canon, flagInvalid) ∧ f.mul md b (.inf na) = (f.canon, flagInvalid)) ∧
     (na ≠ nb → f.add md (.inf na) (.inf nb) = (f.canon, flagInvalid)) ∧
     f.add md (.inf na) b = f.infinity md na ∧ f.add md b (.inf na) = f.infinity md na) ∧
  (∀ (f : FFmt) (md : FMode) (n1 m1 n2 m2 nc : Bool) (a1 b1 a2 b2 c : Nat) (e1 k1 e2 k2 ec : Int),
     let x1 := (FVal.fin n1 a1 e1, FVal.fin m1 b1 k1)
     let x2 := (FVal.fin n2 a2 e2, FVal.fin m2 b2 k2)
     let z := FVal.fin nc c ec
     let term (q : Int) (n : Bool) (m : Nat) (e : Int) : Int := (if n then -1 else 1) * ((m * 2 ^ (e - q).toNat : Nat) : Int)
     let q1 := min (e1 + k1) ec
     let sum1 := term q1 (n1 != m1) (a1 * b1) (e1 + k1) + term q1 nc c ec
     let q2 := min (e1 + k1) (min (e2 + k2) ec)
     let sum2 := term q2 (n1 != m1) (a1 * b1) (e1 + k1) + (term q2 (n2 != m2) (a2 * b2) (e2 + k2) + term q2 nc c ec)
     (sum1 ≠ 0 → f.dot md [x1] z = f.round md (decide (sum1 < 0)) sum1.natAbs q1 false) ∧
     (sum1 = 0 → f.dot md [x1] z = (f.signed (if c = 0 ∧ (n1 != m1) = nc then nc else md.rnd == .rd) 0, 0)) ∧
     (sum2 ≠ 0 → f.dot md [x1, x2] z = f.round md (decide (sum2 < 0)) sum2.natAbs q2 false) ∧
     (sum2 = 0 → a1 * b1 ≠ 0 ∨ a2 * b2 ≠ 0 ∨ c ≠ 0 → f.dot md [x1, x2] z = (f.signed (md.rnd == .rd) 0, 0))) ∧
  (∀ (f : FFmt) (md : FMode) (a b : FVal), f.e4m3 = false →
     let firstOf (neg : Bool) (frac : Nat) : Nat :=
       f.signed neg (f.infBits + frac / 2 ^ (23 - f.fbits) % 2 ^ (f.fbits - 1) + 2 ^ (f.fbits - 1))
     let fl : Flags := if a.isSnan || b.isSnan then flagInvalid else 0
     (a.isNan = true ∨ b.isNan = true → md.nanp = false → f.add md a b = (f.canon, fl) ∧ f.mul md a b = (f.canon, fl)) ∧
     (∀ neg frac sig, a = .nan neg frac sig → md.nanp = true → f.add md a b = (firstOf neg frac, fl) ∧ f.mul md a b = (firstOf neg frac, fl)) ∧
     (∀ neg frac sig, a.isNan = false → b = .nan neg frac sig → md.nanp = true →
       f.add md a b = (firstOf neg frac, fl) ∧ f.mul md a b = (firstOf neg frac, fl))) ∧
  (∀ (md : FMode) (a b : Nat), a < 2 ^ 32 → b < 2 ^ 32 →
     let x := fp32.value false a
     let y := fp32.value false b
     let key (p : Nat) : Int := if p < 2 ^ 31 then p else 2 ^ 31 - 1 - (p : Int)
     (x.isNan = false → y.isNan = false →
       minMaxVal fp32 md false x y a b = (if key a < key b then a else b, 0) ∧
       minMaxVal fp32 md true x y a b = (if key a < key b then b else a, 0)) ∧
     (∀ isMax, md.nanp = false → (x.isNan = true → y.isNan = false → (minMaxVal fp32 md isMax x y a b).1 = b) ∧
       (x.isNan = false → y.isNan = true → (minMaxVal fp32 md isMax x y a b).1 = a) ∧
       (x.isNan = true → y.isNan = true → (minMaxVal fp32 md isMax x y a b).1 = 0x7FC00000) ∧
       (minMaxVal fp32 md isMax x y a b).2 = if x.isSnan || y.isSnan then flagInvalid else 0)) ∧
  (∀ (md : FMode) (f : FFmt) (neg : Bool) (m p : Nat) (e : Int) (u : Bool) (w : Nat), f.value md.ftz p = .fin neg m e →
     let d := 2 ^ (-e).toNat
     let n := m * 2 ^ e.toNat / d
     let rem := m * 2 ^ e.toNat % d
     let up : Bool := match md.rnd with
       | .rne => decide (d < 2 * rem) || (d == 2 * rem && n % 2 == 1)
       | .rna => decide (d ≤ 2 * rem)
       | .rz => false
       | .ru => !neg && rem != 0
       | .rd => neg && rem != 0
     let whole : Nat := if up then n + 1 else n
     let y : Int := if neg then -(whole : Int) else whole
     let z := max (loBound u w) (min (hiBound u w) y)
     frndVal md (.fin neg m e) = ((fp32.round {} neg whole 0 false).1, 0) ∧
     convert md (.float f) (.int u w) p =
       ((BitVec.ofInt w z).toNat, if z ≠ y then flagInvalid else if rem ≠ 0 then flagInexact else 0) ∧
     ∀ g : FFmt, convert md (.float f) (.float g) p = g.round md neg m e false) ∧
  (∀ (md : FMode) (u v : Bool) (w z p : Nat) (g : FFmt),
     let x : Int := if u = true ∨ p < 2 ^ (w - 1) then p else (p : Int) - (2 ^ w : Nat)
     convert md (.int u w) (.float g) p = g.round md (decide (x < 0)) x.natAbs 0 false ∧
     convert md (.int u w) (.int v z) p = ((wrapOrClamp z v md.sat x).toNat, satRaised z v md.sat x)) ∧
  (∀ (md : FMode) (neg : Bool) (m : Nat) (e : Int) (lo : Nat), md.ftz = false → 0 < m → lo + 1 ≤ fp32.maxBits →
     let mag (b : Nat) : Nat := if b < 2 ^ 23 then b else (2 ^ 23 + b % 2 ^ 23) * 2 ^ (b / 2 ^ 23 - 1)
     let picks (r : Nat × Flags) (sign : Bool) (below half above : Prop) : Prop :=
       let up := match md.rnd with
         | .rne => above ∨ (half ∧ lo % 2 = 1)
         | .rna => above ∨ half
         | .rz => False
         | .ru => sign = false ∧ below
         | .rd => sign = true ∧ below
       (up → r.1 = fp32.signed sign (lo + 1)) ∧ (¬up → r.1 = fp32.signed sign lo) ∧ (r.2.getLsbD 4 = true ↔ below)
     (let a := 2 ^ (149 - e).toNat
      let b := m * 2 ^ (e - 149).toNat
      mag lo * b ≤ a → a < mag (lo + 1) * b →
        picks (specialFn .rcp md (.fin neg m e)) neg (mag lo * b ≠ a) ((mag lo + mag (lo + 1)) * b = 2 * a) ((mag lo + mag (lo + 1)) * b < 2 * a)) ∧
     (let a := m * 2 ^ (e + 298).toNat
      let b := 2 ^ (-(e + 298)).toNat
      mag lo ^ 2 * b ≤ a → a < mag (lo + 1) ^ 2 * b →
        picks (specialFn .sqrt md (.fin false m e)) false (mag lo ^ 2 * b ≠ a) ((mag lo + mag (lo + 1)) ^ 2 * b = 4 * a)
          ((mag lo + mag (lo + 1)) ^ 2 * b < 4 * a)) ∧
     (let a := 2 ^ (298 - e).toNat
      let b := m * 2 ^ (e - 298).toNat
      mag lo ^ 2 * b ≤ a → a < mag (lo + 1) ^ 2 * b →
        picks (specialFn .rsq md (.fin false m e)) false (mag lo ^ 2 * b ≠ a) ((mag lo + mag (lo + 1)) ^ 2 * b = 4 * a)
          ((mag lo + mag (lo + 1)) ^ 2 * b < 4 * a))) ∧
  (∀ (md : FMode) (neg : Bool) (m : Nat) (e : Int),
     (m < 512 → specialFn .ex2 md (.fin neg m 0) = fp32.round md false 1 (if neg then -(m : Int) else m) false) ∧
     specialFn .lg2 md (.fin false (2 ^ m) e) = fp32.round md (decide (e + m < 0)) (e + m).natAbs 0 false ∧
     (0 < m → ∀ fn ∈ [SpecialFn.rsq, .sqrt, .lg2], specialFn fn md (.fin true m e) = (0x7FC00000, flagInvalid)) ∧
     (md.sat = false → specialFn .rcp md (.fin neg 0 e) = (if neg then 0xFF800000 else 0x7F800000, flagDivzero) ∧
       specialFn .rsq md (.fin neg 0 e) = (if neg then 0xFF800000 else 0x7F800000, flagDivzero) ∧
       specialFn .lg2 md (.fin neg 0 e) = (0xFF800000, flagDivzero)) ∧
     (md.sat = true → specialFn .rcp md (.fin neg 0 e) =
       (if neg then 0xFF7FFFFF else 0x7F7FFFFF, flagDivzero ||| flagOverflow ||| flagInexact)) ∧
     (∀ fn ∈ [SpecialFn.sqrt, .sin, .tanh], specialFn fn md (.fin neg 0 e) = (if neg then 0x80000000 else 0, 0)) ∧
     (∀ fn ∈ [SpecialFn.ex2, .cos], specialFn fn md (.fin neg 0 e) = (0x3F800000, 0)) ∧
     specialFn .rcp md (.inf neg) = (if neg then 0x80000000 else 0, 0) ∧
     specialFn .tanh md (.inf neg) = (if neg then 0xBF800000 else 0x3F800000, 0) ∧
     specialFn .ex2 md (.inf true) = (0, 0) ∧ specialFn .rsq md (.inf false) = (0, 0) ∧
     (md.sat = false → ∀ fn ∈ [SpecialFn.sqrt, .ex2, .lg2], specialFn fn md (.inf false) = (0x7F800000, 0)) ∧
     (∀ fn ∈ [SpecialFn.rsq, .sqrt, .lg2], specialFn fn md (.inf true) = (0x7FC00000, flagInvalid)) ∧
     (∀ fn ∈ [SpecialFn.sin, .cos], specialFn fn md (.inf neg) = (0x7FC00000, flagInvalid)))

/-! ## Class 100: cross-lane -/

/-- R212, R225, R226, R314: XLANE and QSWAP deliver to each lane of ACTIVE the A of its source lane, or its own where that lane is illegal or outside
ACTIVE, and tell the two apart in pd; lanes outside ACTIVE keep both. -/
def Obligations.LaneMoves : Prop :=
  ∀ (s : State) (o : Args) (pd : Fin 8), o.d < 256 →
    let act := s.activeH 0x210 o.g
    let moves (i : Instr) (src : Nat → Option Nat) : Prop :=
      ∃ t, Completes i s t { v := fun l r => act.getLsbD l && r == o.d, p := fun n l => n == pd.val && decide (n < 7) && act.getLsbD l, flags := true } ∧
        (∀ l, act.getLsbD l = true → ∀ j, src l = some j → act.getLsbD j = true →
          t.curWarp.getV l o.d = s.opnd .bits o.a j ∧ (pd.val < 7 → (t.curWarp.pred pd.val).getLsbD l = true)) ∧
        (∀ l, act.getLsbD l = true → (∀ j, src l = some j → act.getLsbD j = false) →
          t.curWarp.getV l o.d = s.opnd .bits o.a l ∧ (pd.val < 7 → (t.curWarp.pred pd.val).getLsbD l = false)) ∧
        t.curWarp.flags = s.flagsWith (s.active 0x210 o.g) (Src.vregs o.a 1 ++ Src.vregs o.b 1 ++ Src.vregs o.c 1) fun _ => 0
    let b (l : Nat) : Word := s.opnd .bits o.b l
    (∀ mode : QMode, moves (.qswap o pd mode) fun l => some (l ^^^ (match mode with | .x => 1 | .y => 2 | .d => 3))) ∧
    (∀ (seg : Fin 8), s.curWg.legacy16 = false →
      let n := if s.curWg.level < 3 ∨ seg.val = 7 then s.curWarp.width else 2 ^ seg.val
      let base (l : Nat) : Nat := l - l % n
      moves (.xlane o pd seg .pick) (fun l => some (base l + (b l).toNat % n)) ∧
      moves (.xlane o pd seg .shift) (fun l =>
        if (base l : Int) ≤ l + (b l).toInt ∧ (l : Int) + (b l).toInt < base l + n then some ((l : Int) + (b l).toInt).toNat else none) ∧
      moves (.xlane o pd seg .rot) (fun l => some (base l + (((l % n : Nat) : Int) + (b l).toInt) % n).toNat) ∧
      moves (.xlane o pd seg .flip) (fun l => some (l ^^^ ((b l).toNat % n)))) ∧
    (∀ (seg : Fin 8), s.curWg.legacy16 = true →
      moves (.xlane o pd seg .pick) (fun l => some ((b l).toNat % 16)) ∧
      moves (.xlane o pd seg .shift) (fun l => some (((l : Int) + (b l).toInt) % 16).toNat) ∧
      moves (.xlane o pd seg .rot) (fun l => some (((l : Int) + (b l).toInt) % 16).toNat) ∧
      moves (.xlane o pd seg .flip) (fun l => some ((l ^^^ (b l).toNat) % 16)))

/-- R227, R228, R229: every lane of ACTIVE gets from SCAN the combination, in rising lane order, of the LIVE lanes at or below it, and from WRED that of all
LIVE lanes in pairwise order, the identity where there is none; .ADD forms its sum exactly and delivers it by R213.
LPEER.LEAD gives each lane of ACTIVE the lowest LIVE lane that holds its value and how many do; LPEER.RANK gives how many of them lie below it. -/
def Obligations.ScanReduceAndPeers : Prop :=
  (∀ (s : State) (o : Args), o.d < 256 →
     let live := s.active 0x212 o.g
     let act := s.activeH 0x212 o.g
     let a (l : Nat) : Word := s.opnd .bits o.a l
     let below (l : Nat) : List Nat := (lanesOf live).filter (· ≤ l)
     let exact (ls : List Nat) : Int := ls.foldl (fun n j => n + (a j).toInt) 0
     let gives (i : Instr) (r : Nat → Word × Flags) : Prop :=
       LanesGet i s act o.d 1 (fun l => [(r l).1])
         (s.flagsWith live (Src.vregs o.a 1 ++ Src.vregs o.b 1 ++ Src.vregs o.c 1) (fun _ => 0)
           ||| (if live = 0 then 0 else orFlags ((lanesOf act).map fun l => (r l).2)).setWidth 32)
     (∀ sat, gives (.scan o (.add sat)) (fun l => (wrapOrClamp 32 false sat (exact (below l)), satRaised 32 false sat (exact (below l)))) ∧
       gives (.wred o (.add sat)) (fun _ => (wrapOrClamp 32 false sat (exact (lanesOf live)), satRaised 32 false sat (exact (lanesOf live))))) ∧
     (∀ red, gives (.scan o red) (fun l => redEnd red (sequential (redMode s.curWarp.mode red) red ((below l).map a)))) ∧
     (∀ red, gives (.wred o red) (fun _ => redEnd red (pairwise (redMode s.curWarp.mode red) red s.curWarp.width live a)))) ∧
  (∀ (s : State) (o : Args) (w64 : Bool),
     let live := s.active 0x216 o.g
     let act := s.activeH 0x216 o.g
     let bits (l : Nat) : DWord := if w64 then s.opnd64 .bits o.a l else (s.opnd .bits o.a l).setWidth 64
     let peer (l j : Nat) : Bool := live.getLsbD j && bits j == bits l
     let regs := Src.vregs o.a (if w64 then 2 else 1)
     (o.d + 1 < 256 → ∃ t, Completes (.lpeerLead o w64) s t { v := fun l r => act.getLsbD l && o.d ≤ r && r < o.d + 2, flags := true } ∧
       t.curWarp.flags = s.flagsWith live regs (fun _ => 0) ∧
       ∀ l, act.getLsbD l = true →
         t.curWarp.getV l (o.d + 1) = BitVec.ofNat 32 (((List.range 64).filter (peer l)).length) ∧
         ((∀ j, peer l j = false) → t.curWarp.getV l o.d = 0xFFFFFFFF) ∧
         (∀ j, peer l j = true → (∀ k < j, peer l k = false) → t.curWarp.getV l o.d = BitVec.ofNat 32 j)) ∧
     (o.d < 256 → LanesGet (.lpeerRank o w64) s act o.d 1
       (fun l => [BitVec.ofNat 32 (((List.range 64).filter fun j => peer l j && j < l).length)]) (s.flagsWith live regs fun _ => 0)))

/-- R124, R127, R133, R134, R230, R231: with a bound shape register, SEGSCAN gives each lane the combination of its sequence's LIVE lanes at or below it, and
SEGRED gives lane l the pairwise combination of the members of the l-th covered sequence; lanes with none get the identity; an empty sequence
delivered to a LIVE lane sets EMPTY. -/
def Obligations.SegmentedCombine : Prop :=
  ∀ (s : State) (o : Args) (red : RedMod) (sh : Nat) (neg : Bool), o.d < 256 → o.b = .obj (0x10 + sh) neg → (s.curWg.shape sh).bound = true →
    let img := (s.curWg.shape sh).image
    let row0 := (s.uni o.c).toNat
    let live := s.active 0x214 o.g
    let act := s.activeH 0x214 o.g
    let md := redMode s.curWarp.mode red
    let a (l : Nat) : Word := s.opnd .bits o.a l
    let member (n l : Nat) : Bool := live.getLsbD l && img.seq (row0 + l) == some n
    let cov := img.range row0 (row0 + s.curWarp.width)
    let scan (l : Nat) : Word × Flags :=
      match img.seq (row0 + l) with
      | none => (BitVec.ofNat 32 (redIdentity red), 0)
      | some n => redEnd red (sequential md red (((List.range (l + 1)).filter (member n)).map a))
    let reduce (l : Nat) : Word × Flags :=
      match resultSeq cov l with
      | none => (BitVec.ofNat 32 (redIdentity red), 0)
      | some n => redEnd red (pairwise md red s.curWarp.width (laneSet (member n)) a)
    let fl (r : Nat → Word × Flags) : Word :=
      s.flagsWith live (Src.vregs o.a 1 ++ Src.vregs o.b 1 ++ Src.vregs o.c 1) (fun _ => 0)
        ||| (if live = 0 then 0 else orFlags ((lanesOf act).map fun l => (r l).2)).setWidth 32
    let empty := (lanesOf live).any fun l => match resultSeq cov l with | some n => img.bound n == img.bound (n + 1) | none => false
    LanesGet (.segscan o red) s act o.d 1 (fun l => [(scan l).1]) (fl scan) ∧
    LanesGet (.segred o red) s act o.d 1 (fun l => [(reduce l).1]) (fl reduce ||| (if empty then 0x80 else 0))

/-- R232, R233: with a bound shape register, NSTAT gives lane l the member count, the sum and the sum of squares of the l-th covered sequence, and
NAPPLY gives each lane (a − mean) × scale, rounded once, with the mean and scale of its sequence's result lane; a lane without a sequence gets +0. -/
def Obligations.Normalisation : Prop :=
  ∀ (s : State) (o : Args) (sh : Fin 8), (s.curWg.shape sh.val).bound = true →
    let img := (s.curWg.shape sh.val).image
    let row0 := (s.uniF o.c).toNat
    let live := s.active 0x220 o.g
    let act := s.activeH 0x220 o.g
    let width := s.curWarp.width
    let cov := img.range row0 (row0 + width)
    (∀ nanp ftz rnd, o.d + 2 < 256 → o.b = .obj (0x10 + sh.val) false →
      let red : RedMod := .fadd rnd ftz nanp
      let md := redMode s.curWarp.mode red
      let a (l : Nat) : Word := s.opnd .float o.a l
      let square (l : Nat) : Nat × Flags := let x := fp32.value md.ftz (a l).toNat; fp32.mul md x x
      let members (n : Nat) : LaneMask := laneSet fun l => live.getLsbD l && img.seq (row0 + l) == some n
      let row (l : Nat) : List Word × Flags :=
        match resultSeq cov l with
        | none => ([0, 0, 0], 0)
        | some n =>
          let sum := redEnd red (pairwise md red width (members n) a)
          let sq := redEnd red (pairwise md red width (members n) fun j => BitVec.ofNat 32 (square j).1)
          ([BitVec.ofNat 32 (fp32.round {} false (lanesOf (members n)).length 0 false).1, sum.1, sq.1],
            sum.2 ||| sq.2 ||| orFlags ((lanesOf (members n)).map fun j => (square j).2))
      let empty := (lanesOf live).any fun l => match resultSeq cov l with | some n => img.bound n == img.bound (n + 1) | none => false
      LanesGet (.nstat o nanp ftz rnd) s act o.d 3 (fun l => (row l).1)
        (s.flagsWith live (Src.vregs o.a 1 ++ Src.vregs o.b 1 ++ Src.vregs o.c 1) (fun _ => 0)
          ||| (if live = 0 then 0 else orFlags ((lanesOf act).map fun l => (row l).2)).setWidth 32 ||| (if empty then 0x80 else 0))) ∧
    (∀ r n neg abs, o.d < 256 → o.b = .v n neg abs →
      let md := modeOf s.curWarp.mode r
      let x (y : Src) (l : Nat) : FVal := fp32.value md.ftz (s.opnd .float y l).toNat
      let out (l : Nat) : Nat × Flags :=
        match img.seq (row0 + l), cov with
        | some q, some (lo, _) =>
          if q - lo ≥ width ∨ act.getLsbD (q - lo) = false then (0x7FC00000, flagInvalid)
          else normalise md (x o.a l) (x (.v n neg abs) (q - lo)) (x (.v (n + 1) neg abs) (q - lo))
        | _, _ => (0, 0)
      LanesGet (.napply o sh r) s act o.d 1 (fun l => [BitVec.ofNat 32 (out l).1])
        (s.flagsWith live (Src.vregs o.a 1 ++ [n, n + 1]) fun l => (out l).2))

/-- R234: with a bound shape register, SMAXSTEP gives each lane of a sequence the new running maximum m and the powers 2^(a − m) and 2^(b − m); a lane
without one gets b, +0 and +1.0, and m = −∞ gives −∞, +0 and +0.
The precision in which the powers are formed is the model's choice (log entry 10). -/
def Obligations.SoftmaxStep : Prop :=
  ∀ (s : State) (o : Args) (sh : Fin 8) (nanp ftz : Bool) (rnd : RndSel), o.d + 2 < 256 → (s.curWg.shape sh.val).bound = true →
    let img := (s.curWg.shape sh.val).image
    let row0 := (s.uniF o.c).toNat
    let live := s.active 0x222 o.g
    let act := s.activeH 0x222 o.g
    let md := modeOf s.curWarp.mode { nanp := nanp, ftz := ftz, rnd := rnd }
    let a (l : Nat) : Word := s.opnd .float o.a l
    let b (l : Nat) : Word := s.opnd .float o.b l
    let val (x : Nat) : FVal := fp32.value md.ftz x
    let best (n : Nat) : Word × Flags :=
      redEnd (.fmax ftz nanp) (pairwise md (.fmax ftz nanp) s.curWarp.width
        (laneSet fun l => live.getLsbD l && img.seq (row0 + l) == some n) a)
    let peak (n l : Nat) : Nat × Flags := minMaxVal fp32 md true (val (b l).toNat) (val (best n).1.toNat) (b l).toNat (best n).1.toNat
    ∃ t, Completes (.smaxstep o sh nanp ftz rnd) s t { v := fun l r => act.getLsbD l && o.d ≤ r && r < o.d + 3, flags := true } ∧
      (∀ l, act.getLsbD l = true → img.seq (row0 + l) = none →
        t.curWarp.getV l o.d = b l ∧ t.curWarp.getV l (o.d + 1) = 0 ∧ t.curWarp.getV l (o.d + 2) = 0x3F800000) ∧
      (∀ l n, act.getLsbD l = true → img.seq (row0 + l) = some n → (peak n l).1 = 0xFF800000 →
        t.curWarp.getV l o.d = 0xFF800000 ∧ t.curWarp.getV l (o.d + 1) = 0 ∧ t.curWarp.getV l (o.d + 2) = 0) ∧
      (∀ l n, act.getLsbD l = true → img.seq (row0 + l) = some n → (peak n l).1 ≠ 0xFF800000 →
        t.curWarp.getV l o.d = BitVec.ofNat 32 (peak n l).1 ∧
        t.curWarp.getV l (o.d + 1) = BitVec.ofNat 32 (ex2Diff md (val (a l).toNat) (val (peak n l).1)).1 ∧
        t.curWarp.getV l (o.d + 2) = BitVec.ofNat 32 (ex2Diff md (val (b l).toNat) (val (peak n l).1)).1)

/-! ## Class 101: memory -/

/-- R44, R45, R47, R237, R238: a load from a lane slice, the scratchpad or a cluster member's scratchpad whose LIVE lanes' addresses are in range and aligned
gives each lane of ACTIVE its bytes, extended as the size says (a helper lane whose own address is not gets zero), and changes nothing else.
A store to a lane slice, the scratchpad or a cluster member's scratchpad whose LIVE lanes' addresses are in range and aligned
puts each lane's bytes at the address computed, the highest lane's where lanes overlap; every other byte of every scratchpad, every register
and everything else stay.
The premise Prompt (every store of the core is performed, and none is left for later) is one on the model's own record of stores that are not
performed yet (log entry 69); GlobalLoadsAndStores says what happens where it does not hold. -/
def Obligations.ScratchpadLoadsAndStores : Prop :=
  (∀ (s : State) (o : Args) (size : LdSize), s.Prompt → o.d + size.regs ≤ 256 →
     let wg := s.curWg
     let live := s.active 0x280 o.g
     let act := s.activeH 0x280 o.g
     let n := match size with | .u8 => 1 | .s8 => 1 | .u16 => 2 | .s16 => 2 | .b32 => 4 | .b64 => 8 | .b128 => 16
     let words (bs : List Byte) (k : Nat) : Word :=
       match size with
       | .s8 => (BitVec.ofNat 8 (ofBytes bs)).signExtend 32
       | .s16 => (BitVec.ofNat 16 (ofBytes bs)).signExtend 32
       | _ => BitVec.ofNat 32 (ofBytes bs / 2 ^ (32 * k))
     let loads (i : Instr) (addr extent first : Nat → Nat) (core : Nat → Nat) (there : Nat → Bool) : Prop :=
       let inside (l : Nat) : Bool := there l && decide (addr l + n ≤ extent l) && addr l % n == 0
       (∀ l, live.getLsbD l = true → inside l = true) →
         ∃ t, Completes i s t { v := fun l r => act.getLsbD l && o.d ≤ r && r < o.d + size.regs } ∧
           ∀ l k, act.getLsbD l = true → k < size.regs →
             t.curWarp.getV l (o.d + k) = if inside l then words ((s.core (core l)).spRead (first l + addr l) n) k else 0
     let addr (l : Nat) : Nat := ((s.opnd .int o.a l).setWidth 64 + s.opnd64 .bits o.b l).toNat
     let rank (l : Nat) : Nat := (s.opnd .bits o.b l).toNat
     let member (l : Nat) : Workgroup := s.wg (s.member s.cur.wg (rank l))
     loads (.ld o size .slice) addr (fun _ => wg.sliceBytes) (fun l => wg.sliceAt s.cur.warp l) (fun _ => wg.core) (fun _ => true) ∧
     loads (.ld o size .scratch) addr (fun _ => wg.userBytes) (fun _ => wg.user) (fun _ => wg.core) (fun _ => true) ∧
     loads (.ldCluster o size) (fun l => (s.opnd .int o.a l).toNat) (fun l => (member l).userBytes) (fun l => (member l).user)
       (fun l => (member l).core) (fun l => decide (rank l < wg.size))) ∧
  (∀ (s : State) (o : Args) (size : StSize), s.Prompt →
     let wg := s.curWg
     let live := s.active 0x281 o.g
     let n := match size with | .b8 => 1 | .b16 => 2 | .b32 => 4 | .b64 => 8 | .b128 => 16
     let data (l j : Nat) : Byte := (s.dataWords o.c 4 l)[j / 4]!.extractLsb' (8 * (j % 4)) 8
     let stores (i : Instr) (addr extent first core : Nat → Nat) (there : Nat → Bool) : Prop :=
       (∀ l, live.getLsbD l = true → there l = true ∧ addr l + n ≤ extent l ∧ addr l % n = 0) →
         ∃ t, CompletesInCores i s t ∧ (∀ c, (t.core c).withScratchOf (s.core c) = s.core c) ∧
           ∀ c a,
             let here (l : Nat) : Bool := live.getLsbD l && core l == c && decide (first l + addr l ≤ a) && decide (a < first l + addr l + n)
             (t.core c).sp a = match (List.range 64).reverse.find? here with
               | some l => data l (a - (first l + addr l))
               | none => (s.core c).sp a
     let addr (l : Nat) : Nat := ((s.opnd .int o.a l).setWidth 64 + s.opnd64 .bits o.b l).toNat
     let rank (l : Nat) : Nat := (s.opnd .bits o.b l).toNat
     let member (l : Nat) : Workgroup := s.wg (s.member s.cur.wg (rank l))
     stores (.st o size .slice) addr (fun _ => wg.sliceBytes) (fun l => wg.sliceAt s.cur.warp l) (fun _ => wg.core) (fun _ => true) ∧
     stores (.st o size .scratch) addr (fun _ => wg.userBytes) (fun _ => wg.user) (fun _ => wg.core) (fun _ => true) ∧
     stores (.stCluster o size) (fun l => (s.opnd .int o.a l).toNat) (fun l => (member l).userBytes) (fun l => (member l).user)
       (fun l => (member l).core) (fun l => decide (rank l < wg.size)))

/-- R61 to R64, R71 to R73, R79, R237, R238: a load from global memory or the cistern whose LIVE lanes' addresses translate, without helper lanes, gives each lane what
its core reads there (its own stores first, then the copy it holds, then the published bytes as its die sees them), or from a STREAM page the
published bytes; what is published stays, and no store of the core is published.
A store to a cached page of global memory or to the cistern stays on the core: the core reads each byte stored at the address
that translation gives, the highest lane's where lanes overlap, and every other byte as before; nothing is published and no register changes.
A store by one lane to an unencrypted STREAM page is published at once, and nothing else that is published changes.
A store may be performed later than its instruction (the model's own record of such stores, log entry 69): a lane of `lag` leaves its bytes, in
single-copy atomic parts, at the end of the core's late stores, and nothing else but the split's place changes; a late store is performed by
itself, as the store would have been; and a load of the split comes after its late stores that it meets. What the
other die sees of a narrow release, and when, is the model's choice too (log entry 64). -/
def Obligations.GlobalLoadsAndStores : Prop :=
  (∀ (s : State) (o : Args) (size : LdSize) (space : LsSpace) (pa : Nat → Nat) (attr : PageAttr), s.Prompt → o.d + size.regs ≤ 256 →
     space = .global ∨ space = .cistern →
     let live := s.active 0x280 o.g
     let n := (ldSize size).1
     let core := s.curWg.core
     s.activeH 0x280 o.g = live →
     (∀ l, live.getLsbD l = true →
       s.locate s.cur.wg s.cur.warp l space.toBits 0 (s.laneAddr o space.toBits true l) n .read = .ok (.mem (pa l) attr) ∧
         s.poisoned (pa l) n = false ∧ pa l % n = 0) →
     ∃ t, exec (.ld o size space) s = .next t ∧ t.curSplit = s.curSplit.advance ∧
       (∀ l k, live.getLsbD l = true → k < size.regs → t.curWarp.getV l (o.d + k) =
         (ldWords size ((List.range n).map fun j =>
           if attr.stream then s.homeByte attr.key (pa l + j) else s.coreSees core attr.key (pa l + j))).getD k 0) ∧
       (∀ l r, r < 256 → ¬(live.getLsbD l = true ∧ o.d ≤ r ∧ r < o.d + size.regs) → t.curWarp.getV l r = s.curWarp.getV l r) ∧
       (∀ r, t.curWarp.getK r = s.curWarp.getK r) ∧ t.curWarp.flags = s.curWarp.flags ∧
       (∀ key a, t.homeByte key a = s.homeByte key a) ∧ ∀ c, (t.core c).unpub = (s.core c).unpub ∧ (t.core c).scratch = (s.core c).scratch) ∧
  (∀ (s : State) (o : Args) (size : StSize) (space : LsSpace) (pa : Nat → Nat) (attr : Nat → PageAttr), s.Prompt → space = .global ∨ space = .cistern →
     let live := s.active 0x281 o.g
     let n := stSize size
     let core := s.curWg.core
     let data (l j : Nat) : Byte := (s.dataWords o.c 4 l)[j / 4]!.extractLsb' (8 * (j % 4)) 8
     (∀ l, live.getLsbD l = true →
       s.locate s.cur.wg s.cur.warp l space.toBits 0 (s.laneAddr o space.toBits true l) n .write = .ok (.mem (pa l) (attr l)) ∧ (attr l).stream = false) →
     ∃ t, CompletesInCores (.st o size space) s t ∧
       (∀ key a, t.coreByte core key a =
         match (List.range 64).reverse.find? fun l => live.getLsbD l && decide (pa l ≤ a) && decide (a < pa l + n) with
         | some l => reKey (attr l).key key a (data l (a - pa l))
         | none => s.coreByte core key a) ∧
       (∀ key a, t.homeByte key a = s.homeByte key a) ∧ (∀ c, c ≠ core → t.core c = s.core c) ∧
       (t.core core).scratch = (s.core core).scratch ∧ (t.core core).copies = (s.core core).copies) ∧
  (∀ (s : State) (o : Args) (size : StSize) (l pa : Nat) (attr : PageAttr), s.Prompt → s.active 0x281 o.g = 1#64 <<< l → l < 64 →
     s.locate s.cur.wg s.cur.warp l 0 0 (s.laneAddr o 0 true l) (stSize size) .write = .ok (.mem pa attr) →
     attr.stream = true → attr.key = none → (∀ line, s.lineKey line = none) →
     ∃ t, exec (.st o size .global) s = .next t ∧ t.wgs = s.advance.wgs ∧ s.HomeHas t pa (s.dataBytes o.c (stSize size) l)) ∧
  (∀ (s : State) (o : Args) (size : StSize) (l : Nat) (p : Place),
     let n := stSize size
     let core := s.curWg.core
     s.active 0x281 o.g = 1#64 <<< l → l < 64 → s.lag.getLsbD l = true →
     s.locate s.cur.wg s.cur.warp l 0 0 (s.laneAddr o 0 true l) n .write = .ok p →
     (∀ e ∈ (s.core core).late, e.isBefore s.cur.wg s.cur.warp s.cur.split = true → e.place.meets e.bytes.length p n = false) →
     let late (q : Place) (bs : List Byte) : LateStore :=
       { wg := s.cur.wg, warp := s.cur.warp, place := q, bytes := bs, own := [(s.cur.warp, s.cur.split)] }
     let bytes := s.dataBytes o.c n l
     let second : Place := match p with | .sp c a => .sp c (a + 8) | .mem a x => .mem (a + 8) x
     ∃ t, CompletesInCores (.st o size .global) s t ∧ (∀ c, c ≠ core → t.core c = s.core c) ∧
       (t.core core).late = (s.core core).late ++ (if n ≤ 8 then [late p bytes] else [late p (bytes.take 8), late second (bytes.drop 8)]) ∧
       { t.core core with late := (s.core core).late } = s.core core) ∧
  (∀ (s : State) (core ix : Nat) (e : LateStore), (s.core core).late[ix]? = some e →
     let t := s.performOne core ix
     (t.core core).late = (s.core core).late.eraseIdx ix ∧ t.wgs = s.wgs ∧
       (∀ c off, e.place = .sp c off → ∀ d a, (t.core d).sp a =
         if d = c ∧ off ≤ a ∧ a < off + e.bytes.length then e.bytes.getD (a - off) 0 else (s.core d).sp a) ∧
       (∀ pa x, e.place = .mem pa x → x.stream = false → (∀ key a, t.homeByte key a = s.homeByte key a) ∧
         ∀ a, pa ≤ a → a < pa + e.bytes.length → t.coreByte core x.key a = e.bytes.getD (a - pa) 0)) ∧
  (∀ (s : State) (o : Args) (size : LdSize) (l pa : Nat) (attr : PageAttr), o.d + size.regs ≤ 256 →
     let n := (ldSize size).1
     let core := s.curWg.core
     s.activeH 0x280 o.g = 1#64 <<< l → s.active 0x280 o.g = 1#64 <<< l → l < 64 → attr.stream = false → s.poisoned pa n = false →
     s.locate s.cur.wg s.cur.warp l 0 0 (s.laneAddr o 0 true l) n .read = .ok (.mem pa attr) →
     let s1 := s.performAt core s.cur.wg s.cur.warp s.cur.split n (.mem pa attr)
     ∃ t, exec (.ld o size .global) s = .next t ∧ t.curSplit = s.curSplit.advance ∧
       (∀ e ∈ (t.core core).late, e.isBefore s.cur.wg s.cur.warp s.cur.split = true → e.place.meets e.bytes.length (.mem pa attr) n = false) ∧
       ∀ k < size.regs, t.curWarp.getV l (o.d + k) =
         (ldWords size ((List.range n).map fun j => s1.coreSees core attr.key (pa + j))).getD k 0)

/-- R44, R51, R203, R239, R79: a load from a constant bank returns the words that the launch loaded, at 4 × the word offset plus base plus offset; an address beyond
the bank's 64 KiB, and then one that is not aligned, traps at the lowest LIVE lane, before any lane loads.
A KLD of global memory whose address translates loads into k registers what the split's core reads there. The model's choices: an offset field of
zero is no offset (log entry 22), NEG and ABS act on a base register (log entry 39), and the premise Prompt (log entry 69). -/
def Obligations.BankAndUniformLoads : Prop :=
  (∀ (s : State) (o : Args) (bank : Fin 16) (off : BitVec 14), o.c = .bank bank off →
     let addr (l : Nat) : Nat := (BitVec.ofNat 64 (4 * off.toNat) + (s.opnd .int o.a l).setWidth 64 + s.opnd64 .bits o.b l).toNat
     let word (l k : Nat) : Word := s.bankWord s.cur.wg bank.val (addr l / 4 + k)
     let live := s.active 0x282 o.g
     let act := s.activeH 0x282 o.g
     (∀ (size : LdcSize), o.d + size.regs ≤ 256 →
       let n := match size with | .b32 => 4 | .b64 => 8 | .b128 => 16
       let ok (l : Nat) : Bool := decide (addr l + n ≤ 65536) && addr l % n == 0
       ((∀ l, live.getLsbD l = true → ok l = true) →
         ∃ t, Completes (.ldc o size) s t { v := fun l r => act.getLsbD l && o.d ≤ r && r < o.d + size.regs } ∧
           ∀ l k, act.getLsbD l = true → k < size.regs → t.curWarp.getV l (o.d + k) = if ok l then word l k else 0) ∧
       (∀ l, live.getLsbD l = true → (∀ j < l, live.getLsbD j = true → ok j = true) → ok l = false →
         exec (.ldc o size) s = .next (s.trapAt (if addr l + n > 65536 then 0x20 else 0x21) (addr l) (6 + l * 256)))) ∧
     (∀ w64, s.acts 0x0C0 o.g = true →
       let n := if w64 then 8 else 4
       (addr 0 + n ≤ 65536 → addr 0 % n = 0 →
         ∃ t, Completes (.kldBank o w64) s t { k := fun r => r == o.d || (w64 && r == o.d + 1) } ∧
           t.curWarp.getK o.d = word 0 0 ∧ (w64 = true → t.curWarp.getK (o.d + 1) = word 0 1)) ∧
       (∀ l, ¬(addr 0 + n ≤ 65536 ∧ addr 0 % n = 0) → (s.active 0x0C0 o.g).getLsbD l = true → (∀ j < l, (s.active 0x0C0 o.g).getLsbD j = false) →
         exec (.kldBank o w64) s = .next (s.trapAt (if addr 0 + n > 65536 then 0x20 else 0x21) (addr 0) (6 + l * 256))))) ∧
  (∀ (s : State) (o : Args) (w64 : Bool) (pa : Nat) (attr : PageAttr), s.Prompt → s.acts 0x0C0 o.g = true →
     let n := if w64 then 8 else 4
     s.locate s.cur.wg s.cur.warp 0 0 0 (s.laneAddr o 0 true 0) n .read = .ok (.mem pa attr) → s.poisoned pa n = false → pa % n = 0 →
     let byte (j : Nat) : Byte := if attr.stream then s.homeByte attr.key (pa + j) else s.coreSees s.curWg.core attr.key (pa + j)
     ∃ t, exec (.kldGlobal o w64) s = .next t ∧ t.curSplit = s.curSplit.advance ∧
       t.curWarp.getK o.d = byte 3 ++ byte 2 ++ byte 1 ++ byte 0 ∧
       (w64 = true → t.curWarp.getK (o.d + 1) = byte 7 ++ byte 6 ++ byte 5 ++ byte 4) ∧
       (∀ r, r ≠ o.d → ¬(w64 = true ∧ r = o.d + 1) → t.curWarp.getK r = s.curWarp.getK r) ∧
       (∀ l r, t.curWarp.getV l r = s.curWarp.getV l r) ∧ ∀ key a, t.homeByte key a = s.homeByte key a)

/-- R50, R240, R241: LDA reads the view of the entry that each lane's index names, in the follower's windows under .FOL; STA writes it; an index outside
the allocation traps at the lowest LIVE lane with no entry accessed; .FOL without paired placement is an illegal operand whatever the lanes. -/
def Obligations.AccumulatorAccess : Prop :=
  (∀ (s : State) (o : Args) (view : View), s.curWg.paired = false →
    exec (.lda o view true) s = .next (s.trapAt 0x06 0 4) ∧ exec (.sta o view true) s = .next (s.trapAt 0x06 0 4)) ∧
  ∀ (s : State) (o : Args) (view : View) (fol : Bool), (fol = true → s.curWg.paired = true) →
    let core := s.curWg.core + if fol then 1 else 0
    let index (l : Nat) : Nat := ((s.opnd .bits o.a l).setWidth 64 + s.opnd64 .bits o.b l).toNat
    let limit := s.curWg.windows * 16384
    let entry (l : Nat) : Nat := s.curWg.window * 16384 + index l
    let old (l : Nat) : Entry := (s.core core).entry (entry l)
    let words := match view with | .b64 => 2 | _ => 1
    let inside (l : Nat) : Bool := decide (index l < limit)
    (o.d + words ≤ 256 → (∀ l, (s.active 0x283 o.g).getLsbD l = true → inside l = true) →
      LanesGet (.lda o view fol) s (s.activeH 0x283 o.g) o.d words
        (fun l => if inside l then
            match view with
            | .b64 => [(old l).extractLsb' 0 32, (old l).extractLsb' 32 32]
            | .f32 => [addF32 ((old l).extractLsb' 0 32) ((old l).extractLsb' 32 32)]
            | .i32 => [wrapOrClamp 32 false true (old l).toInt]
          else [0, 0])
        (s.curWarp.flags ||| (orFlags ((lanesOf (s.active 0x283 o.g)).map fun l =>
          if view = .i32 then satRaised 32 false true (old l).toInt else 0)).setWidth 32)) ∧
    ((∀ l, (s.active 0x284 o.g).getLsbD l = true → inside l = true) →
      ∃ t, CompletesInCores (.sta o view fol) s t ∧ (∀ c, c ≠ core → t.core c = s.core c) ∧
        (t.core core).withAccOf (s.core core) = s.core core ∧
        ∀ e, (t.core core).entry e =
          match (List.range 64).reverse.find? fun l => (s.active 0x284 o.g).getLsbD l && entry l == e with
          | none => (s.core core).entry e
          | some l =>
            let w (k : Nat) : Word := (s.dataWords o.c 2 l).getD k 0
            match view with
            | .b64 => w 1 ++ w 0
            | .f32 => (w 0).setWidth 64
            | .i32 => (w 0).signExtend 64) ∧
    (∀ l, (s.active 0x283 o.g).getLsbD l = true → (∀ j < l, (s.active 0x283 o.g).getLsbD j = true → inside j = true) → inside l = false →
      exec (.lda o view fol) s = .next (s.trapAt 0x20 (index l) (5 + l * 256)) ∧
      exec (.sta o view fol) s = .next (s.trapAt 0x20 (index l) (5 + l * 256)))

/-- R64, R82, R242, R243: an atomic on the scratchpad whose LIVE lanes name different places, each in range and aligned, leaves at each place what its operation
makes of the old value, which ATOM delivers to the lane's destination and ATOM.RED does not; every other byte, register and flag stays.
An atomic by one lane at DEVICE scope, on an unencrypted page of global memory, is performed at the home slice: the published bytes become
the sum, the old value goes to the destination register, and every other published byte stays. One at WARP or WG scope on a cached page is
performed in L1, which takes the line exclusive: the old value is the core's own store or what is published, the core reads the sum, nothing
is published, and every other core's copy becomes pending.
In which order lanes that name one place act is left free (log entry 11), so the lanes here name different places; the premise Prompt is on
the model's record of stores that are not performed yet (log entry 69); a STREAM page at WARP or WG scope (log entry 76) is not stated. -/
def Obligations.Atomics : Prop :=
  (∀ (s : State) (o : Args) (scope : Scope) (sel : AtomSel), s.Prompt →
     let wg := s.curWg
     let live := s.active 0x285 o.g
     let n := match sel.op with | .int _ true => 8 | _ => 4
     let addr (l : Nat) : Nat := (s.opnd .int o.a l).toNat
     let at_ (l : Nat) : Nat := wg.user + addr l
     let old (l : Nat) : Nat := ofBytes ((s.core wg.core).spRead (at_ l) n)
     let w (l k : Nat) : Word := (s.dataWords o.c 4 l).getD k 0
     let int {m : Nat} (op : IntAtom) (x y z : BitVec m) : BitVec m :=
       match op with
       | .add => x + y
       | .smin => if y.toInt < x.toInt then y else x
       | .smax => if x.toInt < y.toInt then y else x
       | .umin => if y.toNat < x.toNat then y else x
       | .umax => if x.toNat < y.toNat then y else x
       | .and_ => x &&& y
       | .or_ => x ||| y
       | .xor_ => x ^^^ y
       | .exch => y
       | .cas => if x = y then z else x
     let new (l : Nat) : Nat :=
       match sel.op with
       | .int op true => (int op (BitVec.ofNat 64 (old l)) (w l 1 ++ w l 0) (w l 3 ++ w l 2)).toNat
       | .int op false => (int op (BitVec.ofNat 32 (old l)) (w l 0) (w l 1)).toNat
       | .fadd => (addF32 (BitVec.ofNat 32 (old l)) (w l 0)).toNat
       | .fmin => (minMaxVal fp32 {} false (fp32.value false (old l)) (fp32.value false (w l 0).toNat) (old l) (w l 0).toNat).1
       | .fmax => (minMaxVal fp32 {} true (fp32.value false (old l)) (fp32.value false (w l 0).toNat) (old l) (w l 0).toNat).1
     (∀ l, live.getLsbD l = true → addr l + n ≤ wg.userBytes ∧ addr l % n = 0) →
     (∀ l j, live.getLsbD l = true → live.getLsbD j = true → addr l = addr j → l = j) →
     let memory (t : State) : Prop :=
       (∀ c, (t.core c).withScratchOf (s.core c) = s.core c) ∧ (∀ c, c ≠ wg.core → ∀ a, (t.core c).sp a = (s.core c).sp a) ∧
         ∀ a, (t.core wg.core).sp a =
           match (List.range 64).find? fun l => live.getLsbD l && decide (at_ l ≤ a) && decide (a < at_ l + n) with
           | some l => byteAt (new l) (a - at_ l)
           | none => (s.core wg.core).sp a
     (∃ t, exec (.atomRed o scope .scratch sel) s = .next t ∧ t.wgs = s.advance.wgs ∧ memory t) ∧
     (o.d + n / 4 ≤ 256 → ∃ t, exec (.atom o scope .scratch sel) s = .next t ∧ t.curSplit = s.curSplit.advance ∧ memory t ∧
       (∀ l k, live.getLsbD l = true → k < n / 4 → t.curWarp.getV l (o.d + k) = BitVec.ofNat 32 (old l / 2 ^ (32 * k))) ∧
       (∀ l r, r < 256 → ¬(live.getLsbD l = true ∧ o.d ≤ r ∧ r < o.d + n / 4) → t.curWarp.getV l r = s.curWarp.getV l r) ∧
       (∀ r, t.curWarp.getK r = s.curWarp.getK r) ∧ t.curWarp.flags = s.curWarp.flags)) ∧
  (∀ (s : State) (o : Args) (scope : Scope) (l pa : Nat) (attr : PageAttr), s.Prompt → s.active 0x285 o.g = 1#64 <<< l → l < 64 → o.d < 256 →
     let sel : AtomSel := { op := .int .add false, rank := 0 }
     let core := s.curWg.core
     scope = .warp ∨ scope = .wg → attr.stream = false →
     s.locate s.cur.wg s.cur.warp l 0 0 (s.laneAddr o 0 false l) 4 .atomic = .ok (.mem pa attr) →
     isHbm pa = true → pa % 4 = 0 → s.poisoned pa 4 = false →
     let byte (j : Nat) : Byte :=
       match (s.core core).heldStore (pa + j) with
       | some h => reKey h.attr.key attr.key (pa + j) h.byte
       | none => s.homeByte attr.key (pa + j)
     let old : Word := byte 3 ++ byte 2 ++ byte 1 ++ byte 0
     let new : Word := old + (s.dataWords o.c 1 l).getD 0 0
     ∃ t, exec (.atom o scope .global sel) s = .next t ∧ t.curSplit = s.curSplit.advance ∧ t.curWarp.getV l o.d = old ∧
       (∀ j, j < 4 → t.coreByte core attr.key (pa + j) = new.extractLsb' (8 * j) 8) ∧ (∀ key a, t.homeByte key a = s.homeByte key a) ∧
       (∀ c, c ≠ core → (sget (fun _ => ({} : LineCopy)) (s.core c).copies (lineOf pa)).live = true →
         (sget (fun _ => ({} : LineCopy)) (t.core c).copies (lineOf pa)).pending = true) ∧
       (∀ j r, r < 256 → ¬(j = l ∧ r = o.d) → t.curWarp.getV j r = s.curWarp.getV j r)) ∧
  (∀ (s : State) (o : Args) (l pa : Nat) (attr : PageAttr), s.Prompt → s.active 0x285 o.g = 1#64 <<< l → l < 64 → o.d < 256 →
     let sel : AtomSel := { op := .int .add false, rank := 0 }
     s.locate s.cur.wg s.cur.warp l 0 0 (s.laneAddr o 0 false l) 4 .atomic = .ok (.mem pa attr) →
     isHbm pa = true → pa % 4 = 0 → attr.key = none → (∀ line, s.lineKey line = none) → s.poisoned pa 4 = false →
     let old : Word := s.homeByte none (pa + 3) ++ s.homeByte none (pa + 2) ++ s.homeByte none (pa + 1) ++ s.homeByte none pa
     let new : Word := old + (s.dataWords o.c 1 l).getD 0 0
     ∃ t, exec (.atom o .device .global sel) s = .next t ∧ t.curSplit = s.curSplit.advance ∧ t.curWarp.getV l o.d = old ∧
       (∀ j, j < 4 → t.homeByte none (pa + j) = new.extractLsb' (8 * j) 8) ∧
       (∀ a, a < pa ∨ pa + 4 ≤ a → t.homeByte none a = s.homeByte none a) ∧
       (∀ j r, r < 256 → ¬(j = l ∧ r = o.d) → t.curWarp.getV j r = s.curWarp.getV j r))

/-- R135, R244: a ragged load from the scratchpad whose LIVE rows all have one sequence gives each LIVE lane its words; where they differ, a register whose
policy is FILL gives SHAPE.FILL to the lanes whose sequence is not the first lane's, and .NOCROSS or a policy of fault traps before any lane
loads. The premise Prompt is on the model's record of stores that are not performed yet (log entry 69). -/
def Obligations.RaggedLoad : Prop :=
  ∀ (s : State) (o : Args) (size : SeqSize) (nocross : Bool) (sh : Nat) (neg : Bool), s.Prompt → o.d + size.regs ≤ 256 → o.c = .obj (0x10 + sh) neg →
    (s.curWg.shape sh).bound = true →
    let wg := s.curWg
    let img := (wg.shape sh).image
    let live := s.active 0x287 o.g
    let n := 4 * size.regs
    let addr (l : Nat) : Nat := (s.opnd .int o.a l).toNat
    let seq (l : Nat) : Option Nat := img.seq ((s.uni o.b).toNat + l)
    s.activeH 0x287 o.g = live →
    ∀ first, live.getLsbD first = true → (∀ j < first, live.getLsbD j = false) →
      let crosses := ∃ l, live.getLsbD l = true ∧ seq l ≠ seq first
      let fills (l : Nat) : Prop := crosses ∧ img.cross = 1 ∧ seq l ≠ seq first
      (crosses → (nocross = true ∨ img.cross = 2) →
        exec (.ldseq o size nocross .scratch) s = .next (s.trapAt 0x30 0 (sh + img.gen.toNat * 2 ^ 32))) ∧
      (¬(crosses ∧ (nocross = true ∨ img.cross = 2)) →
        (∀ l, live.getLsbD l = true → ¬fills l → addr l + n ≤ wg.userBytes ∧ addr l % n = 0) →
        ∃ t, Completes (.ldseq o size nocross .scratch) s t { v := fun l r => live.getLsbD l && o.d ≤ r && r < o.d + size.regs } ∧
          ∀ l k, live.getLsbD l = true → k < size.regs →
            (fills l → t.curWarp.getV l (o.d + k) = img.fill) ∧
            (¬fills l → t.curWarp.getV l (o.d + k) =
              BitVec.ofNat 32 (ofBytes ((s.core wg.core).spRead (wg.user + addr l + 4 * k) 4))))

/-- R55, R62, R63, R245: PREFETCH and CCTL flow on, write no register, scratchpad byte or accumulator entry, and leave every core's unpublished
stores their bytes; CCTL.EVICTALL leaves the core no line in its L1, and changes no byte that a core would deliver. That EVICTALL evicts every
copy of the core (log entry 44) and that a translation these make walks within their act (log entry 9) are the model's choices. -/
def Obligations.CacheHints : Prop :=
  ∀ (s : State) (o : Args),
    let quiet (i : Instr) : Prop :=
      ∃ t, exec i s = .next t ∧ t.wgs = s.advance.wgs ∧ ∀ c, (t.core c).scratch = (s.core c).scratch ∧ (t.core c).acc = (s.core c).acc ∧
        ∀ pa, (t.core c).heldByte pa = (s.core c).heldByte pa
    (∀ lvl space, quiet (.prefetch o lvl space)) ∧ (∀ space, quiet (.cctlEvict o space)) ∧ quiet (.cctlEvictall o) ∧
    (s.acts 0x289 o.g = true → ∃ t, exec (.cctlEvictall o) s = .next t ∧
      (∀ line, (sget (fun _ => ({} : LineCopy)) s.curCore.copies line).live = true →
        (sget (fun _ => ({} : LineCopy)) (t.core s.curWg.core).copies line).inL1 = false) ∧
      ∀ c key pa, t.coreByte c key pa = s.coreByte c key pa)

/-- R44, R55, R57, R238: where some LIVE lane's access does not succeed, no lane loads or stores: the lowest such lane traps precisely, with its address and
its number in the record, or waits for its page walk. Which lane and which check are reported is the model's reading (log entry 36).
The fields that record a wait and its turn are the model's own (log entry 3). -/
def Obligations.LaneFaultIsPrecise : Prop :=
  ∀ (s : State) (o : Args) (space : LsSpace) (l : Nat),
    let sp := space.toBits
    let addr (j : Nat) : Nat := s.laneAddr o sp true j
    (∀ (size : LdSize), let live := s.active 0x280 o.g
      let loc (j : Nat) : Located := s.locate s.cur.wg s.cur.warp j sp 0 (addr j) (ldSize size).1 .read
      live.getLsbD l = true → (∀ j < l, live.getLsbD j = true → ∃ p, loc j = .ok p) →
      (∀ f, loc l = .fault f → exec (.ld o size space) s = .next (s.trapAt f.code f.addr (f.data + l * 256))) ∧
      (loc l = .miss → ∃ t, exec (.ld o size space) s = .next t ∧ t.curSplit.st = .wait ∧ t.curSplit.wait = .walk ∧
        t.curSplit.pc = s.curSplit.pc ∧ (∀ j r, t.curWarp.getV j r = s.curWarp.getV j r) ∧ t.cores = s.cores)) ∧
    (∀ (size : StSize), let live := s.active 0x281 o.g
      let loc (j : Nat) : Located := s.locate s.cur.wg s.cur.warp j sp 0 (addr j) (stSize size) .write
      live.getLsbD l = true → (∀ j < l, live.getLsbD j = true → ∃ p, loc j = .ok p) →
      (∀ f, loc l = .fault f → exec (.st o size space) s = .next (s.trapAt f.code f.addr (f.data + l * 256))) ∧
      (loc l = .miss → ∃ t, exec (.st o size space) s = .next t ∧ t.curSplit.st = .wait ∧ t.curSplit.wait = .walk ∧
        t.curSplit.pc = s.curSplit.pc ∧ t.cores = s.cores ∧ t.mem = s.mem))

/-! ## Class 000: transfers, exits, joins, loops -/

/-- R139, R173, R175, R176, R179, R32, R33: NOP flows on. A transfer whose guard holds nowhere flows on; one whose targets pass R141 goes to its target where every
lane of the mask takes it, and otherwise divides the split: the taken lanes go to the free entry of lowest index, or, where none is
free, the rest becomes a deferred record. A call writes its link; nothing else of the warp changes. Which lanes a partial guard with unequal
targets takes is the model's choice (log entry 81), and so is the record of stores that are not performed yet, which the new split shares (69).
That the record of a target's fetch fault has REC.SLOT zero is its reading (65). -/
def Obligations.Transfers : Prop :=
  ∀ (s : State) (o : Args) (klink : Bool) (i : Instr) (op : Nat) (link : Link) (tgt : Nat → DWord),
    let x := s.curSplit
    let direct (d : Int) : DWord := (BitVec.ofInt 57 ((PC.line x.pc : Int) + d / 8 * 64 + d % 8)).setWidth 64
    Completes (.nop o) s s.advance {} ∧
    (((i, op, link) ∈ [(.bra o, 1, Link.none), (.call o klink, 3, if klink then .k o.d else .v o.d)] ∧
        ((∃ d, o.a = .imm d ∧ tgt = fun _ => direct d.toInt) ∨ (∃ ix d, o.a = .trail ix d ∧ tgt = fun _ => direct d.toInt))) ∨
      ((i, op, link) ∈ [(.brx o, 2, Link.none), (.callx o klink, 4, if klink then .k o.d else .v o.d), (.ret o, 5, .none)] ∧
        tgt = fun l => s.opnd64 .bits o.a l) →
    let act := s.active op o.g
    let next := nextPc x.line x.pc
    (act = 0 → Completes i s s.advance {}) ∧
    (∀ s1 f l, s.checkTargets s.curWg.ctx tgt (lanesOf act) [] = (s1, some (f, l)) → exec i s = .next (s1.transferTrap f l)) ∧
    (∀ s1 l0, s.checkTargets s.curWg.ctx tgt (lanesOf act) [] = (s1, none) → x.live = true →
      act.getLsbD l0 = true → (∀ j < l0, act.getLsbD j = false) →
      let pc : PC := (tgt l0).setWidth 57
      let side := act &&& laneSet fun l => tgt l == tgt l0
      let rest : PC × Bool := if side = act then next else (x.pc, x.seq)
      let goes (p : State → Prop) : Prop :=
        ∃ t, exec i s = .next t ∧ (t.withWgsOf s1).withCoresOf s1 = s1 ∧ (∀ c, { t.core c with late := (s1.core c).late } = s1.core c) ∧
          ((s1.core s.curWg.core).late = [] → t.cores = s1.cores) ∧ t.curWarp.withSplitsOf s.curWarp = s.curWarp.setLink link act next.1 ∧
          (∀ g, g ≠ s.cur.wg → t.wg g = s.wg g) ∧ (∀ w, w ≠ s.cur.warp → t.warp s.cur.wg w = s.warp s.cur.wg w) ∧
          t.curWg.withWarpsOf s.curWg = s.curWg ∧ p t
      s1.wgs = s.wgs ∧
      (side = x.mask → goes fun t => t.curSplit = x.goTo pc false) ∧
      (side ≠ x.mask → s1.traces s.curWg.core s.curWg.ctx 4 = false →
        (∀ n, s.curWarp.freeEntry = some n → goes fun t =>
          t.split s.cur.wg s.cur.warp n = { live := true, pc := pc, mask := side, loops := x.loops, since := s.tick } ∧
          t.curSplit = { x.goTo rest.1 rest.2 with mask := x.mask &&& ~~~side }) ∧
        (s.curWarp.freeEntry = none → x.defer.length < 4 → goes fun t =>
          t.curSplit = { x.goTo pc false with
            mask := side, defer := { arrived := false, pc := rest.1, seq := rest.2, mask := x.mask &&& ~~~side } :: x.defer }) ∧
        (s.curWarp.freeEntry = none → 4 ≤ x.defer.length → exec i s = .next (s1.trapAt 0x13 0 0)))))

/-- R36, R74, R177, R34, R35, R178: EXIT removes the lanes of ACTIVE from the mask, and the others flow on. The last lanes hand the entry to its deferred part, or free it; the last
entry of a warp ends the warp, and the last warp of a workgroup ends it with a release at DEVICE scope.
A JOIN with an empty deferral stack waits for the warp's other splits, or fuses in the lower entry with the split that waits at its PC; on a stack
whose top record is deferred it lets that part resume, and on one whose top record arrived here it unites with it; records that disagree trap.
The fields that record a wait and its turn are the model's own (log entry 3). -/
def Obligations.ExitsAndJoins : Prop :=
  (∀ (s : State) (o : Args),
     let x := s.curSplit
     let g := s.cur.wg
     let w := s.cur.warp
     let rest := x.mask &&& ~~~(s.active 6 o.g)
     (rest ≠ 0 → ∃ t, exec (.exit o) s = .next t ∧ OnlyTouches s t {} ∧ t.curSplit = { x.advance with mask := rest }) ∧
     (rest = 0 → s.traces s.curWg.core s.curWg.ctx 4 = false →
       (∀ r tail, x.defer = r :: tail → r.arrived = false → ∃ t, exec (.exit o) s = .next t ∧ OnlyTouches s t {} ∧
         t.curSplit = { x.goTo r.pc r.seq with mask := r.mask, defer := tail }) ∧
       (x.defer = [] → x.handler = false →
         (∀ m, m < 4 → m ≠ s.cur.split → (s.split g w m).live = true → ∃ t, exec (.exit o) s = .next t ∧ SameElsewhere s t ∧
           t.curSplit = {} ∧ t.curWarp.withSplitsOf s.curWarp = s.curWarp ∧ t.split g w m = s.split g w m) ∧
         ((∀ m, m < 4 → m ≠ s.cur.split → (s.split g w m).live = false) → s.cur.split < 4 →
           ∃ t, exec (.exit o) s = .next t ∧ t.curSplit = {} ∧ t.curWarp.exited = true ∧
             ((∀ p ∈ s.curWg.warps, p.1 ≠ w → p.2.exited = true) →
               t.curWg.exited = true ∧ ({ wg := g, who := none, scope := .device } : Release) ∈ (t.core s.curWg.core).releases))))) ∧
  (∀ (s : State) (o : Args),
     let x := s.curSplit
     let n := s.cur.split
     let waits (m : Nat) : Prop :=
       m ≠ n ∧ (s.split s.cur.wg s.cur.warp m).live = true ∧ (s.split s.cur.wg s.cur.warp m).st = .joinWait ∧
         (s.split s.cur.wg s.cur.warp m).pc = x.pc
     (x.defer = [] → (∀ m < 4, ¬waits m) →
       ∃ t, exec (.join o) s = .next t ∧ OnlyTouches s t {} ∧ t.curSplit = { x with st := .joinWait, since := s.tick }) ∧
     (∀ m, m < 4 → waits m → (∀ j < m, ¬waits j) → x.defer = [] →
       let y := s.split s.cur.wg s.cur.warp m
       (y.loops ≠ x.loops → exec (.join o) s = .next (s.trapAt 0x14 x.pc.toNat 0)) ∧
       (y.loops = x.loops → s.traces s.curWg.core s.curWg.ctx 4 = false → x.live = true → (s.core s.curWg.core).late = [] → ∃ t, exec (.join o) s = .next t ∧ SameElsewhere s t ∧
         t.curWarp.withSplitsOf s.curWarp = s.curWarp ∧ t.split s.cur.wg s.cur.warp (max n m) = {} ∧
         let z := t.split s.cur.wg s.cur.warp (min n m)
         z.live = true ∧ z.st = .joinWait ∧ z.pc = x.pc ∧ z.mask = x.mask ||| y.mask ∧ z.loops = x.loops ∧ z.defer = [])) ∧
     (∀ r tail, x.defer = r :: tail →
       (r.arrived = false → ∃ t, exec (.join o) s = .next t ∧ OnlyTouches s t {} ∧
         t.curSplit = { x.goTo r.pc r.seq with mask := r.mask, defer := { arrived := true, pc := x.pc, mask := x.mask } :: tail }) ∧
       (r.arrived = true → r.pc ≠ x.pc → exec (.join o) s = .next (s.trapAt 0x14 r.pc.toNat 0)) ∧
       (r.arrived = true → r.pc = x.pc → tail = [] → (∀ m < 4, ¬waits m) → ∃ t, exec (.join o) s = .next t ∧ OnlyTouches s t {} ∧
         t.curSplit = ({ x with mask := x.mask ||| r.mask, defer := [] } : Split).advance)))

/-- R180 to R184: a LOOP whose checks pass pushes its record and goes to its first slot, or, for a count of 0, runs the end test for the enclosing record; an instruction
that completes at the end slot counts the record down and goes back to the first slot, or leaves; BRK leaves the innermost loop. Where a fetch that LOOP
or BRK checks faults, the split traps there, and the record names the lowest lane of the mask or of LIVE.
That such a record has REC.SLOT zero is the model's reading (log entry 65). -/
def Obligations.Loops : Prop :=
  ∀ (s : State) (o : Args),
    let x := s.curSplit
    let n := s.uni o.a
    let act := s.active 9 o.g
    (x.defer ≠ [] → exec (.loop o) s = .next (s.trapAt 0x15 0 1)) ∧
    (x.defer = [] → 4 ≤ x.loops.length → exec (.loop o) s = .next (s.trapAt 0x15 0 2)) ∧
    (∀ s1 c, s.loopCheck o.b = (s1, .illegal c) → exec (.loop o) s = .next (s1.trapAt 0x15 0 c)) ∧
    (∀ s1 f l, s.loopCheck o.b = (s1, .fault f) → x.mask.getLsbD l = true → (∀ j < l, x.mask.getLsbD j = false) →
      exec (.loop o) s = .next (s1.transferTrap f l)) ∧
    (∀ s1 f l, act.getLsbD l = true → (∀ j < l, act.getLsbD j = false) → x.loops ≠ [] → x.defer = [] →
      (∀ r, x.loops.head? = some r → s.pcAfter s.curWg.ctx r.endPc = (s1, .inr f)) → s1.curSplit = x ∧ exec (.brk o) s = .next (s1.transferTrap f l)) ∧
    (∀ s1 first last after, s.loopCheck o.b = (s1, .ok first last after) → s1.wgs = s.wgs ∧
      ∃ t, exec (.loop o) s = .next t ∧ OnlyTouches s1 t {} ∧
        (n ≠ 0 → t.curSplit = { x.goTo first false with
          loops := { first := first, endLine := (PC.line last - PC.line first) / 64, endSlot := PC.slot last, count := n } :: x.loops }) ∧
        (n = 0 → x.loops.head?.all (fun r => !r.endsAt last) = true → t.curSplit = x.goTo after false) ∧
        (n = 0 → ∀ r outer, x.loops = r :: outer → r.endsAt last = true → r.count ≠ 1 →
          t.curSplit = { x.goTo r.first false with loops := { r with count := r.count - 1 } :: outer })) ∧
    (∀ r outer, x.loops = r :: outer → r.endsAt x.pc = true →
      (r.count ≠ 1 → x.advance = { x.goTo r.first false with loops := { r with count := r.count - 1 } :: outer }) ∧
      (r.count = 1 → outer = [] → x.advance = { x.goTo (nextPc x.line x.pc).1 (nextPc x.line x.pc).2 with loops := [] })) ∧
    (act = 0 → Completes (.brk o) s s.advance {}) ∧
    (act ≠ 0 → (x.loops = [] ∨ x.defer ≠ []) → exec (.brk o) s = .next (s.trapAt 0x15 0 0)) ∧
    (∀ r outer s1 after, act ≠ 0 → x.loops = r :: outer → x.defer = [] → s.pcAfter s.curWg.ctx r.endPc = (s1, .inl after) → s1.wgs = s.wgs ∧
      (act = x.mask → ∃ t, exec (.brk o) s = .next t ∧ OnlyTouches s1 t {} ∧ t.curSplit = { x.goTo after false with loops := outer }) ∧
      (act ≠ x.mask → s.curWarp.freeEntry = none → exec (.brk o) s = .next (s1.trapAt 0x15 0 0)) ∧
      (∀ m, act ≠ x.mask → x.live = true → (s1.core s.curWg.core).late = [] → s.curWarp.freeEntry = some m → s1.traces s.curWg.core s.curWg.ctx 4 = false →
        ∃ t, exec (.brk o) s = .next t ∧ SameElsewhere s1 t ∧ t.curWarp.withSplitsOf s.curWarp = s.curWarp ∧
          t.split s.cur.wg s.cur.warp m = { live := true, pc := after, mask := act, loops := outer, since := s.tick } ∧
          t.curSplit = { x.goTo (nextPc x.line x.pc).1 (nextPc x.line x.pc).2 with mask := x.mask &&& ~~~act }))

/-! ## Class 000: waits, barriers, flumes, ordering, election -/

/-- R141, R174, R185, R186, R187: a WAIT or YIELD whose condition holds at issue goes on at once, at the next PC or at its label, and writes kpd, true only for a transaction barrier that has
failed; otherwise its split waits, or traps where the far role of its flume has exited, or where its label's target fails the checks of a transfer. A condition that has come true
while a split waits stands, and the split goes on, unless a sibling's handler runs; when that is, is the model's choice (log entry 45), and so is SPLIT.PC
of a waiting split (46). A barrier is read here where no store of the split to its bytes is still to be performed (log entry 69).
The fields that record a wait and its turn are the model's own (log entry 3). -/
def Obligations.WaitAndYield : Prop :=
  ∀ (s : State) (o : Args) (kind : WaitKind),
    let wg := s.curWg
    let x := s.curSplit
    let f := objNum o.a 0x80
    let off := (s.uni o.a).toNat
    let id := (s.uni o.a).toNat
    let b := s.tbar s.cur.wg off
    let failed : Bool := b.mark != 0xB7 || !b.valid || b.poison
    let legal : Prop :=
      match kind with
      | .tb => off + 16 ≤ wg.userBytes ∧ off % 16 = 0
      | .tl => (id / 2 ^ 28 = 0 ∧ id < 80) ∨ (id / 2 ^ 28 = 1 ∧ id % 2 ^ 28 < 2) ∨ (id / 2 ^ 28 = 2 ∧ id % 2 ^ 28 < 4096)
      | _ => True
    let holds : Prop :=
      match kind with
      | .tb => failed = true ∨ b.phase ≠ (s.uni o.c).toNat % 16
      | .nempty => (wg.flume f).items ≠ []
      | .nfull => (wg.flume f).items.length < (wg.flume f).depth
      | .tl => (s.uni64 o.c).toNat ≤ (s.timeline wg.ctx id).count
    let orphan : Prop :=
      match kind with
      | .nempty => (∀ p ∈ wg.warps, p.2.role = (wg.flume f).prod → p.2.exited = true)
      | .nfull => (∀ p ∈ wg.warps, p.2.role = (wg.flume f).cons → p.2.exited = true)
      | _ => False
    let fail : Bool := kind == .tb && failed
    let writes (t : State) : Prop := (o.d < 7 → t.curWarp.upred o.d = fail)
    let waits (i : Instr) (s1 : State) : Prop :=
      ∃ t, exec i s = .next t ∧ OnlyTouches s1 t {} ∧ t.curSplit.st = .wait ∧ t.curSplit.pend = some i ∧ t.curSplit.pc = x.pc ∧ t.curSplit.mask = x.mask
    let kp : Touched := { kp := fun n => n == o.d && decide (n < 7) }
    let quiet : Prop := kind = .tb → ∀ e ∈ (s.core wg.core).late, e.isBefore s.cur.wg s.cur.warp s.cur.split = true →
      e.place.meets e.bytes.length (.sp wg.core (wg.user + off)) 16 = false
    (s.acts 0x00B o.g = false → Completes (.wait o kind) s s.advance {} ∧ Completes (.yield o kind) s s.advance {}) ∧
    (s.acts 0x00B o.g = true → legal → quiet → (s.cur.warp, s.curWarp) ∈ wg.warps → (∀ p ∈ wg.warps, p.1 = s.cur.warp → p.2 = s.curWarp) →
      (holds → ∃ t, Completes (.wait o kind) s t kp ∧ writes t) ∧
      (¬holds → ¬orphan → waits (.wait o kind) s) ∧
      (¬holds → orphan → exec (.wait o kind) s = .next (s.trapAt 0x17 0 f)) ∧
      (∀ s1, s.checkTarget wg.ctx (s.dispTarget o.b) = (s1, none) → s1.wgs = s.wgs ∧
        (holds → ∃ t, exec (.yield o kind) s = .next t ∧ OnlyTouches s1 t kp ∧ t.curSplit = x.goTo (s.dispTarget o.b) false ∧ writes t) ∧
        (¬holds → ¬orphan → waits (.yield o kind) s1)) ∧
      (∀ s1 fl l, s.checkTarget wg.ctx (s.dispTarget o.b) = (s1, some fl) → (s.active 0x00B o.g).getLsbD l = true →
        (∀ j < l, (s.active 0x00B o.g).getLsbD j = false) → exec (.yield o kind) s = .next (s1.transferTrap fl l))) ∧
    (∀ g w n, let y := s.split g w n
      y.live = true → y.st = .wait → y.pend = some (.wait o kind) ∨ y.pend = some (.yield o kind) →
      let now := y.met.elim (s.waitHolds g y.wait) fun fl => (true, fl)
      (now.1 = true → s.frozen g w n = false → ∃ t, exec (.waitWake g w n) s = .next t ∧ (t.split g w n).st ≠ .wait ∧ t.withWgsOf s = { s with cur := t.cur } ∧
        (y.pend = some (.wait o kind) → (t.split g w n).pc = y.advance.pc) ∧ (o.d < 7 → (t.warp g w).upred o.d = now.2)) ∧
      (now.1 = false → exec (.waitWake g w n) s = .next s) ∧
      (now.1 = true → (s.settleWaits.split g w n) = { y with met := some now.2 }))

/-- R189, R190, R191: at a workgroup barrier, an arrival of a member reads the generation, and opens the next one where it is the count-th, with the pending configuration; a non-member
traps. BAR.SYNC arrives and waits; BAR.WAIT goes on where its generation is complete, and waits otherwise. BAR.INIT and BAR.MASK set the barrier up, or trap.
At a barrier of CLUSTER scope an arrival of a member workgroup first waits for its release, and then does the same on the node, where the count-th one wakes the waiting splits of
every member that stands still for no handler. What an arrival performs of the stores before it first, and that a maths warp's array instructions come before it,
is the fence of R72 (log entries 42 and 69).
The fields that record a wait and its turn are the model's own (log entry 3). So is the number
by which a trap names a barrier (38). -/
def Obligations.NamedBarriers : Prop :=
  ∀ (s : State) (o : Args) (b : Nat) (neg : Bool), o.a = .obj (0x20 + b) neg →
    let x := s.barrier s.cur.wg b
    let sf := s.releaseCur .wg
    let ready : Prop := s.arrayUndone s.cur.wg s.cur.warp = false
    let count := (s.uni o.b).toNat
    let mask := s.uni64 o.c
    let bad := count = 0 ∨ 65535 < count ∨ mask = 0
    let waiting := ∃ w n k, (w, n) ∈ s.curWg.splitKeys ∧ (s.split s.cur.wg w n).live = true ∧ (s.split s.cur.wg w n).st = .wait ∧
      (s.split s.cur.wg w n).wait = .barrier b k
    let barrierIs (s t : State) (regs : Warp) (y : Barrier) : Prop :=
      t.barrier s.cur.wg b = y ∧ t.curWarp.withSplitsOf s.curWarp = regs ∧ (∀ w, w ≠ s.cur.warp → t.warp s.cur.wg w = s.warp s.cur.wg w) ∧ (∀ c, c ≠ b → t.barrier s.cur.wg c = s.barrier s.cur.wg c) ∧ SameElsewhere s t ∧ t.curWg.withBarsOf (s.curWg.withWarpsOf t.curWg) = s.curWg.withWarpsOf t.curWg
    let next : Barrier :=
      { x with gen := x.gen + 1, arrivals := 0, count := (x.pending.getD (x.count, x.mask)).1, mask := (x.pending.getD (x.count, x.mask)).2, pending := none }
    let trap := s.trapAt 0x16 0 (0x20 + b)
    (s.acts 0x010 o.g = false → ∀ sc, Completes (.barInit o sc) s s.advance {} ∧ Completes (.barArrive o) s s.advance {} ∧
      Completes (.barWait o) s s.advance {} ∧ Completes (.barSync o) s s.advance {} ∧ Completes (.barMask o) s s.advance {}) ∧
    sf.wgs = s.wgs ∧
    (s.acts 0x010 o.g = true → x.cluster = false →
      (x.mask.getLsbD (s.cur.warp % 64) = false → exec (.barArrive o) s = .next trap ∧ exec (.barSync o) s = .next trap) ∧
      (x.mask.getLsbD (s.cur.warp % 64) = true → ready →
        (x.arrivals + 1 ≠ x.count →
          (∃ t, exec (.barArrive o) s = .next t ∧ barrierIs sf t (s.curWarp.setK o.d x.gen) { x with arrivals := x.arrivals + 1 } ∧ t.curWarp.getK o.d = x.gen ∧ t.curSplit = (s.curSplit).advance) ∧
          (∃ t, exec (.barSync o) s = .next t ∧ barrierIs sf t s.curWarp { x with arrivals := x.arrivals + 1 } ∧
            t.curSplit = { (s.curSplit) with st := .wait, pend := some (.barSync o), wait := .barrier b x.gen, met := none, since := s.tick })) ∧
        (x.arrivals + 1 = x.count → (s.curSplit).st = .run →
          (∃ t, exec (.barArrive o) s = .next t ∧ t.barrier s.cur.wg b = next ∧ t.curWarp.getK o.d = x.gen ∧
            ∀ w n k, (w, n) ∈ s.curWg.splitKeys → (w, n) ≠ (s.cur.warp, s.cur.split) → (s.split s.cur.wg w n).live = true → s.frozen s.cur.wg w n = false →
              (s.split s.cur.wg w n).st = .wait → (s.split s.cur.wg w n).wait = .barrier b k → 1 ≤ (x.gen + 1 - k).toNat → (x.gen + 1 - k).toNat < 2 ^ 31 →
              t.split s.cur.wg w n = { (s.split s.cur.wg w n).advance with since := s.tick }) ∧
          (∃ t, exec (.barSync o) s = .next t ∧ t.barrier s.cur.wg b = next ∧ t.curSplit = (s.curSplit).advance))) ∧
      (let k := s.uni o.b
       (1 ≤ (x.gen - k).toNat ∧ (x.gen - k).toNat < 2 ^ 31 → ∃ t, exec (.barWait o) s = .next t ∧ t.wgs = s.advance.wgs) ∧
       (¬(1 ≤ (x.gen - k).toNat ∧ (x.gen - k).toNat < 2 ^ 31) → ∃ t, exec (.barWait o) s = .next t ∧ OnlyTouches s t {} ∧
         t.curSplit = { (s.curSplit) with st := .wait, pend := some (.barWait o), wait := .barrier b k, met := none, since := s.tick })) ∧
      (bad ∨ x.arrivals ≠ 0 ∨ waiting → exec (.barInit o .wg) s = .next trap) ∧
      (¬(bad ∨ x.arrivals ≠ 0 ∨ waiting) → ∃ t, exec (.barInit o .wg) s = .next t ∧ barrierIs s t s.curWarp { count := count, mask := mask } ∧ t.curSplit = (s.curSplit).advance) ∧
      (bad → exec (.barMask o) s = .next trap) ∧
      (¬bad → ∃ t, exec (.barMask o) s = .next t ∧ t.curSplit = (s.curSplit).advance ∧
        barrierIs s t s.curWarp (if x.arrivals = 0 then { x with count := count, mask := mask, pending := none } else { x with pending := some (count, mask) })) ∧
      (s.curWg.rank ≠ 0 → exec (.barInit o .cluster) s = .next trap) ∧
      (¬(bad ∨ x.arrivals ≠ 0 ∨ waiting) → mask.toNat < 256 → s.curWg.rank = 0 → ∃ t, exec (.barInit o .cluster) s = .next t ∧
        t.curSplit = { (s.curSplit) with st := .wait, pend := some (.barInit o .cluster), wait := .convert, met := none, since := s.tick } ∧
        (t.cluster s.curWg.cluster).converting = (s.cluster s.curWg.cluster).converting ++ [(b, count, mask)])) ∧
    (s.acts 0x010 o.g = true → x.cluster = true →
      let mine := x.mask.getLsbD s.curWg.rank
      let fc := s.releaseCur .cluster
      let k := s.uni o.b
      let releases (i : Instr) : Prop :=
        ∃ t, exec i s = .next t ∧ (t.withWgsOf fc).withCoresOf fc = fc ∧ t.curWarp.withSplitsOf s.curWarp = s.curWarp ∧
          t.curSplit = { s.curSplit with st := .wait, pend := some i, wait := .release, met := none, since := s.tick } ∧
          (t.core s.curWg.core).releases =
            (fc.core s.curWg.core).releases ++ [{ wg := s.cur.wg, who := some (s.cur.warp, s.cur.split), scope := .cluster }] ∧
          ∀ c, (t.core c).scratch = (fc.core c).scratch ∧ (t.core c).acc = (fc.core c).acc ∧ (t.core c).unpub = (fc.core c).unpub
      (mine = false → exec (.barArrive o) s = .next trap ∧ exec (.barSync o) s = .next trap) ∧
      (mine = true → ready → releases (.barArrive o) ∧ releases (.barSync o)) ∧
      (1 ≤ (x.gen - k).toNat ∧ (x.gen - k).toNat < 2 ^ 31 → ∃ t, exec (.barWait o) s = .next t ∧ t.wgs = s.advance.wgs) ∧
      (¬(1 ≤ (x.gen - k).toNat ∧ (x.gen - k).toNat < 2 ^ 31) → ∃ t, exec (.barWait o) s = .next t ∧ OnlyTouches s t {} ∧
        t.curSplit = { (s.curSplit) with st := .wait, pend := some (.barWait o), wait := .barrier b k, met := none, since := s.tick })) ∧
    (∀ g w n core ix, let y := s.split g w n
      let z := s.barrier g b
      (s.core core).releases[ix]? = some { wg := g, who := some (w, n), scope := .cluster } → y.live = true → y.st = .wait → y.wait = .release →
      s.frozen g w n = false → z.cluster = true →
      let last : Barrier :=
        { z with gen := z.gen + 1, arrivals := 0, count := (z.pending.getD (z.count, z.mask)).1, mask := (z.pending.getD (z.count, z.mask)).2, pending := none }
      let after : Barrier := if z.arrivals + 1 = z.count then last else { z with arrivals := z.arrivals + 1 }
      (y.pend = some (.barArrive o) → ∃ t, exec (.releaseCompletion core ix) s = .next t ∧ t.barrier g b = after ∧ (t.warp g w).getK o.d = z.gen ∧
        t.split g w n = { y.advance with since := s.tick } ∧
        (z.arrivals + 1 = z.count → ∀ h w' n' k, h ∈ (s.cluster (s.wg g).cluster).wgs → (s.wg h).cluster = (s.wg g).cluster →
          (s.barrier h b).cluster = true → (w', n') ∈ (s.wg h).splitKeys → (h, w', n') ≠ (g, w, n) → (s.split h w' n').live = true →
          s.frozen h w' n' = false → (s.split h w' n').st = .wait → (s.split h w' n').wait = .barrier b k → 1 ≤ (z.gen + 1 - k).toNat → (z.gen + 1 - k).toNat < 2 ^ 31 →
          t.split h w' n' = { (s.split h w' n').advance with since := s.tick })) ∧
      (y.pend = some (.barSync o) → ∃ t, exec (.releaseCompletion core ix) s = .next t ∧ t.barrier g b = after ∧
        t.split g w n = if z.arrivals + 1 = z.count then { y.advance with since := s.tick }
          else { y with pend := some (.barSync o), wait := .barrier b z.gen, met := none, since := s.tick }))

/-- R192, R193, R194, R41: with no split waiting on the flume, QINIT empties it and sets its depth; QPUSH appends its handle where there is room, and QPOP and QTRY take the oldest where
there is one; QPUSH on a full flume and QPOP on an empty one wait in its queue, and QTRY says so. Nothing else changes, but for the acquire of a pop. Here every store of
the core is performed; a push performs those of its warp first (log entry 69).
The fields that record a wait and its turn are the model's own (log entry 3). So are the number by which a trap names a flume (38) and that a push first waits for its warp's array instructions
(42). -/
def Obligations.Flumes : Prop :=
  ∀ (s : State) (o : Args) (kpd : Fin 8) (f : Nat) (neg : Bool), o.a = .obj (0x80 + f) neg →
    let q := s.curWg.flume f
    let n := (s.uni o.b).toNat
    let flumeIs (t : State) (regs : Warp) (y : Flume) : Prop :=
      t.curWg.flume f = y ∧ (∀ e, e ≠ f → t.curWg.flume e = s.curWg.flume e) ∧ t.curWarp.withSplitsOf s.curWarp = regs ∧
        (∀ w, w ≠ s.cur.warp → t.warp s.cur.wg w = s.warp s.cur.wg w) ∧ t.curWg.withFlumesOf (s.curWg.withWarpsOf t.curWg) = s.curWg.withWarpsOf t.curWg ∧
        (∀ g, g ≠ s.cur.wg → t.wg g = s.wg g) ∧ (t.withWgsOf s).withCoresOf s = s ∧
        ∀ c, (t.core c).scratch = (s.core c).scratch ∧ (t.core c).acc = (s.core c).acc ∧ (t.core c).unpub = (s.core c).unpub
    let flows (t : State) : Prop := t.curSplit = s.curSplit.advance
    let waits (i : Instr) (w : Wait) : Prop :=
      ∃ t, exec i s = .next t ∧ flumeIs t s.curWarp { q with waiters := [(s.cur.warp, s.cur.split)] } ∧
        t.curSplit = { s.curSplit with st := .wait, pend := some i, wait := w, met := none, since := s.tick }
    let fresh (t : State) : Prop := ∀ line, (sget (fun _ => ({} : LineCopy)) (t.core s.curWg.core).copies line).pending = false
    let gone (r : Role) : Prop := ∀ p ∈ s.curWg.warps, p.2.role = r → p.2.exited = true
    (s.acts 0x018 o.g = false → Completes (.qinit o) s s.advance {} ∧ Completes (.qpush o) s s.advance {} ∧ Completes (.qpop o) s s.advance {} ∧
      Completes (.qtry o kpd) s s.advance {}) ∧
    (s.acts 0x018 o.g = true → q.waiters = [] → s.Prompt →
      (q.max < n → exec (.qinit o) s = .next (s.trapAt 0x16 0 (0x80 + f))) ∧
      (n ≤ q.max → (∀ w m, (s.split s.cur.wg w m).st = .wait → (s.split s.cur.wg w m).wait ≠ .nempty f ∧ (s.split s.cur.wg w m).wait ≠ .nfull f) →
        ∃ t, exec (.qinit o) s = .next t ∧ flumeIs t s.curWarp { q with items := [], depth := if n = 0 then q.max else n } ∧ flows t) ∧
      (s.arrayBusy s.cur.wg s.cur.warp = false → q.items.length < q.depth →
        ∃ t, exec (.qpush o) s = .next t ∧ flumeIs t s.curWarp { q with items := q.items ++ [s.uni64 o.b] } ∧ flows t) ∧
      (∀ h more, q.items = h :: more →
        (∃ t, exec (.qpop o) s = .next t ∧ flumeIs t (s.curWarp.setK64 o.d h) { q with items := more } ∧ flows t ∧ fresh t) ∧
        (∃ t, exec (.qtry o kpd) s = .next t ∧ flumeIs t ((s.curWarp.setK64 o.d h).setUpred kpd.val true) { q with items := more } ∧ flows t ∧ fresh t)) ∧
      (q.items = [] → ∃ t, exec (.qtry o kpd) s = .next t ∧ flumeIs t (s.curWarp.setUpred kpd.val false) q ∧ flows t) ∧
      ((s.cur.warp, s.curWarp) ∈ s.curWg.warps → (∀ p ∈ s.curWg.warps, p.1 = s.cur.warp → p.2 = s.curWarp) →
        (q.depth ≤ q.items.length → s.arrayBusy s.cur.wg s.cur.warp = false →
          (¬gone q.cons → waits (.qpush o) (.push f (s.uni64 o.b))) ∧ (gone q.cons → exec (.qpush o) s = .next (s.trapAt 0x17 0 f))) ∧
        (q.items = [] →
          (¬gone q.prod → waits (.qpop o) (.pop f)) ∧ (gone q.prod → exec (.qpop o) s = .next (s.trapAt 0x17 0 f)))))

/-- R62, R63, R72, R74, R77, R84, R87, R174, R196: FENCE performs the stores of its split that its scope orders and flows on; a release performs those that happen before it of which its
scope does so, and hands the others on. A maths warp's array instructions come before either. A release below CLUSTER scope is complete at once, a wider one waits; an acquire leaves the core no pending copy, and at DEVICE scope or wider what the core's narrower releases published reaches the other die. TLSIG takes the next number of its
core's timeline into kd and publishes its workgroup's stores; TLWAIT goes on where the counter has reached its number, and waits otherwise. That stores may be performed after their
instruction, and what orders them, is the model's reading (log entries 57, 64 and 69).
The fields that record a wait and its turn are the model's own (log entry 3). The field code of
an operand's value is its reading (37). -/
def Obligations.OrderingAndTimelines : Prop :=
  ∀ (s : State) (o : Args) (scope : Scope),
    let core := s.curWg.core
    let tl := s.timeline s.curWg.ctx core
    let id := (s.uni o.a).toNat
    let n := (s.uni64 o.b).toNat
    let fresh (t : State) : Prop := ∀ line, (sget (fun _ => ({} : LineCopy)) (t.core core).copies line).pending = false
    let wide : Prop := scope = .device ∨ scope = .system
    let reached (t : State) : Prop := t.behind = unreached (fun b => b.core == core) s.behind ∧ ∀ b ∈ t.behind, b.core ≠ core
    let kept (t : State) : Prop := ({ t with behind := s.behind }.withWgsOf s).withCoresOf s = s ∧
      (t.behind = s.behind ∨ wide ∧ reached t) ∧
      ∀ c, (t.core c).scratch = (s.core c).scratch ∧ (t.core c).acc = (s.core c).acc ∧ (t.core c).unpub = (s.core c).unpub
    let left (t : State) (late : List LateStore) : Prop :=
      t.wgs = s.advance.wgs ∧ (∀ c, c ≠ core → (t.core c).late = (s.core c).late) ∧ (t.core core).late = late
    let fenced : List LateStore :=
      (s.core core).late.filter fun e => !(e.isBefore s.cur.wg s.cur.warp s.cur.split && e.place.fenced core scope)
    let earlier (e : LateStore) : Bool := e.happensBefore s.cur.wg s.cur.warp s.cur.split
    let released : List LateStore :=
      ((s.core core).late.filter fun e => !(earlier e && e.place.published core scope)).map fun e => if earlier e then { e with handed := true } else e
    let narrow : Prop := scope = .warp ∨ scope = .wg
    (s.acts 0x020 o.g = false → Completes (.fence o scope) s s.advance {} ∧ Completes (.phaseRel o scope) s s.advance {} ∧ Completes (.phaseAcq o scope) s s.advance {} ∧
      Completes (.tlsig o scope) s s.advance {} ∧ Completes (.tlwait o scope) s s.advance {}) ∧
    (s.acts 0x020 o.g = true → s.arrayUndone s.cur.wg s.cur.warp = false →
      (s.Prompt → Completes (.fence o scope) s s.advance {}) ∧ (∃ t, exec (.fence o scope) s = .next t ∧ left t fenced) ∧
      (∀ c off bs, (s.core core).late = [{ wg := s.cur.wg, warp := s.cur.warp, place := .sp c off, bytes := bs, own := [(s.cur.warp, s.cur.split)] }] → c = core ∨ 2 ≤ scope.toBits →
        ∃ t, exec (.fence o scope) s = .next t ∧ ∀ d a, (t.core d).sp a =
          if d = c ∧ off ≤ a ∧ a < off + bs.length then bs.getD (a - off) 0 else (s.core d).sp a) ∧
      (narrow → s.Prompt → Completes (.phaseRel o scope) s s.advance {}) ∧ (narrow → ∃ t, exec (.phaseRel o scope) s = .next t ∧ left t released) ∧
      (¬narrow → s.Prompt → ∃ t, exec (.phaseRel o scope) s = .next t ∧ kept t ∧
        t.curSplit = { s.curSplit with st := .wait, pend := some (.phaseRel o scope), wait := .release, met := none, since := s.tick } ∧
        (t.core core).releases = (s.core core).releases ++ [{ wg := s.cur.wg, who := some (s.cur.warp, s.cur.split), scope := scope }]) ∧
      (∃ t, exec (.phaseAcq o scope) s = .next t ∧ t.wgs = s.advance.wgs ∧ kept t ∧ fresh t ∧ (wide → reached t)) ∧
      (narrow → s.Prompt → tl.count = tl.last → tl.done = [] →
        ∃ t, exec (.tlsig o scope) s = .next t ∧ t.curSplit = s.curSplit.advance ∧ t.curWarp.getK64 o.d = BitVec.ofNat 64 (tl.last + 1) ∧
          t.timeline s.curWg.ctx core = { count := tl.last + 1, last := tl.last + 1 } ∧ t.cores = s.cores ∧
          t.curWarp.withSplitsOf s.curWarp = s.curWarp.setK64 o.d (BitVec.ofNat 64 (tl.last + 1))) ∧
      (¬narrow → ∃ t, exec (.tlsig o scope) s = .next t ∧ t.curSplit = s.curSplit.advance ∧ t.curWarp.getK64 o.d = BitVec.ofNat 64 (tl.last + 1) ∧
        t.timeline s.curWg.ctx core = { tl with last := tl.last + 1 } ∧
        (t.core core).releases = (s.core core).releases ++ [{ wg := s.cur.wg, who := none, scope := scope, number := some (tl.last + 1) }] ∧
        t.curWarp.withSplitsOf s.curWarp = s.curWarp.setK64 o.d (BitVec.ofNat 64 (tl.last + 1)) ∧ (∀ h ∈ (t.core core).unpub, h.wg ≠ s.cur.wg) ∧
        (s.Prompt → (∀ line, s.lineKey line = none) →
          let mine := (s.core core).unpub.filter fun h => h.wg == s.cur.wg
          (∀ h ∈ mine, h.attr.key = none ∧ isCached h.addr = true) →
          ∀ a, t.homeByte none a = match mine.find? fun h => h.addr == a with | some h => h.byte | none => s.homeByte none a)) ∧
      (ctxIdOk id = false → exec (.tlwait o scope) s = .next (s.trapAt 0x06 0 7)) ∧
      (ctxIdOk id = true →
        (n = 0 → Completes (.tlwait o scope) s s.advance {}) ∧
        (n ≠ 0 → n ≤ (s.timeline s.curWg.ctx id).count → ∃ t, exec (.tlwait o scope) s = .next t ∧ t.wgs = s.advance.wgs ∧ kept t ∧
          (wide → fresh t ∧ reached t)) ∧
        ((s.timeline s.curWg.ctx id).count < n → ∃ t, exec (.tlwait o scope) s = .next t ∧ OnlyTouches s t {} ∧
          t.curSplit = { s.curSplit with st := .wait, pend := some (.tlwait o scope), wait := .counter id n, met := none, since := s.tick })))

/-- R35, R63, R74, R76, R84, R87, R191, R194: what the device does for waiting splits. The lowest join-waiting split of a warp goes on once no split of it runs or waits; the split served at a flume pushes or pops and goes
on; a TLWAIT goes on at its number; the barriers of the workgroups of its mask come to refer to a cluster barrier's node, and the others' stay; a release that completes publishes every store of its workgroup at the home
slices, the newest of each byte, and makes the other cores' copies pending; one at CLUSTER or DIE scope may leave the other die behind (log entry 64), and the number of a
TLSIG is complete then. When each of these occurs is the model's agenda (log entry 2).
None of these splits' warps stands still for a handler. That an event whose condition does not hold leaves the state, and the fields that record what
waits, are the model's own (log entry 3). -/
def Obligations.WaitsEnd : Prop :=
  ∀ (s : State) (g w n f : Nat),
    let x := s.split g w n
    let q := (s.wg g).flume f
    let goesOn (t : State) : Prop := t.split g w n = { x.advance with since := s.tick }
    (n < 4 → x.live = true → x.st = .joinWait → (∀ m, m < 4 → (s.split g w m).live = true → (s.split g w m).st = .joinWait ∧ n ≤ m) →
      ∃ t, exec (.joinRelease g w) s = .next t ∧ goesOn t ∧ t.withWgsOf s = s ∧ (∀ m, m ≠ n → t.split g w m = s.split g w m)) ∧
    (∀ m, m < 4 → (s.split g w m).live = true → (s.split g w m).st ≠ .joinWait → exec (.joinRelease g w) s = .next s) ∧
    (x.st = .wait → s.frozen g w n = false → q.waiters.head? = some (w, n) →
      (∀ h, x.wait = .push f h → q.items.length < q.depth → ∃ t, exec (.flumeWaiterServed g f) s = .next t ∧ goesOn t ∧
        (t.wg g).flume f = { q with items := q.items ++ [h], waiters := q.waiters.filter (· != (w, n)) }) ∧
      (∀ o h more, x.wait = .pop f → x.pend = some (.qpop o) → q.items = h :: more → ∃ t, exec (.flumeWaiterServed g f) s = .next t ∧ goesOn t ∧
        (t.wg g).flume f = { q with items := more, waiters := q.waiters.filter (· != (w, n)) } ∧ (t.warp g w).getK64 o.d = h)) ∧
    (∀ o scope id k, x.live = true → x.st = .wait → x.pend = some (.tlwait o scope) → x.wait = .counter id k →
      (k ≤ (s.timeline (s.wg g).ctx id).count → s.frozen g w n = false → ∃ t, exec (.tlwaitWake g w n) s = .next t ∧ goesOn t) ∧
      ((s.timeline (s.wg g).ctx id).count < k → exec (.tlwaitWake g w n) s = .next s)) ∧
    (∀ cl b count mask, (s.cluster cl).converting = [(b, count, mask)] → ∃ t, exec (.clusterBarrierConversion cl b) s = .next t ∧
      sget (fun _ => ({} : Barrier)) (t.cluster cl).nodes b = { cluster := true, count := count, mask := mask } ∧ (t.cluster cl).converting = [] ∧
      (∀ h ∈ (s.cluster cl).wgs, sget (fun _ => ({} : Barrier)) (t.wg h).bars b =
        if mask.getLsbD (s.wg h).rank then { cluster := true } else sget (fun _ => ({} : Barrier)) (s.wg h).bars b) ∧ t.cores = s.cores ∧
      (∀ o neg, s.frozen g w n = false → g ∈ (s.cluster cl).wgs → (w, n) ∈ (s.wg g).splitKeys → x.pend = some (.barInit o .cluster) → x.st = .wait → x.wait = .convert → o.a = .obj (0x20 + b) neg →
        goesOn t)) ∧
    (∀ core ix r k, (s.core core).releases[ix]? = some r → r.number = some k →
      let tl := s.timeline (s.wg r.wg).ctx core
      ∃ t, exec (.releaseCompletion core ix) s = .next t ∧ (t.core core).releases = (s.core core).releases.eraseIdx ix ∧
        (r.who = none → t.wgs = s.wgs ∧ (tl.done = [] → k = tl.count + 1 → t.timeline (s.wg r.wg).ctx core = { tl with count := k }))) ∧
    (∀ core ix r, (s.core core).releases[ix]? = some r → r.number = none → (∀ line, s.lineKey line = none) →
      let mine := (s.core core).unpub.filter fun h => h.wg == r.wg
      (∀ h ∈ mine, h.attr.key = none ∧ isCached h.addr = true) →
      ∃ t, exec (.releaseCompletion core ix) s = .next t ∧
        (∀ a, t.homeByte none a = match mine.find? fun h => h.addr == a with | some h => h.byte | none => s.homeByte none a) ∧
        (t.core core).unpub = (s.core core).unpub.filter (fun h => h.wg != r.wg) ∧ (t.core core).releases = (s.core core).releases.eraseIdx ix ∧
        (∀ h ∈ mine, ∀ c, c ≠ core → let l := sget (fun _ => ({} : LineCopy)) (t.core c).copies (lineOf h.addr); l.live = true → l.pending = true) ∧
        (∀ c, (t.core c).scratch = (s.core c).scratch ∧ (t.core c).acc = (s.core c).acc) ∧
        (∀ o scope, r.wg = g → r.who = some (w, n) → s.frozen g w n = false → x.live = true → x.st = .wait → x.wait = .release → x.pend = some (.phaseRel o scope) → goesOn t))

/-- R198: ELECT marks in each lane of the mask whether it is the lowest LIVE lane, and POLL tells whether none or every LIVE lane has its predicate, how many have it, or which. -/
def Obligations.ElectAndPoll : Prop :=
  ∀ (s : State) (o : Args),
    let mask := s.curSplit.mask
    let live := s.active 0x00C o.g
    let x (l : Nat) : Bool := (s.predObj o.a).getLsbD l
    let holders := (List.range 64).filter fun l => live.getLsbD l && x l
    let bit (mode : PollMode) (r : Bool) : Prop :=
      ∃ t, Completes (.poll o mode) s t { kp := fun n => n == o.d && decide (n < 7) } ∧ (o.d < 7 → t.curWarp.upred o.d = r)
    (live = 0 → Completes (.elect o) s s.advance {} ∧ ∀ mode, Completes (.poll o mode) s s.advance {}) ∧
    (live ≠ 0 →
      (∃ t, Completes (.elect o) s t { p := fun n l => n == o.d && decide (n < 7) && mask.getLsbD l } ∧
        (o.d < 7 → ∀ l, mask.getLsbD l = true →
          ((t.curWarp.pred o.d).getLsbD l = true ↔ live.getLsbD l = true ∧ ∀ j < l, live.getLsbD j = false))) ∧
      bit .none_ holders.isEmpty ∧
      bit .every (((List.range 64).filter live.getLsbD).all x) ∧
      (∃ t, Completes (.poll o .count) s t { k := (· == o.d) } ∧ t.curWarp.getK o.d = BitVec.ofNat 32 holders.length) ∧
      (∃ t, Completes (.poll o .map) s t { k := fun n => n == o.d || n == o.d + 1 } ∧
        ∀ l, l < 64 → (t.curWarp.getK64 o.d).getLsbD l = (live.getLsbD l && x l)))

/-- R95, R102, R158, R159, R200: S2K reads each special register, per lane with VDST and else for the lowest lane of the mask; K2S writes ARITH.MODE, where its rounding mode is not reserved, and clears
the flags that it writes as ones; SETMODE writes the fields of ARITH.MODE that it names. Nothing else changes.
The field code of an operand's value is the model's reading (log entry 37), and when TIME
advances its choice (4). -/
def Obligations.SpecialRegisters : Prop :=
  ∀ (s : State) (o : Args),
    let wg := s.curWg
    let w := s.curWarp
    let act := s.active 0x028 o.g
    let value (r : SReg) (l : Nat) : DWord :=
      match r with
      | .laneid => BitVec.ofNat 64 (if w.role = .maths then 0 else l)
      | .width => BitVec.ofNat 64 w.width
      | .warpid => BitVec.ofNat 64 s.cur.warp
      | .role => match w.role with | .copy => 0 | .maths => 1 | .epi => 2
      | .split => BitVec.ofNat 64 s.cur.split
      | .lanemask => s.curSplit.mask
      | .core => BitVec.ofNat 64 wg.core
      | .die => BitVec.ofNat 64 (wg.core / 40)
      | .wgid => BitVec.ofNat 64 (wg.wgid % 2 ^ 32)
      | .clusterRank => BitVec.ofNat 64 wg.rank
      | .clusterSize => BitVec.ofNat 64 wg.size
      | .arithMode => w.mode.setWidth 64
      | .arithFlags => w.flags.setWidth 64
      | .progress => w.progress
      | .time => s.time
      | .prio => BitVec.ofNat 64 s.cur.prio
    let wide (r : SReg) : Bool := r == .lanemask || r == .progress || r == .time
    let regs (i : Instr) (y : Warp) : Prop :=
      ∃ t, exec i s = .next t ∧ SameElsewhere s t ∧ t.curWg.withWarpsOf wg = wg ∧ (∀ n, n ≠ s.cur.warp → t.warp s.cur.wg n = s.warp s.cur.wg n) ∧
        t.curSplit = s.curSplit.advance ∧ t.curWarp.withSplitsOf w = y
    (act = 0 → ∀ r b rnd f1 f2 f3 f4 f5, Completes (.s2k o r b) s s.advance {} ∧ Completes (.k2s o r) s s.advance {} ∧
      Completes (.setmode o f1 rnd f2 f3 f4 f5) s s.advance {}) ∧
    (act ≠ 0 →
      (∀ r, o.d + 1 < 256 → let n := if wide r then 2 else 1
        ∃ t, Completes (.s2k o r true) s t { v := fun l m => act.getLsbD l && o.d ≤ m && m < o.d + n } ∧
          ∀ l, act.getLsbD l = true → t.curWarp.getV l o.d = (value r l).extractLsb' 0 32 ∧
            (wide r = true → t.curWarp.getV l (o.d + 1) = (value r l).extractLsb' 32 32)) ∧
      (∀ r l, s.curSplit.mask.getLsbD l = true → (∀ j < l, s.curSplit.mask.getLsbD j = false) →
        ∃ t, Completes (.s2k o r false) s t { k := fun m => m == o.d || (wide r && m == o.d + 1) } ∧ t.curWarp.getK o.d = (value r l).extractLsb' 0 32 ∧
          (wide r = true → t.curWarp.getK (o.d + 1) = (value r l).extractLsb' 32 32)) ∧
      (let x := s.uni o.a
       ((x.extractLsb' 0 3).toNat ≤ 4 → regs (.k2s o .arithMode) { w with mode := x &&& 0x1F }) ∧
       (4 < (x.extractLsb' 0 3).toNat → exec (.k2s o .arithMode) s = .next (s.trapAt 0x06 0 7)) ∧
       regs (.k2s o .arithFlags) { w with flags := w.flags &&& ~~~(x &&& 0xFF) }) ∧
      (∀ wrnd rnd wftz ftz wnanp nanp, ∃ m : Word, regs (.setmode o wrnd rnd wftz ftz wnanp nanp) { w with mode := m } ∧
        m.extractLsb' 0 3 = (if wrnd then BitVec.ofNat 3 (match rnd with | .rne => 0 | .rz => 1 | .ru => 2 | .rd => 3 | .rna => 4) else w.mode.extractLsb' 0 3) ∧
        m.getLsbD 3 = (if wftz then ftz else w.mode.getLsbD 3) ∧ m.getLsbD 4 = (if wnanp then nanp else w.mode.getLsbD 4) ∧
        m.extractLsb' 5 27 = w.mode.extractLsb' 5 27))

/-! ## Traps, handlers and the privileged instructions -/

/-- R4, R103, R199, R373 to R376: taking a trap. The split stops in state in-trap with its resume PC, and its record, which says what R375 lays down, goes to the handlers of its workgroup where the kernel
declares an entry for its role, and otherwise to the trap ring of its context, held; a trap in a handler goes to the ring, nested. No register and no memory changes. A trap waits until the
array instructions before it are performed, and the stores of its warp that are not yet (log entry 69) are performed with it. TRAP, TRAPFENCE and an undefined opcode take it. What the manual leaves open beside them is the model's choice: that REC.SLOT is zero where
the fetch of a transfer's target faults (log entry 65), the object number of an object-state trap (38), the field code of an operand value (37).
The fields that record a wait and its turn are the model's own (log entry 3). -/
def Obligations.TakingATrap : Prop :=
  ∀ (s : State), s.traces s.curWg.core s.curWg.ctx 3 = false →
    let wg := s.curWg
    let x := s.curSplit
    let entry := wg.kdesc.toNat / 2 ^ (224 + 32 * (match s.curWarp.role with | .copy => 0 | .maths => 1 | .epi => 2)) % 2 ^ 32
    let rec_ (code addr data : Nat) (resume : PC) (slot : Slot) : TrapRec :=
      { code := code, kind := 0, addr := BitVec.ofNat 64 addr, data := BitVec.ofNat 64 data, pc := resume, mask := x.mask, time := s.time,
        wgid := BitVec.ofNat 32 wg.wgid, ctx := wg.ctx, core := wg.core, split := s.cur.split, warp := s.cur.warp, slot := slot, subj := s.cur.wg }
    let free : Prop := s.arrayBefore s.cur.wg s.cur.warp = false
    let prompt : Prop := ∀ l ∈ (s.core wg.core).late, l.isBefore s.cur.wg s.cur.warp s.cur.split = false
    let waits (t : State) : Prop :=
      OnlyTouches s t {} ∧ t.curSplit = { x with st := .wait, pend := none, wait := .array, since := s.tick }
    let takes (t : State) (base : Split) (resume : PC × Bool) (r : TrapRec) : Prop :=
      t.cores = s.cores ∧ t.mem = s.mem ∧ t.l2 = s.l2 ∧ t.curWarp.withSplitsOf s.curWarp = s.curWarp ∧
      (∀ n, n ≠ s.cur.split → t.split s.cur.wg s.cur.warp n = s.split s.cur.wg s.cur.warp n) ∧
      (∀ n, n ≠ s.cur.warp → t.warp s.cur.wg n = s.warp s.cur.wg n) ∧ (∀ g, g ≠ s.cur.wg → t.wg g = s.wg g) ∧
      (x.handler = false → entry ≠ 0xFFFFFFFF → t.ctxs = s.ctxs ∧ t.curWg.trapQueue = wg.trapQueue ++ [(s.cur.warp, s.cur.split)] ∧
        t.curSplit = { base with st := .inTrap, pc := resume.1, seq := resume.2, resume := resume.1, resumeSeq := resume.2, pend := none, wait := .nothing,
                                 trap := some r, emu := none, since := s.tick }) ∧
      (x.handler = false → entry = 0xFFFFFFFF → (t.ctx wg.ctx).pending = (s.ctx wg.ctx).pending ++ [{ r with held := true }] ∧
        t.curWg.trapQueue = wg.trapQueue ∧
        t.curSplit = { base with st := .inTrap, pc := resume.1, seq := resume.2, resume := resume.1, resumeSeq := resume.2, pend := none, wait := .nothing,
                                 trap := some { r with held := true }, emu := none, since := s.tick }) ∧
      (x.handler = true → (t.ctx wg.ctx).pending = (s.ctx wg.ctx).pending ++ [{ r with held := true, nested := true }] ∧
        t.curWg.trapQueue = wg.trapQueue ∧ t.curSplit.st = .inTrap ∧ t.curSplit.handler = base.handler ∧ t.curSplit.resume = base.resume)
    (∀ code addr data, code ≠ 0x80 → free → prompt → takes (s.trapAt code addr data) x (x.pc, x.seq) (rec_ code addr data x.pc x.slotWords)) ∧
    (∀ code addr data, free → ∀ l ∈ ((s.trapAt code addr data).core wg.core).late, l.isBefore s.cur.wg s.cur.warp s.cur.split = false) ∧
    (∀ f lane, f.code ≠ 0x80 → free → prompt → takes (s.transferTrap f lane) x (x.pc, x.seq)
      (rec_ f.code f.addr (f.data + lane * 256) x.pc (if f.code = 0x12 then x.slotWords else 0))) ∧
    (¬free → (∀ code addr data, waits (s.trapAt code addr data)) ∧ ∀ f lane, waits (s.transferTrap f lane)) ∧
    (∀ g w n, let z := s.split g w n
      z.live = true → z.st = .wait → z.pend = none → z.wait = .array → s.arrayBefore g w = false → s.frozen g w n = false →
      ∃ t, exec (.waitWake g w n) s = .next t ∧
        t.split g w n = { z with st := .run, wait := .nothing, met := none, replay := true, since := s.tick }) ∧
    (∀ words, exec (.illegalOpcode words) s = .next (s.trapAt 0x01 0 0) ∧
      (free → prompt → ∃ t, exec (.illegalOpcode words) s = .next t ∧ takes t x (x.pc, x.seq) (rec_ 0x01 0 0 x.pc x.slotWords))) ∧
    (∀ o : Args, let code := (s.uni o.a).toNat
      let hit := (s.curWarp.flags &&& s.uni o.a).toNat % 128
      let y := x.advance
      (s.acts 0x00E o.g = false → Completes (.trap o) s s.advance {} ∧ Completes (.trapfence o) s s.advance {}) ∧
      (s.acts 0x00E o.g = true →
        (code ≤ 65535 → free → prompt → ∃ t, exec (.trap o) s = .next t ∧
          takes t { y with pc := x.pc, seq := x.seq } (y.pc, y.seq) (rec_ 0x18 x.pc.toNat code y.pc x.slotWords)) ∧
        (code ≤ 65535 → ¬free → ∃ t, exec (.trap o) s = .next t ∧ waits t) ∧
        (65535 < code → exec (.trap o) s = .next (s.trapAt 0x06 0 7)) ∧
        (s.arrayBusy s.cur.wg s.cur.warp = true → ∃ t, exec (.trapfence o) s = .next t ∧ OnlyTouches s t {} ∧ t.curSplit.st = .wait) ∧
        (s.arrayBusy s.cur.wg s.cur.warp = false → hit = 0 → Completes (.trapfence o) s s.advance {}) ∧
        (s.arrayBusy s.cur.wg s.cur.warp = false → hit ≠ 0 → prompt → ∃ t, exec (.trapfence o) s = .next t ∧
          takes t { y with pc := x.pc, seq := x.seq } (y.pc, y.seq) (rec_ 0x19 x.pc.toNat hit y.pc x.slotWords))))

/-- R375, R377, R378, R207: the first split of a workgroup's trap queue enters its handler when no other runs one: k48 to k63 go to its bank, the record's sixteen words take their place, and it goes on at the code
base plus the entry of its role. ERET gives the registers back and lets it go on at its resume PC, or held there, where a hold waits for the end of the handler (the model's choice,
log entry 31), and the next split may enter. PROGRESS here agrees with the chain that the split stopped in, where it has stopped in one (R293). -/
def Obligations.HandlersEnterAndLeave : Prop :=
  ∀ (s : State) (g w n : Nat) (rest : List (Nat × Nat)) (r : TrapRec) (o : Args),
    let x := s.split g w n
    let wp := s.warp g w
    let entry := (s.wg g).kdesc.toNat / 2 ^ (224 + 32 * (match wp.role with | .copy => 0 | .maths => 1 | .epi => 2)) % 2 ^ 32
    let word (i : Nat) : Word :=
      match i with
      | 0 => BitVec.ofNat 32 (r.code % 2 ^ 16)
      | 1 => BitVec.ofNat 32 ((if r.nested then 1 else 0) + (if r.held then 2 else 0) + r.kind % 16 * 2 ^ 4 + r.warp % 128 * 2 ^ 8 + r.split % 4 * 2 ^ 15
          + r.core % 128 * 2 ^ 17 + r.ctx % 256 * 2 ^ 24)
      | 2 => r.wgid
      | 3 => r.time.extractLsb' 0 32
      | 4 => r.time.extractLsb' 32 32
      | 5 => r.mask.extractLsb' 0 32
      | 6 => r.mask.extractLsb' 32 32
      | 7 => r.pc.extractLsb' 0 32
      | 8 => (r.pc.extractLsb' 32 25).setWidth 32
      | 9 => r.data.extractLsb' 0 32
      | 10 => r.data.extractLsb' 32 32
      | 11 => r.addr.extractLsb' 0 32
      | 12 => r.addr.extractLsb' 32 32
      | _ => r.slot.extractLsb' (32 * (i - 13)) 32
    ((s.wg g).trapQueue = (w, n) :: rest → (s.wg g).handler = none → x.emu = none → x.trap = some r →
      ∃ t, exec (.handlerEntry g) s = .next t ∧ t.withWgsOf s = s ∧ (∀ h, h ≠ g → t.wg h = s.wg h) ∧ (t.wg g).handler = some (w, n) ∧ (t.wg g).trapQueue = rest ∧
        (∀ i, i < 16 → (t.warp g w).getK (48 + i) = word i ∧ (t.split g w n).bank.getD i 0 = wp.getK (48 + i)) ∧
        (∀ i, i < 48 → (t.warp g w).getK i = wp.getK i) ∧ (t.warp g w).v = wp.v ∧ (t.warp g w).p = wp.p ∧ (t.warp g w).kp = wp.kp ∧
        (t.split g w n).st = .run ∧ (t.split g w n).handler = true ∧ (t.split g w n).mask = x.mask ∧
        (t.split g w n).pc = BitVec.ofNat 57 ((s.wg g).code + entry) ∧ (t.split g w n).resume = x.resume) ∧
    ((s.wg g).handler ≠ none → x.emu = none → (s.wg g).trapQueue = (w, n) :: rest → exec (.handlerEntry g) s = .next s) ∧
    (s.acts 0x074 o.g = false → Completes (.eret o) s s.advance {}) ∧
    (s.acts 0x074 o.g = true → s.curSplit.handler = true → s.curSplit.bank.length = 16 →
      s.curWg.handler = some (s.cur.warp, s.cur.split) → s.stoppedChain s.cur.wg s.cur.warp s.cur.split s.curSplit.resume = none →
      s.progressBad s.cur.wg s.cur.warp s.cur.split = false → ∃ t, exec (.eret o) s = .next t ∧ SameElsewhere s t ∧ t.curWg.handler = none ∧
        (∀ i, i < 16 → t.curWarp.getK (48 + i) = s.curSplit.bank.getD i 0) ∧ (∀ i, i < 48 → t.curWarp.getK i = s.curWarp.getK i) ∧
        t.curWarp.v = s.curWarp.v ∧ t.curWarp.p = s.curWarp.p ∧ t.curWarp.kp = s.curWarp.kp ∧ t.curWarp.flags = s.curWarp.flags ∧
        t.curSplit.st = (if s.curSplit.holdNext = none then .run else .held) ∧ t.curSplit.handler = false ∧ t.curSplit.pc = s.curSplit.resume ∧ t.curSplit.mask = s.curSplit.mask ∧ t.curSplit.trap = none)

/-- R6, R31, R58, R181, R205, R206, R207, R208, R293: in a handler's workgroup, WSTAT reads the split table, its deferral and its loop records; WREG reads and writes registers, predicates, the special registers that it may
and a resume PC; WRESUME returns a trapped split to run at its resume PC, WKILL ends a warp, TLBINV waits for its invalidation, which drops the translations that it names, and EMUARGS reads the emulated instruction's
operands and destination. The model's choices: SPLIT.STATE of a split that waits inside its handler (log entry 75), SPLIT.PC of one that waits (46), the split whose registers WREG reads (47), that an invalidation first has
every late store performed (69).
Its record of a wait is its own (3), the field code of an operand's value its reading (37). -/
def Obligations.PrivilegedInstructions : Prop :=
  ∀ (s : State) (o : Args),
    let w := (s.uni o.a).toNat
    let sel := (s.uni o.b).toNat
    let tw := s.warp s.cur.wg w
    let e := tw.split (sel % 4)
    let state : Nat := match e.st with
      | .run => if e.handler then 5 else 1
      | .wait => 2
      | .joinWait => 3
      | .held => 4
      | .inTrap => 5
    let pc := if e.st = .inTrap ∧ e.handler = false then e.resume else e.pc
    let illegal := s.trapAt 0x06 0 7
    (s.acts 0x070 o.g = false → ∀ i ∈ [Instr.wstat o, .wregR o, .wregW o, .wresume o, .wkill o, .tlbinvPage o, .tlbinvAll o, .emuargs o, .emuargsW o],
      Completes i s s.advance {}) ∧
    (s.acts 0x070 o.g = true →
      (tw.live = false → ∀ i ∈ [Instr.wstat o, .wregR o, .wregW o, .wresume o, .wkill o], exec i s = .next illegal) ∧
      (tw.live = true →
        (sel < 4 → e.defer.length < 8 → ∃ t, Completes (.wstat o) s t { k := fun r => decide (o.d ≤ r) && decide (r < o.d + 4) } ∧
          t.curWarp.getK64 o.d = (if e.live then e.mask else 0) ∧
          t.curWarp.getK64 (o.d + 2) = (if e.live then BitVec.ofNat 64 (2 ^ 63 + state * 2 ^ 60 + e.defer.length * 2 ^ 57 + pc.toNat) else 0)) ∧
        (∀ n, n < 64 → sel = 2 ^ 28 + n →
          (∃ t, Completes (.wregR o) s t { k := (· == o.d) } ∧ t.curWarp.getK o.d = tw.getK n) ∧
          (∃ t, exec (.wregW o) s = .next t ∧ SameElsewhere s t ∧ t.curSplit = s.curSplit.advance ∧ (t.warp s.cur.wg w).getK n = s.uni o.c ∧
            ∀ r, r ≠ n → (t.warp s.cur.wg w).getK r = tw.getK r)) ∧
        (∀ n l, n < tw.regs → n < 256 → l < tw.width → l < 256 → sel = l * 2 ^ 16 + n →
          (∃ t, Completes (.wregR o) s t { k := (· == o.d) } ∧ t.curWarp.getK o.d = tw.getV l n) ∧
          (∃ t, exec (.wregW o) s = .next t ∧ SameElsewhere s t ∧ t.curSplit = s.curSplit.advance ∧ (t.warp s.cur.wg w).getV l n = s.uni o.c ∧
            ∀ j r, r < 256 → ¬(j = l ∧ r = n) → (t.warp s.cur.wg w).getV j r = tw.getV j r)) ∧
        (∀ n pos, n < 4 → pos < 4 → let y := tw.split n
          (sel = 2 ^ 12 + pos * 16 + n → ∃ t, Completes (.wstat o) s t { k := fun r => decide (o.d ≤ r) && decide (r < o.d + 4) } ∧
            t.curWarp.getK64 o.d = (if y.live then (y.defer.reverse[pos]?).elim 0 (·.mask) else 0) ∧
            t.curWarp.getK64 (o.d + 2) = (if y.live then (y.defer.reverse[pos]?).elim 0 fun r =>
              BitVec.ofNat 64 (2 ^ 63 + (if r.arrived then 2 ^ 62 else 0) + r.pc.toNat) else 0)) ∧
          (sel = 2 * 2 ^ 12 + pos * 16 + n → ∃ t, Completes (.wstat o) s t { k := fun r => decide (o.d ≤ r) && decide (r < o.d + 4) } ∧
            t.curWarp.getK64 o.d = (if y.live then (y.loops.reverse[pos]?).elim 0 fun r =>
              BitVec.ofNat 64 (r.endLine % 2 ^ 29 * 2 ^ 35 + r.endSlot % 8 * 2 ^ 32 + r.count.toNat) else 0) ∧
            t.curWarp.getK64 (o.d + 2) = (if y.live then (y.loops.reverse[pos]?).elim 0 fun r => BitVec.ofNat 64 (2 ^ 63 + r.first.toNat) else 0))) ∧
        (∀ n l, n < 7 → l < tw.width → l < 64 → sel = 2 * 2 ^ 28 + l * 2 ^ 16 + n →
          (∃ t, Completes (.wregR o) s t { k := (· == o.d) } ∧ t.curWarp.getK o.d = if (tw.pred n).getLsbD l then 1 else 0) ∧
          (∃ t, exec (.wregW o) s = .next t ∧ SameElsewhere s t ∧ t.curSplit = s.curSplit.advance ∧
            ((t.warp s.cur.wg w).pred n).getLsbD l = (s.uni o.c).getLsbD 0 ∧
            ∀ m j, ¬(m = n ∧ j = l) → ((t.warp s.cur.wg w).pred m).getLsbD j = (tw.pred m).getLsbD j)) ∧
        (∀ n, n < 7 → sel = 3 * 2 ^ 28 + n →
          (∃ t, Completes (.wregR o) s t { k := (· == o.d) } ∧ t.curWarp.getK o.d = if tw.upred n then 1 else 0) ∧
          (∃ t, exec (.wregW o) s = .next t ∧ SameElsewhere s t ∧ t.curSplit = s.curSplit.advance ∧
            (t.warp s.cur.wg w).upred n = (s.uni o.c).getLsbD 0 ∧ ∀ m, m ≠ n → (t.warp s.cur.wg w).upred m = tw.upred m)) ∧
        (let writes (y : Warp) : Prop := ∃ t, exec (.wregW o) s = .next t ∧ SameElsewhere s t ∧ t.curSplit = s.curSplit.advance ∧
          (t.warp s.cur.wg w).withSplitsOf tw = y
         let reads (x : Word) : Prop := ∃ t, Completes (.wregR o) s t { k := (· == o.d) } ∧ t.curWarp.getK o.d = x
         let z := s.uni o.c
         (sel = 4 * 2 ^ 28 + 16 → reads tw.mode ∧ ((z.extractLsb' 0 3).toNat ≤ 4 → writes { tw with mode := z &&& 0x1F }) ∧
           (4 < (z.extractLsb' 0 3).toNat → exec (.wregW o) s = .next illegal)) ∧
         (sel = 4 * 2 ^ 28 + 17 → reads tw.flags ∧ writes { tw with flags := tw.flags &&& ~~~(z &&& 0xFF) }) ∧
         (sel = 4 * 2 ^ 28 + 18 → reads (tw.progress.extractLsb' 0 32) ∧ writes { tw with progress := (tw.progress.extractLsb' 32 32 ++ z) &&& 0xF000FFFFFFFFFFFF }) ∧
         (sel = 4 * 2 ^ 28 + 256 + 18 → reads (tw.progress.extractLsb' 32 32) ∧ writes { tw with progress := (z ++ tw.progress.extractLsb' 0 32) &&& 0xF000FFFFFFFFFFFF }) ∧
         (∀ r : SReg, r ≠ .arithMode → r ≠ .arithFlags → r ≠ .progress → sel = 4 * 2 ^ 28 + r.toBits → exec (.wregW o) s = .next illegal)) ∧
        (∀ n high, n < 4 → high < 2 → sel = 5 * 2 ^ 28 + high * 256 + n →
          let y := tw.split n
          let z := s.uni o.c
          let now : DWord := y.resume.setWidth 64
          (w ≠ s.cur.warp → y.live = true → y.st = .inTrap →
            (∃ t, Completes (.wregR o) s t { k := (· == o.d) } ∧ t.curWarp.getK o.d = now.extractLsb' (32 * high) 32) ∧
            (∃ t, exec (.wregW o) s = .next t ∧ SameElsewhere s t ∧ t.curSplit = s.curSplit.advance ∧
              t.split s.cur.wg w n =
                { y with resumeSeq := false, resume := ((if high = 1 then z ++ now.extractLsb' 0 32 else now.extractLsb' 32 32 ++ z) : DWord).setWidth 57 })) ∧
          (w ≠ s.cur.warp → y.st ≠ .inTrap → exec (.wregR o) s = .next illegal ∧ exec (.wregW o) s = .next illegal)) ∧
        (6 * 2 ^ 28 ≤ sel → exec (.wregR o) s = .next illegal ∧ exec (.wregW o) s = .next illegal ∧ exec (.wstat o) s = .next illegal) ∧
        (sel < 4 → w ≠ s.cur.warp → (s.split s.cur.wg w sel).live = true →
          ((s.split s.cur.wg w sel).st ≠ .inTrap → exec (.wresume o) s = .next illegal) ∧
          ((s.split s.cur.wg w sel).st = .inTrap → (s.split s.cur.wg w sel).handler = false → (s.split s.cur.wg w sel).holdNext = none →
            s.stoppedChain s.cur.wg w sel (s.split s.cur.wg w sel).resume = none → s.progressBad s.cur.wg w sel = false →
            ∃ t, exec (.wresume o) s = .next t ∧ SameElsewhere s t ∧ t.curSplit = s.curSplit.advance ∧ (t.split s.cur.wg w sel).st = .run ∧
              (t.split s.cur.wg w sel).pc = (s.split s.cur.wg w sel).resume ∧ (t.split s.cur.wg w sel).trap = none ∧ (w, sel) ∉ t.curWg.trapQueue)) ∧
        (tw.exited = false → ∃ t, exec (.wkill o) s = .next t ∧ (t.warp s.cur.wg w).exited = true ∧ (∀ n, n < 4 → (t.split s.cur.wg w n).live = false) ∧
          (w ≠ s.cur.warp → s.curSplit.st = .run → t.curSplit.pc = s.curSplit.advance.pc))) ∧
      (let starts (i : Instr) (page : Option Nat) : Prop := ∃ t, exec i s = .next t ∧
          t.curSplit = { s.curSplit with st := .wait, pend := some i, wait := .inval, met := none, since := s.tick } ∧
          t.invals = s.invals ++ [{ ctx := s.curWg.ctx, page := page, who := some (s.cur.wg, s.cur.warp, s.cur.split) }] ∧ t.cores = s.cores
       starts (.tlbinvAll o) none ∧ starts (.tlbinvPage o) (some ((s.uni64 o.a).toNat % 2 ^ 57))) ∧
      (∀ em x, s.curSplit.emu = some em → s.emuArgs em = some x →
        (∀ l0, o.d < 256 → w < 3 → ∃ t, Completes (.emuargs o) s t { v := fun l r => em.active.getLsbD l && r == o.d } ∧
          (em.active.getLsbD l0 = true → t.curWarp.getV l0 o.d =
            s.opnd (match em.instr with | .imad24 _ => .int | .fmad16 _ => .half | .loge _ => .float | _ => .bits) (match w with | 0 => x.a | 1 => x.b | _ => x.c) l0)) ∧
        (∀ l0, o.d < 256 → w = 3 → ∃ t, Completes (.emuargs o) s t { v := fun l r => em.active.getLsbD l && r == o.d } ∧
          (em.active.getLsbD l0 = true → t.curWarp.getV l0 o.d = s.curWarp.getV l0 x.d)) ∧
        (x.d < 256 → w = 3 → ∃ t, Completes (.emuargsW o) s t { v := fun l r => em.active.getLsbD l && r == x.d } ∧
          ∀ l, em.active.getLsbD l = true → t.curWarp.getV l x.d = s.opnd .bits o.b l) ∧
        (w ≠ 3 → exec (.emuargsW o) s = .next illegal)) ∧
      (s.curSplit.emu = none → exec (.emuargs o) s = .next illegal ∧ exec (.emuargsW o) s = .next illegal)) ∧
    (∀ ix v, s.invals[ix]? = some v → ∃ t, exec (.tlbInvalidationComplete ix) s = .next t ∧ t.invals = s.invals.eraseIdx ix ∧ (∀ c, (t.core c).late = []) ∧
      (∀ c, (t.core c).tlb = (s.core c).tlb.filter fun x =>
        !(x.ctx == v.ctx && (match v.page with | none => true | some va => va / 2 ^ x.bits * 2 ^ x.bits == x.va))) ∧
      (v.who = none → t.tlbcmd = s.tlbcmd &&& 0x7FFFFFFF ∧ t.wgs = s.wgs) ∧
      (∀ g u n o', v.who = some (g, u, n) → (s.split g u n).live = true → (s.split g u n).st = .wait → (s.split g u n).wait = .inval →
        (s.split g u n).pend = some (.tlbinvAll o') ∨ (s.split g u n).pend = some (.tlbinvPage o') → s.frozen g u n = false →
        t.split g u n = { (s.split g u n).advance with since := s.tick }))

/-- R23, R166, R325, R326, R373, R376: a retired opcode traps to the firmware's handler with its next PC as resume PC. The handler then executes it: IMAD24 multiplies the low 24 bits, FMAD16 rounds product and sum of each
half, LOGE gives the natural logarithm, LDV loads four registers, SYNCW fences, MMA4 does to the array what MMA.Q4 does, and one whose guard holds in no lane has no effect. That the handler is one act, that it comes
before a kernel's handler and what an empty ACTIVE set leaves are the model's readings (log entries 19 and 62). -/
def Obligations.RetiredOpcodes : Prop :=
  ∀ (s : State) (raw : RawSlot),
    let x := s.curSplit
    let y := x.advance
    (s.traces s.curWg.core s.curWg.ctx 3 = false → x.handler = false → s.arrayBefore s.cur.wg s.cur.warp = false →
      (s.core s.curWg.core).late = [] → ∀ i ∈ [Instr.syncw raw, .imad24 raw, .fmad16 raw, .loge raw, .ldv raw, .mma4 raw],
        ∃ t, exec i s = .next t ∧ SameElsewhere s t ∧ t.curWarp.withSplitsOf s.curWarp = s.curWarp ∧ t.curWg.trapQueue = s.curWg.trapQueue ++ [(s.cur.warp, s.cur.split)] ∧
          t.curSplit.st = .inTrap ∧ t.curSplit.resume = y.pc ∧ t.curSplit.mask = x.mask ∧ t.curSplit.loops = y.loops ∧
          (∃ e, t.curSplit.emu = some e ∧ e.instr = i ∧ e.pc = x.pc ∧ e.mode = s.curWarp.mode) ∧
          (∃ r, t.curSplit.trap = some r ∧ r.code = 5 ∧ r.addr = x.pc.setWidth 64 ∧ r.pc = y.pc ∧ r.slot = raw.words)) ∧
    (∀ g w n rest e, (s.wg g).trapQueue = (w, n) :: rest → (s.wg g).handler = none → (s.split g w n).emu = some e → (s.split g w n).handler = false →
      (s.split g w n).holdNext = none →
      let z := s.split g w n
      let v : State := (s.actAs g w n).updWarp g w fun y => { y with mode := e.mode }
      let live := e.active &&& ~~~e.helpers
      let goes (t : State) (fl : Word) : Prop :=
        exec (.handlerEntry g) s = .next t ∧ (t.wg g).trapQueue = rest ∧ (t.split g w n).st = .run ∧ (t.split g w n).pc = z.resume ∧
          (t.warp g w).mode = (s.warp g w).mode ∧ (t.warp g w).flags = fl
      let reads (raw2 : RawSlot) (i : Instr) : Prop :=
        (∃ m, rawModern (Raw.ofSlot raw2.words) = some m ∧ decodeFields (s.decodeCtx g w n) m raw2.carrier = .ok i) ∧ retiredField (Raw.ofSlot raw2.words) = none
      let resumes (t : State) : Prop :=
        (t.wg g).trapQueue = rest ∧ (t.split g w n).st = .run ∧ (t.split g w n).pc = z.resume ∧ (t.split g w n).loops = z.loops ∧ (t.warp g w).mode = (s.warp g w).mode
      (e.active = 0 → ∃ t, exec (.handlerEntry g) s = .next t ∧ resumes t ∧ (t.warp g w).withSplitsOf (s.warp g w) = s.warp g w) ∧
      (∀ (raw2 : RawSlot) (o : Args) (u sat : Bool), e.instr = .imad24 raw2 → e.active ≠ 0 → o.d < 256 →
        reads raw2 (.imad o u sat) →
        ∃ t, goes t (v.flagsWith live (Src.vregs o.a 1 ++ Src.vregs o.b 1 ++ Src.vregs o.c 1) fun _ => 0) ∧
          ∀ l, e.active.getLsbD l = true →
            let low (a : Src) : Int := let b := (v.opnd .int a l).extractLsb' 0 24; if u then b.toNat else b.toInt
            (t.warp g w).getV l o.d = BitVec.ofInt 32 (low o.a * low o.b + (v.opnd .int o.c l).toInt)) ∧
      (∀ (raw2 : RawSlot) (o : Args) (bf : Bool) (rm : RMod), e.instr = .fmad16 raw2 → e.active ≠ 0 → o.d < 256 → reads raw2 (.hfma2 o bf rm) →
        let md := v.fmode rm
        let prod (l h : Nat) := fp16.mul md (v.half fp16 md o.a l h) (v.half fp16 md o.b l h)
        let sum (l h : Nat) := fp16.add md (fp16.value md.ftz (prod l h).1) (v.half fp16 md o.c l h)
        ∃ t, goes t (v.flagsWith live (Src.vregs o.a 1 ++ Src.vregs o.b 1 ++ Src.vregs o.c 1) fun l => (prod l 0).2 ||| (sum l 0).2 ||| ((prod l 1).2 ||| (sum l 1).2)) ∧
          ∀ l, e.active.getLsbD l = true → (t.warp g w).getV l o.d = BitVec.ofNat 32 ((sum l 0).1 + (sum l 1).1 * 2 ^ 16)) ∧
      (∀ (raw2 : RawSlot) (o : Args) (rm : RMod), e.instr = .loge raw2 → e.active ≠ 0 → o.d < 256 → reads raw2 (.lg2 o rm) →
        let ln (l : Nat) := specialFn .ln (v.fmode rm) (v.f32 (v.fmode rm) o.a l)
        ∃ t, goes t (v.flagsWith live (Src.vregs o.a 1) fun l => (ln l).2) ∧ ∀ l, e.active.getLsbD l = true → (t.warp g w).getV l o.d = BitVec.ofNat 32 (ln l).1) ∧
      (∀ (raw2 : RawSlot) (o : Args) (sz : LdSize) (sp : LsSpace) (pa : Nat → Nat) (attr : PageAttr), e.instr = .ldv raw2 → e.active ≠ 0 → o.d + 4 ≤ 256 →
        reads raw2 (.ld o sz sp) → e.helpers = 0 → v.Prompt → attr.stream = false →
        (∀ l, e.active.getLsbD l = true → v.locate g w l 0 0 (v.laneAddr o 0 true l) 16 .read = .ok (.mem (pa l) attr) ∧ v.poisoned (pa l) 16 = false ∧ pa l % 16 = 0) →
        ∃ t, goes t (s.warp g w).flags ∧ ∀ l k, e.active.getLsbD l = true → k < 4 → (t.warp g w).getV l (o.d + k) =
          BitVec.ofNat 32 (ofBytes ((List.range 4).map fun j => v.coreSees (s.wg g).core attr.key (pa l + 4 * k + j)))) ∧
      (∀ (raw2 : RawSlot) (o : Args) (sc : Scope), e.instr = .syncw raw2 → e.active ≠ 0 → reads raw2 (.fence o sc) → v.Prompt →
        ∃ t, goes t (s.warp g w).flags ∧ (t.warp g w).withSplitsOf (s.warp g w) = s.warp g w ∧ t.cores = s.cores) ∧
      (∀ (raw2 : RawSlot) (o : Args) (m : ArrayMods) (t' : State), e.instr = .mma4 raw2 → e.active ≠ 0 → reads raw2 (.mma o m) →
        let u := (((s.updWg g fun y => { y with trapQueue := rest }).actAs g w n).updSplit g w n fun y =>
          { y with st := .run, pc := e.pc, seq := false, loops := e.loops, emu := none, trap := none }).updWarp g w fun y => { y with mode := e.mode }
        exec (.mma { o with g := Guard.always } m) u = .next t' →
        ∃ t, exec (.handlerEntry g) s = .next t ∧ t.cores = t'.cores ∧ ((t'.split g w n).st = .run → (t.split g w n).st = .run ∧ (t.split g w n).pc = z.resume)))

/-! ## Class 110: copy commands, their engine, shapes -/

/-- R26, R84, R131, R136, R174, R246 to R251, R255, R257, R258, R260, R262: a command that the checks of acceptance pass takes the next number of its engine's timeline and stands last in its core's queue, with its tile slot written and, under .N, its number in a k pair; one that they
refuse traps with nothing accepted; with no room in the queue its split waits.
What each command is to write: TCOPY and TGATHER write each element below the valid counts, from the tensor, clamped to its border or, under .SH, as fill outside the shape, in distinct
sectors of 32 bytes; TSTORE and TSCATTER write what lies in the tensor, for the rows of the slot's row mask; TXFORM by routine 0 copies its bytes and by another starts the routine; TCOLL writes the tile. The dimensions that a layout
uses are the model's reading (log entry 18); the stores of the warp that are performed first, its choice (69). Its record of a command is the model's own (3). -/
def Obligations.CommandsAreAccepted : Prop :=
  (∀ (s : State) (o : Args) (m : CmdMods) (gm : GatherMode) (sh n : Bool) (op : CollOp) (root : Bool) (i : Instr) (wantsNumber coll : Bool) (code : Nat) (r : State × Accept),
    let f := s.fenceCur .wg
    (i, wantsNumber, coll, code, r) ∈
      [(.tcopy o m, m.n, false, 0x300, f.acceptTile .tcopy o m none), (.tstore o m, m.n, false, 0x301, f.acceptTile .tstore o m none),
       (.tgather o gm sh n, n, false, 0x302, f.acceptTile .tgather o { sh := sh, n := n } (some (f.laneRow 0x302 o gm))),
       (.tscatter o gm sh n, n, false, 0x303, f.acceptTile .tscatter o { sh := sh, n := n } (some (f.laneRow 0x303 o gm))),
       (.txform o n, n, false, 0x304, f.acceptXform o), (.tfill o n, n, false, 0x305, f.acceptFill o), (.tcoll o op root n, n, true, 0x306, f.acceptColl o op root)] →
    let core := s.curWg.core
    let engine := if coll then 2 ^ 28 + core / 40 else core
    let number := (s.timeline s.curWg.ctx engine).last + 1
    (s.acts code o.g = false → Completes i s s.advance {}) ∧
    (s.acts code o.g = true →
      ((s.core core).cmds.length < Config.copyQueue → (s.core core).copyWait = [] →
        (∀ c a d lane, r.2 = .trap c a d → (s.active code o.g).getLsbD lane = true → (∀ j < lane, (s.active code o.g).getLsbD j = false) →
          exec i s = .next (r.1.trapAt c a (if 0x20 ≤ c ∧ c ≤ 0x23 then d + lane * 256 else d))) ∧
        (∀ c slot, r.2 = .ok c slot → c.ctx = s.curWg.ctx ∧ ∃ t, exec i s = .next t ∧
          t.curSplit = s.curSplit.advance ∧ (t.core core).cmds = (s.core core).cmds ++ [{ c with number := number, engine := engine }] ∧
          t.timeline s.curWg.ctx engine = { s.timeline s.curWg.ctx engine with last := number } ∧
          (wantsNumber = true → t.curWarp.getK64 o.d = BitVec.ofNat 64 number) ∧
          (∀ k, ¬(wantsNumber = true ∧ (k = o.d ∨ k = o.d + 1)) → t.curWarp.getK k = s.curWarp.getK k) ∧
          (∀ l k, t.curWarp.getV l k = s.curWarp.getV l k) ∧ t.curWarp.p = s.curWarp.p ∧ t.curWarp.kp = s.curWarp.kp ∧ t.curWarp.flags = s.curWarp.flags ∧
          (∀ k, t.curWg.tile k = match slot with | some (j, x) => if k = j then x else s.curWg.tile k | none => s.curWg.tile k) ∧
          ∀ c, (t.core c).scratch = (f.core c).scratch ∧ (t.core c).acc = (f.core c).acc)) ∧
      (Config.copyQueue ≤ (s.core core).cmds.length ∨ (s.core core).copyWait ≠ [] → ∃ t, exec i s = .next t ∧
        t.curSplit = { s.curSplit with st := .wait, pend := some i, wait := .copyRoom, met := none, since := s.tick } ∧ t.timelines = s.timelines ∧
        (t.core core).cmds = (s.core core).cmds ∧ (t.core core).copyWait = (s.core core).copyWait ++ [(s.cur.wg, s.cur.warp, s.cur.split)]))) ∧
  (∀ (s : State) (o : Args) (m : CmdMods) (_ : GatherMode) (sh n : Bool) (op : CollOp) (root : Bool) (l : Layout) (loc : Nat),
    let wg := s.curWg
    let b (i : Nat) : Word := s.curWarp.getK (regNum o.b + i)
    let h : Nat := (b 1 ++ b 0 : DWord).toNat
    let base := h % 2 ^ 20 * 64
    let bar := h / 2 ^ 20 % 2 ^ 16 * 16
    let reg := wg.shape (h / 2 ^ 36 % 8)
    let slot := h / 2 ^ 39 % 2 ^ 9
    let rows := (b 7).toNat % 2 ^ 9
    let cols := (b 7).toNat / 2 ^ 16 % 2 ^ 13
    let vr := min ((b 6).toNat / 2 ^ 16) rows
    let vc := min ((b 6).toNat % 2 ^ 16) cols
    let bytes (fmt : Nat) : Nat := if fmt = 5 ∨ fmt = 6 then 4 else if fmt ≤ 1 then 2 else 1
    let live (off : Nat) : Prop := off + 16 ≤ wg.userBytes ∧ (s.tbar s.cur.wg off).mark = 0xB7 ∧ (s.tbar s.cur.wg off).valid = true
    let bounds : Prop := (b 7).toNat / 2 ^ 29 = 0 ∧ (b 7).toNat / 2 ^ 9 % 2 ^ 7 = 0 ∧ 1 ≤ rows ∧ rows ≤ 256 ∧ 1 ≤ cols ∧ cols ≤ 4096
    let writes (c : Cmd) (p : Nat → Cell → Prop) : Prop := ∀ a x, (∃ w ∈ c.todo, ∃ q ∈ w.puts, q.addr = a ∧ q.cell = x) ↔ p a x
    let inSectors (c : Cmd) : Prop := c.sectors = c.todo.length ∧
      (∀ w ∈ c.todo, w.space = 2 ∧ w.sector = true ∧ ∀ p ∈ w.puts, ∀ q ∈ w.puts, p.addr / 32 = q.addr / 32) ∧
      c.todo.Pairwise fun v w => ∀ p ∈ v.puts, ∀ q ∈ w.puts, p.addr / 32 ≠ q.addr / 32
    -- A tile command: the element size, the pitch, the clamped indices and columns of the tensor.
    let e := bytes l.fmt
    let i0 := (b 2).toInt
    let i1 := (b 3).toInt
    let clamp (d : Nat) (i : Int) : Nat := if d < l.dims then (max 0 (min i (l.ext d - 1))).toNat else 0
    let inside (d : Nat) (i : Int) : Prop := l.dims ≤ d ∨ 0 ≤ i ∧ i < l.ext d
    let i2 := clamp 2 (b 4).toInt
    let i3 := clamp 3 (b 5).toInt
    let row (r i2 i3 : Nat) : Nat := l.base + r * l.stride 1 + i2 * l.stride 2 + i3 * l.stride 3
    let pitch := (cols * e + 63) / 64 * 64
    let tileOk : Prop := bounds ∧ s.layoutRecord o.a = .inl (l, loc) ∧ l.ok = true ∧ l.bandTable = 0 ∧ l.fmt ≤ 6 ∧
      base + (rows - 1) * pitch + cols * e ≤ wg.userBytes ∧ live bar
    let shaped : Prop := reg.declared = true ∧ reg.bound = true ∧ l.dims = 2
    let mask := (wg.tile slot).mask
    let ends (r : State × Accept) (slotOf : Cmd → Option (Nat × TileSlot) → Prop) (p : Nat → Cell → Prop) : Prop :=
      ∃ c sl, r = ({ s with draws := s.draws + 1 }, .ok c sl) ∧ c.wg = s.cur.wg ∧ c.bar = some bar ∧ c.phase = (s.tbar s.cur.wg bar).phase ∧
        slotOf c sl ∧ writes c p
    let copied (fetch : Nat → Bool) (c : Cmd) (sl : Option (Nat × TileSlot)) : Prop := inSectors c ∧ ∃ tile, sl = some (slot, tile) ∧ tile.fmt = l.fmt ∧
      tile.cols = cols ∧ tile.rows = rows ∧ ∀ t, t < 256 → tile.mask.getLsbD t = (decide (t < vr) && fetch t)
    let stored (c : Cmd) (sl : Option (Nat × TileSlot)) : Prop := sl = none ∧ c.sectors = 0 ∧ ∀ w ∈ c.todo, w.space = l.space ∧ w.sector = false
    let at_ (a t u k : Nat) : Prop := t < vr ∧ u < vc ∧ k < e ∧ a = base + t * pitch + u * e + k
    let mem (a : Nat) : Cell := .mem l.space (a % 2 ^ 64)
    let fillB (k : Nat) : Cell := .fill (reg.image.fill.extractLsb' (8 * k) 8)
    let ragged (r : Option Nat) (u k : Nat) (x : Cell) : Prop :=
      (∀ y, r = some y → 0 ≤ i0 + u → i0 + u < l.ext 0 → x = mem (row y 0 0 + (i0 + u).toNat * e + k)) ∧
      (r = none ∨ i0 + u < 0 ∨ (l.ext 0 : Int) ≤ i0 + u → x = fillB k)
    (tileOk → m.sh = false → m.seq = false → ends (s.acceptTile .tcopy o m none) (copied fun _ => true) fun a x => ∃ t u k, at_ a t u k ∧
      x = mem (row (clamp 1 (i1 + t)) i2 i3 + clamp 0 (i0 + u) * e + k)) ∧
    (tileOk → m.sh = true → m.seq = false → shaped →
      let r (t : Nat) : Option Nat := if 0 ≤ i1 + t ∧ i1 + t < reg.image.rows then some (i1 + t).toNat else none
      ends (s.acceptTile .tcopy o m none) (copied fun t => (r t).isSome) fun a x => ∃ t u k, at_ a t u k ∧ ragged (r t) u k x) ∧
    (tileOk → m.sh = true → m.seq = true → shaped →
      let q := (b 4).toNat
      let bd (j : Nat) : Nat := reg.image.bounds.getD j 0
      let r (t : Nat) : Option Nat :=
        if q < reg.image.nseq ∧ bd q + ((b 3).toNat + t) < bd (q + 1) then some (bd q + ((b 3).toNat + t)) else none
      ends (s.acceptTile .tcopy o m none) (copied fun t => (r t).isSome) fun a x => ∃ t u k, at_ a t u k ∧ ragged (r t) u k x) ∧
    (tileOk → m.sh = false → m.seq = false → ends (s.acceptTile .tstore o m none) stored fun a x => ∃ t u k, t < vr ∧ u < vc ∧ k < e ∧ mask.getLsbD t = true ∧
      inside 1 (i1 + t) ∧ inside 2 (b 4).toInt ∧ inside 3 (b 5).toInt ∧ 0 ≤ i0 + u ∧ i0 + u < l.ext 0 ∧
      a = (row (clamp 1 (i1 + t)) i2 i3 + (i0 + u).toNat * e + k) % 2 ^ 64 ∧ x = .mem 2 (base + t * pitch + u * e + k)) ∧
    (tileOk → rows ≤ s.curWarp.width →
      let act (t : Nat) : Bool := (s.active 0x302 o.g).getLsbD t
      let r (t : Nat) : Int := (s.opnd .int o.c t).toInt
      let addr (t : Nat) : Nat := (s.opnd64 .bits o.c t).toNat
      let gather (gm : GatherMode) : State × Accept := s.acceptTile .tgather o { sh := sh, n := n } (some (s.laneRow 0x302 o gm))
      let scatter (gm : GatherMode) : State × Accept := s.acceptTile .tscatter o { sh := sh, n := n } (some (s.laneRow 0x303 o gm))
      (sh = false → ends (gather .rows) (copied act) fun a x => ∃ t u k, at_ a t u k ∧ act t = true ∧ x = mem (row (clamp 1 (r t)) i2 i3 + clamp 0 (i0 + u) * e + k)) ∧
      (sh = true → shaped →
        let ok (t : Nat) : Bool := decide (0 ≤ r t) && decide (r t < reg.image.rows)
        ends (gather .rows) (copied fun t => act t && ok t) fun a x => ∃ t u k, at_ a t u k ∧ act t = true ∧
          ragged (if ok t then some (r t).toNat else none) u k x) ∧
      (sh = false → ends (gather .addr) (copied act) fun a x => ∃ t u k, at_ a t u k ∧ act t = true ∧ x = mem (addr t + clamp 0 (i0 + u) * e + k)) ∧
      (sh = false → ends (scatter .rows) stored fun a x => ∃ t u k, t < vr ∧ u < vc ∧ k < e ∧ mask.getLsbD t = true ∧ act t = true ∧
        inside 1 (r t) ∧ inside 2 (b 4).toInt ∧ inside 3 (b 5).toInt ∧ 0 ≤ i0 + u ∧ i0 + u < l.ext 0 ∧
        a = (row (clamp 1 (r t)) i2 i3 + (i0 + u).toNat * e + k) % 2 ^ 64 ∧ x = .mem 2 (base + t * pitch + u * e + k)) ∧
      (sh = false → ends (scatter .addr) stored fun a x => ∃ t u k, t < vr ∧ u < vc ∧ k < e ∧ mask.getLsbD t = true ∧ act t = true ∧
        0 ≤ i0 + u ∧ i0 + u < l.ext 0 ∧ a = (addr t + (i0 + u).toNat * e + k) % 2 ^ 64 ∧ x = .mem 2 (base + t * pitch + u * e + k))) ∧
    -- A BFP tensor of one format: blocks of 32 elements, and their exponent bytes after the rows.
    (let w := 4 * (l.fmt - 6)
     let last : Int := l.ext 0 / 32
     let g0 := i0 / 32
     let y (t : Nat) : Nat := clamp 1 (i1 + t)
     let block (t : Nat) (g : Int) (k : Nat) : Cell :=
       if g < 0 then .copies l.space (row (y t) i2 i3 % 2 ^ 64) (l.fmt - 6) 0 k
       else if last ≤ g then .copies l.space ((row (y t) i2 i3 + (last.toNat - 1) * w) % 2 ^ 64) (l.fmt - 6) 31 k
       else mem (row (y t) i2 i3 + g.toNat * w + k)
     let exp (t : Nat) (g : Int) : Cell :=
       mem (l.scale + ((i3 * l.ext 2 + i2) * l.ext 1 + y t) * l.ext 0 / 32 + (max 0 (min g (last - 1))).toNat)
     let rowLen := (cols / 32 * w + 63) / 64 * 64
     bounds → s.layoutRecord o.a = .inl (l, loc) → l.ok = true → l.bandTable = 0 → 8 ≤ l.fmt → l.fmt ≤ 14 →
       base + rows * rowLen + rows * (cols / 32) ≤ wg.userBytes → live bar → cols % 32 = 0 → vc % 32 = 0 → (b 2).toNat % 32 = 0 →
       m.sh = false → m.seq = false → ends (s.acceptTile .tcopy o m none) (fun c sl => c.sectors = c.todo.length ∧ ∃ tile, sl = some (slot, tile) ∧ tile.fmt = l.fmt)
         fun a x => (∃ t g k, t < vr ∧ g < vc / 32 ∧ k < w ∧ a = base + t * rowLen + g * w + k ∧ x = block t (g0 + g) k) ∨
           ∃ t g, t < vr ∧ g < vc / 32 ∧ a = base + rows * rowLen + t * (cols / 32) + g ∧ x = exp t (g0 + g)) ∧
    -- TXFORM: its block names source, destination, their lengths, the barrier and the spaces.
    (let src := (b 1 ++ b 0 : DWord).toNat
     let dst := (b 3 ++ b 2 : DWord).toNat
     let len := (b 4).toNat
     let dlen := (b 5).toNat
     let off := (b 6).toNat
     let ss := (b 7).toNat % 8
     let ds := (b 7).toNat / 16 % 8
     let ix := (s.uni o.a).toNat
     let entry := sget (fun _ => ({} : RoutineEntry)) s.routines ix
     let named : Prop := b 6 = 0xFFFFFFFF ∨ off % 16 = 0 ∧ live off
     ix ≤ 63 → entry.valid = true → (b 7).toNat / 128 = 0 → (b 7).toNat / 8 % 2 = 0 → ss ∈ [0, 2, 4] → ds ∈ [0, 2, 4] → (ss = 2 → src + len ≤ wg.userBytes) →
     (ds = 2 → dst + dlen ≤ wg.userBytes) → named →
     (ix = 0 → len = dlen → ∃ c, s.acceptXform o = (s, .ok c none) ∧ c.bar = (if b 6 = 0xFFFFFFFF then none else some off) ∧ c.routine = none ∧
       c.sectors = (if ds = 2 ∧ len ≠ 0 then (dst + len - 1) / 32 - dst / 32 + 1 else 0) ∧
       writes c fun a x => ∃ k, k < len ∧ a = (dst + k) % 2 ^ 64 ∧ x = .mem ss ((src + k) % 2 ^ 64)) ∧
     (ix ≠ 0 → (ss = ds → src + len ≤ dst ∨ dst + dlen ≤ src) → ∃ c r, s.acceptXform o = (s, .ok c none) ∧ c.todo = [] ∧ c.routine = some r ∧
       r.index = ix ∧ r.image = entry.bytes ∧ r.args = (List.range 8).map (fun k => s.curWarp.getK (regNum o.c + k)) ∧ r.src = (ss, src) ∧ r.srcLen = len ∧
       r.dst = (ds, dst) ∧ r.dstLen = dlen ∧ r.filled = 0 ∧ r.released = 0 ∧ r.committed = 0 ∧ r.cycles = 0)) ∧
    -- TCOLL of a format whose elements are whole bytes.
    (let fmt := (b 2).toNat
     let e := bytes fmt
     let pitch := (cols * e + 63) / 64 * 64
     let wrote : Prop := root = false ∨ wg.rank = 0
     bounds → (match op with | .sumi => fmt = 6 | .maxi => fmt = 6 | .sumf => fmt = 5 | .maxf => fmt = 5 | .bcast => fmt ≤ 6) → b 3 = 0 → b 4 = 0 → b 5 = 0 →
     base + (rows - 1) * pitch + cols * e ≤ wg.userBytes → live bar → ∃ c sl, s.acceptColl o op root = (s, .ok c sl) ∧ c.coll = some (op, root) ∧ c.bar = some bar ∧
       inSectors c ∧ (wrote → ∃ tile, sl = some (slot, tile) ∧ tile.fmt = fmt ∧ tile.rows = rows ∧ tile.cols = cols) ∧ (¬wrote → sl = none ∧ c.todo = []) ∧
       (wrote → writes c fun a x => (∃ t k, t < vr ∧ k < vc * e ∧ a = base + t * pitch + k) ∧ x = .mem 2 a)))

/-- R38, R153, R247, R250, R251, R253, R255, R259, R263, R264, R386: TFILL with legal operands is accepted: it latches its barrier's phase, its slot records format, bounds and rows, and its work is to write the fill value at each element below the valid counts, in
distinct sectors of 32 bytes. TFILL.TB sets a barrier up and TFILL.TBINV clears its VALID, after the stores of their warp that are not performed yet (the model's choice, log entry 69), and an illegal count traps whatever
the guard (R153); TCANCEL takes the workgroup's commands from a number on out of the queue, but for collectives, and flows on; those whose check has failed leave
it with their records, and the split waits for them (the model's reading of R263, R264 and R386, log entry 52). -/
def Obligations.TileFillAndBarriers : Prop :=
  ∀ (s : State) (o : Args),
    let wg := s.curWg
    let b (i : Nat) : Nat := (s.curWarp.getK (regNum o.b + i)).toNat
    let base := b 0 % 2 ^ 20 * 64
    let bar := (b 0 / 2 ^ 20 + b 1 % 16 * 2 ^ 12) * 16
    let slot := b 1 / 2 ^ 7 % 2 ^ 9
    let rows := b 7 % 2 ^ 9
    let cols := b 7 / 2 ^ 16 % 2 ^ 13
    let vr := min (b 6 / 2 ^ 16) rows
    let vc := min (b 6 % 2 ^ 16) cols
    let e := if b 2 = 5 ∨ b 2 = 6 then 4 else if b 2 ≤ 1 then 2 else 1
    let pitch := (cols * e + 63) / 64 * 64
    let tb := s.tbar s.cur.wg bar
    let off := (s.uni o.a).toNat
    let count := (s.uni o.b).toNat
    let sf := s.fenceCur .wg
    let barWritten (i : Instr) (f : Nat → Byte) : Prop :=
      ∃ t, exec i s = .next t ∧ t.wgs = s.advance.wgs ∧ (t.withWgsOf sf).withCoresOf sf = sf ∧ (∀ c, c ≠ wg.core → t.core c = sf.core c) ∧
        (t.core wg.core).withScratchOf (sf.core wg.core) = sf.core wg.core ∧
        ∀ a, (t.core wg.core).sp a = if wg.user + off ≤ a ∧ a < wg.user + off + 16 then f (a - (wg.user + off)) else (sf.core wg.core).sp a
    (b 2 ≤ 6 → b 3 = 0 → b 4 = 0 → b 5 = 0 → b 7 / 2 ^ 29 = 0 → b 7 / 2 ^ 9 % 2 ^ 7 = 0 → 1 ≤ rows → rows ≤ 256 → 1 ≤ cols → cols ≤ 4096 →
      base + (rows - 1) * pitch + cols * e ≤ wg.userBytes → bar + 16 ≤ wg.userBytes → tb.mark = 0xB7 → tb.valid = true →
      ∃ c tile, s.acceptFill o = (s, .ok c (some (slot, tile))) ∧ c.kind = .tfill ∧ c.bar = some bar ∧ c.phase = tb.phase ∧ c.wg = s.cur.wg ∧
        tile.fmt = b 2 ∧ tile.cols = cols ∧ tile.rows = rows ∧ (∀ r, r < 256 → tile.mask.getLsbD r = decide (r < vr)) ∧
        c.sectors = c.todo.length ∧
        (∀ a x, (∃ w ∈ c.todo, ∃ p ∈ w.puts, p.addr = a ∧ p.cell = .lit x) ↔
          ∃ t k, t < vr ∧ k < vc * e ∧ a = base + t * pitch + k ∧ x = (s.uni o.c).extractLsb' (8 * (k % e)) 8) ∧
        (∀ w ∈ c.todo, w.space = 2 ∧ w.sector = true ∧ ∀ p ∈ w.puts, ∀ q ∈ w.puts, p.addr / 32 = q.addr / 32) ∧
        c.todo.Pairwise (fun v w => ∀ p ∈ v.puts, ∀ q ∈ w.puts, p.addr / 32 ≠ q.addr / 32)) ∧
    (count = 0 ∨ 65535 < count → exec (.tfillTb o) s = .next (s.trapAt 0x06 0 7)) ∧
    (s.acts 0x305 o.g = false → (1 ≤ count → count ≤ 65535 → Completes (.tfillTb o) s s.advance {}) ∧ Completes (.tfillTbinv o) s s.advance {} ∧
      Completes (.tcancel o) s s.advance {}) ∧
    (s.acts 0x305 o.g = true →
      (off + 16 ≤ wg.userBytes → off % 16 = 0 →
        (1 ≤ count → count ≤ 65535 → barWritten (.tfillTb o) fun i =>
          match i with
          | 0 => 0x10
          | 1 => BitVec.ofNat 8 count
          | 2 => BitVec.ofNat 8 (count / 256)
          | 3 => BitVec.ofNat 8 count
          | 4 => BitVec.ofNat 8 (count / 256)
          | 9 => 0xB7
          | _ => 0) ∧
        barWritten (.tfillTbinv o) fun i => if i = 0 then (sf.core wg.core).sp (wg.user + off) &&& 0xEF else (sf.core wg.core).sp (wg.user + off + i)) ∧
      (∀ l, (s.active 0x305 o.g).getLsbD l = true → (∀ j < l, (s.active 0x305 o.g).getLsbD j = false) →
        (wg.userBytes < off + 16 → (1 ≤ count → count ≤ 65535 → exec (.tfillTb o) s = .next (sf.trapAt 0x20 off (2 + l * 256))) ∧
          exec (.tfillTbinv o) s = .next (sf.trapAt 0x20 off (2 + l * 256))) ∧
        (off + 16 ≤ wg.userBytes → off % 16 ≠ 0 → exec (.tfillTbinv o) s = .next (sf.trapAt 0x21 off (2 + l * 256)))) ∧
      ((∀ c ∈ (s.core wg.core).cmds, ∀ d ∈ (s.core wg.core).cmds, c.number = d.number → c.ctx = d.ctx → c.engine = d.engine → c.wg = d.wg → c = d) →
        let n := (s.uni64 o.a).toNat
        let named (c : Cmd) : Bool := c.wg == s.cur.wg && c.kind != .tcoll && decide (n ≤ c.number)
        ∃ t, exec (.tcancel o) s = .next t ∧ (t.core wg.core).cmds = (s.core wg.core).cmds.filter (fun c => !(named c && !c.failed)) ∧
          t.curSplit = if (s.core wg.core).cmds.any fun c => named c && c.failed then
              { s.curSplit with st := .wait, pend := some (.tcancel o), wait := .cancel n, met := none, since := s.tick }
            else s.curSplit.advance))

/-- R84, R86, R246, R253, R254, R262, R264, R265, R386: the copy engine. A command arrives on its barrier with its sectors, and each sector it writes counts one down; the phase flips where nothing is pending; an act that no longer matches sets STRAY and writes a record. A
command with nothing left to write completes, and its timeline advances; the split that waits longest for room has its command accepted; a collective of agreeing members writes the combined tile.
A TCOPY whose checksum fails at its last write withholds it, poisons its barrier, takes the sectors that it never wrote out of it and writes a record, and completes only once that is in its ring; an access that faults
suspends its command with a held record. A TSTORE without a checksum may read one word before the rest (log entry 50), and one of whose lines deduplication holds completes after that (R66, R409). Which of its writes a command has made when is the model's agenda (log entry 2).
That an event whose condition does not hold leaves the state, and the fields that record what
waits, are the model's own (log entry 3). An engine's walk takes place within its act (9); a
store reads its tile at one act but for those words (50). -/
def Obligations.CommandsRun : Prop :=
  ∀ (s : State) (core ix : Nat) (c : Cmd) (off : Nat), (s.core core).cmds[ix]? = some c → (s.wg c.wg).core = core →
    let g := s.wg c.wg
    let b := s.tbar c.wg off
    let at_ := g.user + off
    let matches_ := b.mark = 0xB7 ∧ b.valid = true ∧ b.phase = c.phase
    let after (t : State) (pend : Nat) (sectors : Word) : Prop :=
      let y := t.tbar c.wg off
      y.mark = 0xB7 ∧ y.valid = true ∧ y.poison = b.poison ∧ y.per = b.per ∧
        (pend = 0 ∧ sectors = 0 → y.phase = (b.phase + 1) % 16 ∧ y.pend = b.per ∧ y.sectors = 0) ∧
        (¬(pend = 0 ∧ sectors = 0) → y.phase = b.phase ∧ y.pend = pend ∧ y.sectors = sectors)
    let others (t : State) (kept : Nat → Prop) : Prop := ∀ a, kept a → (a < at_ ∨ at_ + 16 ≤ a) → (t.core core).sp a = (s.core core).sp a
    (c.bar = some off → c.kind = .tfill → c.crc = none → c.arrived = false → c.suspended = false → (∀ n, (s.ctx n).pending = []) → s.engineStarts core = true →
      (matches_ → b.pend ≠ 0 → ∃ t, exec (.commandArrival core ix) s = .next t ∧ after t (b.pend - 1) (b.sectors + BitVec.ofNat 32 c.sectors) ∧ others t (fun _ => True) ∧
        (t.core core).cmds = (s.core core).cmds.set ix { c with started := true, arrived := true }) ∧
      (¬(matches_ ∧ b.pend ≠ 0) → ∃ t, exec (.commandArrival core ix) s = .next t ∧ others t (fun _ => True) ∧ (t.tbar c.wg off).getLsbD 6 = true ∧
        (g.ctx = c.ctx → (s.ctx c.ctx).ringFull = false → ∃ r, (t.ctx c.ctx).pending = [r] ∧ r.code = 0x80 ∧ r.addr = BitVec.ofNat 64 off ∧ r.data = 1))) ∧
    (∀ x y q z, c.kind = .tstore ∨ c.kind = .tscatter → c.crc = none → c.arrived = false → c.suspended = false → s.engineStarts core = true →
      c.todo = [{ space := 0, puts := [x, y] }] → x.cell = .mem 2 q → y.cell = .mem 2 z → q < g.userBytes → z / 4 ≠ q / 4 →
      (s.readEarly core ix (q / 4)) = s.updCore core fun k => { k with cmds := k.cmds.set ix { c with
        started := true, todo := [{ space := 0, puts := [{ x with cell := .lit ((s.core core).sp (g.user + q)) }, y] }] } }) ∧
    (∀ a x rest, c.bar = some off → c.kind = .tfill → c.crc = none → c.arrived = true → c.suspended = false → c.counted = [] → matches_ → a < g.userBytes →
      (g.user + a < at_ ∨ at_ + 16 ≤ g.user + a) → c.todo = { space := 2, puts := [{ row := 0, addr := a, cell := .lit x }], sector := true } :: rest →
      ∃ t, exec (.sectorWrite core ix) s = .next t ∧ (t.core core).sp (g.user + a) = x ∧ after t b.pend (b.sectors - 1) ∧ others t (· ≠ g.user + a) ∧
        (t.core core).cmds = (s.core core).cmds.set ix { c with todo := rest, counted := [a / 32] }) ∧
    (∀ pa attr a x rest, c.kind = .txform → c.crc = none → c.arrived = true → c.suspended = false → attr.key = none → s.lineKey (lineOf pa) = none →
      c.todo = { space := 0, puts := [{ row := 0, addr := a, cell := .lit x }] } :: rest → globalFault a 1 = none →
      (∀ u ∈ [s, s.publish attr none pa [x]], u.translate core g.ctx (a % 2 ^ 57) .write = .ok pa attr) →
      ∃ t, exec (.engineGlobalWrite (.copy core ix)) s = .next t ∧ t.homeByte none pa = x ∧ (∀ q, q ≠ pa → t.homeByte none q = s.homeByte none q) ∧
        (t.core core).cmds = (s.core core).cmds.set ix { c with todo := rest }) ∧
    (∀ a x want, c.bar = some off → c.kind = .tcopy → c.crc = some want → c.arrived = true → c.suspended = false → c.counted.length < c.sectors → matches_ →
      c.todo = [{ space := 2, puts := [{ row := 0, addr := a, cell := .lit x }], sector := true }] →
      let now := ~~~(crcByte c.crcNow x)
      now ≠ want → ∃ t, exec (.sectorWrite core ix) s = .next t ∧ others t (fun _ => True) ∧
        (let y := t.tbar c.wg off
         let left := b.sectors - BitVec.ofNat 32 (c.sectors - c.counted.length)
         y.poison = true ∧ y.mark = 0xB7 ∧ y.valid = true ∧ (b.pend = 0 ∧ left = 0 → y.phase = (b.phase + 1) % 16 ∧ y.pend = b.per ∧ y.sectors = 0) ∧
           (¬(b.pend = 0 ∧ left = 0) → y.phase = b.phase ∧ y.pend = b.pend ∧ y.sectors = left)) ∧
        (t.core core).cmds = (s.core core).cmds.set ix { c with failed := true, todo := [], arrived := true, sectors := c.counted.length } ∧
        ∃ r, (t.ctx g.ctx).pending = (s.ctx g.ctx).pending ++ [r] ∧ r.code = 0x81 ∧ r.kind = 1 ∧ r.held = false ∧ r.addr = BitVec.ofNat 64 off ∧
          r.data = BitVec.ofNat 64 (now.toNat * 2 ^ 32 + want.toNat) ∧ r.slot.toNat % 2 ^ 64 = c.number % 2 ^ 64) ∧
    (c.failed = true →
      ((∃ r ∈ (s.ctx c.ctx).pending, r.code = 0x81 ∧ r.engine = c.engine ∧ r.slot.toNat % 2 ^ 64 = c.number) → exec (.commandCompletion core ix) s = .next s) ∧
      ((∀ r ∈ (s.ctx c.ctx).pending, r.code ≠ 0x81) → ∃ t, exec (.commandCompletion core ix) s = .next t ∧ c ∉ (t.core core).cmds)) ∧
    (∀ a x row f, c.kind = .txform → c.crc = none → c.arrived = true → c.suspended = false → globalFault a 1 = none →
      c.todo = [{ space := 0, puts := [{ row := row, addr := a, cell := .lit x }] }] → s.translate core g.ctx (a % 2 ^ 57) .write = .fault f →
      f.code = 0x22 ∨ f.code = 0x23 → ∃ t, exec (.engineGlobalWrite (.copy core ix)) s = .next t ∧ (∀ q, t.homeByte none q = s.homeByte none q) ∧
        (t.core core).cmds = (s.core core).cmds.set ix { c with suspended := true } ∧
        ∃ r, (t.ctx g.ctx).pending = (s.ctx g.ctx).pending ++ [r] ∧ r.code = 0x82 ∧ r.kind = 1 ∧ r.held = true ∧ r.addr = BitVec.ofNat 64 a ∧ r.pc = c.pc ∧
          r.data = BitVec.ofNat 64 ((if f.code = 0x22 then 0 else 1) + f.data % 8 * 16) ∧
          r.slot = BitVec.ofNat 96 (c.number % 2 ^ 64 + row % 2 ^ 32 * 2 ^ 64)) ∧
    (c.kind ≠ .tcoll → c.arrived = true → c.suspended = false → c.failed = false → c.routine = none → c.todo = [] →
      ((∃ l ∈ c.heldBack, s.isHeld l = true) → exec (.commandCompletion core ix) s = .next s) ∧
      ((∀ l ∈ c.heldBack, s.isHeld l = false) → (∀ d ∈ (s.core core).cmds, d.number = c.number → d.ctx = c.ctx → d.engine = c.engine → d.wg = c.wg → d = c) →
      ∃ t, exec (.commandCompletion core ix) s = .next t ∧ (t.core core).cmds = (s.core core).cmds.filter (fun d => d != c) ∧
        (let tl := s.timeline c.ctx c.engine
         tl.done = [] → c.number = tl.count + 1 → (t.timeline c.ctx c.engine).count = c.number))) ∧
    (∀ i w n rest, (s.core core).copyWait = (c.wg, w, n) :: rest → s.frozen c.wg w n = false → (s.core core).cmds.length < Config.copyQueue →
      let x := s.split c.wg w n
      x.live = true → x.st = .wait → x.wait = .copyRoom → x.pend = some i →
      let u := ((s.updCore core fun k => { k with copyWait := rest.filter (· != (c.wg, w, n)) }).actAs c.wg w n).updSplit c.wg w n fun y =>
        { y with st := .run, pend := none, wait := .nothing, since := s.tick }
      exec (.copyQueueRoom core) s = .next ((u.acceptInstr i).getD u)) ∧
    (∀ cl op root (d : Cmd) (other offD : Nat), (s.cluster cl).wgs = [c.wg, d.wg] → (s.wg d.wg).core = other → other ≠ core → (s.core core).cmds = [c] → (s.core other).cmds = [d] →
      c.bar = some off → d.bar = some offD → c.kind = .tcoll → d.kind = .tcoll → c.arrived = true → d.arrived = true → c.coll = some (op, root) → d.agrees c = true →
      let place (e : Cmd) : Nat := handleBase e.handle
      let todo (e : Cmd) : List Work := [{ space := 2, puts := (List.range 4).map fun j => { row := 0, addr := place e + j, cell := .lit 0 }, sector := true }]
      let word (e : Cmd) : Word := BitVec.ofNat 32 (ofBytes ((s.core (s.wg e.wg).core).spRead ((s.wg e.wg).user + place e) 4))
      off + 16 ≤ place c → offD + 16 ≤ place d → place c + 4 ≤ g.userBytes → place d + 4 ≤ (s.wg d.wg).userBytes → c.todo = todo c → d.todo = todo d →
      let x : Word := match op with
        | .sumi => word c + word d
        | .maxi => if (word c).toInt < (word d).toInt then word d else word c
        | .sumf => addF32 (word c) (word d)
        | .maxf => BitVec.ofNat 32 (minMaxVal fp32 {} true (fp32.value false (word c).toNat) (fp32.value false (word d).toNat) (word c).toNat (word d).toNat).1
        | .bcast => word c
      ∃ t, exec (.collectiveCompletion cl) s = .next t ∧ (t.core core).cmds = [] ∧ (t.core other).cmds = [] ∧
        ∀ j, j < 4 → (t.core core).sp (g.user + place c + j) = x.extractLsb' (8 * j) 8 ∧
          (t.core other).sp ((s.wg d.wg).user + place d + j) = x.extractLsb' (8 * j) 8) ∧
    (∀ cl, (∃ h ∈ (s.cluster cl).wgs, s.memberColl h = none) → exec (.collectiveCompletion cl) s = .next s)

/-- R88, R396 to R403: a routine's command. Its core starts at RIMG.ENTRY with its registers zero and vtype illegal; an instruction in its code does what RISC-V gives it (an immediate sum and a store of a word of the control block are stated; the rest is the model's rvNext, log entry 5), and one outside its window, ecall, ebreak and an undefined one fault. The engine fills
source bytes into the window; the routine gives them back, waits for them, commits bytes of buffer 1, or for MXCVT of the result of R403, and ends with a status; a bad release, a bad commit, a fault and an expired budget suspend it with a
record that no resume follows. RISC-V's own text is outside the manual (log entry 5), and how many cycles an instruction takes is a free value of the model (74).
That an event whose condition does not hold leaves the state, and the fields that record what
waits, are the model's own (log entry 3). So is that stream buffers start with zeros (78). -/
def Obligations.RoutineCommands : Prop :=
  (∀ r : Routine,
    let im (lo n : Nat) : Nat := ofBytes (r.image.take 64) / 2 ^ lo % 2 ^ n
    let z := r.start
    z.rv = { pc := BitVec.ofNat 64 (im 160 32), x := [], f := [], v := [], fcsr := 0, vtype := 0x8000000000000000, vl := 0, vstart := 0, vcsr := 0 } ∧
      z.filled = 0 ∧ z.released = 0 ∧ z.committed = 0 ∧ z.cycles = 0 ∧ z.waits = none ∧ z.done = none ∧ z.acts = [] ∧
      (∀ i, i < im 96 32 → z.read i = some (r.image.getD (64 + i) 0)) ∧
      (∀ i, i < im 128 32 → i < 0xF0000 → im 96 32 ≤ 0x10000 → 64 + (im 96 32 + 63) / 64 * 64 + im 128 32 ≤ r.image.length →
        z.read (0x10000 + i) = some (r.image.getD (64 + (im 96 32 + 63) / 64 * 64 + i) 0))) ∧
  ∀ (s : State) (core ix : Nat) (c : Cmd) (r : Routine), (s.core core).cmds[ix]? = some c → c.routine = some r → c.arrived = true → c.suspended = false →
    c.failed = false → r.done = none →
    let live : Prop := r.cycles ≤ r.budget
    let mx : Prop := r.id = 0x101 ∧ r.ver = 1
    let becomes (u : State) (i : Instr) (d : Cmd) : Prop := exec i s = .next (u.updCore core fun k => { k with cmds := k.cmds.set ix d })
    let suspends (i : Instr) : Prop :=
      ∃ t, exec i s = .next t ∧ (t.core core).cmds = (s.core core).cmds.set ix { c with suspended := true, dead := true } ∧
        ∃ e : TrapRec, (t.ctx (s.wg c.wg).ctx).pending = (s.ctx (s.wg c.wg).ctx).pending ++ [e] ∧ e.code = 0x82 ∧ e.kind = 1 ∧ e.held = true ∧ e.data = 0x72 ∧
          e.addr = r.rvPc
    let left := r.srcLen - r.released
    let inWindow := r.filled - r.released
    let writes (off n : Nat) : Prop := r.waits = none ∧ r.acts = [.control off (BitVec.ofNat 32 n)] ∧ n < 2 ^ 32 ∧ ¬mx
    let stepped (u : Routine) : Prop := ((s.routineStep core ix).core core).cmds = (s.core core).cmds.set ix { c with routine := some u }
    let cycles := r.cycles + 1 + Config.rvCycles s.draws
    (live → ¬mx → r.waits = none → r.acts = [] →
      (r.fetch = none → stepped { r with rvPc := r.rv.pc, cycles := cycles, acts := [.fault] }) ∧
      (∀ i, r.fetch = some i →
        let loads := rvLoads r.rv i s.draws
        let bs := r.reads loads.1
        let faults : Prop := stepped { r with rvPc := r.rv.pc, cycles := cycles, acts := [.fault] }
        (bs.length < loads.2 → faults) ∧ (i = 0x73 ∨ i = 0x100073 ∨ i = 0x9002 ∨ i = 0 → faults) ∧
        (loads.2 ≤ bs.length →
          (rvNext r.rv i bs s.draws = none → faults) ∧
          (∀ q, rvNext r.rv i bs s.draws = some (q, []) → stepped { r with rvPc := r.rv.pc, cycles := cycles, rv := q, acts := [] }) ∧
          (∀ q a y, rvNext r.rv i bs s.draws = some (q, [(a, y)]) → 0x110000 ≤ a → a < 0x120000 → c.todo = [] → r.partWord = [] → r.dataLen ≤ 0xF0000 →
            stepped { r with rvPc := r.rv.pc, cycles := cycles, rv := q, acts := [], buf1 := sset (fun _ => 0) r.buf1 (a - 0x110000) y })) ∧
        (∀ (rd rs : Fin 32) (imm : BitVec 12), i.toNat = 0x13 + rd.val * 2 ^ 7 + rs.val * 2 ^ 15 + imm.toNat * 2 ^ 20 →
          stepped { r with rvPc := r.rv.pc, cycles := cycles, acts := [], rv := { r.rv.setX rd.val (r.rv.getX rs.val + imm.signExtend 64) with pc := r.rv.pc + 4 } }) ∧
        (∀ rs rt : Fin 32, i.toNat = 0x23 + 2 * 2 ^ 12 + rs.val * 2 ^ 15 + rt.val * 2 ^ 20 → r.rv.getX rs.val = 0x20003C → r.dataLen ≤ 0xF0000 →
          stepped { r with rvPc := r.rv.pc, cycles := cycles, acts := [.control 0x3C ((r.rv.getX rt.val).setWidth 32)], rv := { r.rv with pc := r.rv.pc + 4 } }))) ∧
    (live → r.acts.head? = some .fault → suspends (.routineFault core ix r.rvPc)) ∧
    (∀ pc, live → r.acts.head? ≠ some .fault ∨ pc ≠ r.rvPc → exec (.routineFault core ix pc) s = .next s) ∧
    (¬live → suspends (.routineBudgetExpiry core ix r.rvPc)) ∧ (∀ pc, live ∨ pc ≠ r.rvPc → exec (.routineBudgetExpiry core ix pc) s = .next s) ∧
    (∀ n s1 bs, live → r.filled + n ≤ r.srcLen → inWindow + n ≤ 65536 →
      let from_ := r.filled + r.ahead.length
      let upto := min r.srcLen ((r.src.2 + r.filled + n + 3) / 4 * 4 - r.src.2)
      s.engBytes c.wg r.src.1 (r.src.2 + from_) (upto - from_) none = (s1, .inl bs) →
      becomes s1 (.sourceFill core ix n) { c with routine := some { r with
        filled := r.filled + n, window := r.window ++ (r.ahead ++ bs).take n, ahead := (r.ahead ++ bs).drop n,
        waits := match r.waits with | some m => if min m left ≤ r.filled + n - r.released then none else some m | none => none } }) ∧
    (∀ n, live →
      (writes 0x30 n → n ≤ inWindow → becomes s (.routineInrel core ix n) { c with routine := some { r with acts := [], released := r.released + n } }) ∧
      (writes 0x30 n → inWindow < n → suspends (.routineInrel core ix n)) ∧
      (writes 0x34 n → becomes s (.routineInwait core ix n) { c with routine := some { r with acts := [], waits := if min n left ≤ inWindow then none else some n } }) ∧
      (∀ bytes, writes 0x3C n → r.dstLen < r.committed + n → suspends (.routineOutcommit core ix n bytes)) ∧
      (∀ out, mx → r.waits = none → r.mxOut = some out → r.filled = r.srcLen → r.committed + n ≤ out.length → r.committed + n ≤ r.dstLen → c.todo = [] →
        r.partWord = [] → n ≤ 65536 → r.dst.1 = 0 → (r.dst.2 + r.committed) % 4 = 0 → n % 4 = 0 →
        ∃ d, becomes s (.routineOutcommit core ix n ((out.drop r.committed).take n)) d ∧ d.routine = some { r with committed := r.committed + n } ∧
          (d.todo.flatMap fun w => w.puts).map (fun p => (p.addr, p.cell)) =
            (List.range n).map fun k => ((r.dst.2 + r.committed + k) % 2 ^ 64, Cell.lit (out.getD (r.committed + k) 0))) ∧
      (writes 0x3C n → r.committed + n ≤ r.dstLen → c.todo = [] → r.partWord = [] → n ≤ 65536 → r.dst.1 = 0 → (r.dst.2 + r.committed) % 4 = 0 → n % 4 = 0 →
        let bytes := (List.range n).map fun k => sget (fun _ => (0 : Byte)) r.buf1 ((r.committed + k) % 65536)
        ∃ d, becomes s (.routineOutcommit core ix n bytes) d ∧ d.routine = some { r with acts := [], committed := r.committed + n } ∧
          (d.todo.flatMap fun w => w.puts).map (fun p => (p.addr, p.cell)) =
            (List.range n).map fun k => ((r.dst.2 + r.committed + k) % 2 ^ 64, Cell.lit (sget (fun _ => 0) r.buf1 ((r.committed + k) % 65536)))) ∧
      (writes 0x40 n → r.partWord = [] →
        becomes s (.routineDone core ix (BitVec.ofNat 32 n)) { c with routine := some { r with acts := [], done := some (BitVec.ofNat 32 n) } }))

/-- R122, R123, R125, R126, R266: SHLD binds a shape register to a well-formed record, whose image it then holds; SHSYNC loads it again from where it is bound, and traps where it is not; SHINFO reads a boundary or an item of the image. A
fault of the record's address names the lowest LIVE lane. What a read of the context's shape area gives is the model's choice (log entry 77). -/
def Obligations.ShapeRegisters : Prop :=
  ∀ (s : State) (o : Args),
    let binds (i : Instr) (reg space addr : Nat) : Prop :=
      ∀ s1 header bounds, s.readShape space addr = (s1, .ok header bounds) → s1.wgs = s.wgs →
        let word (k : Nat) : Nat := ofBytes ((header.drop (4 * k)).take 4)
        let pol := word 0 % 2 ^ 16
        let nseq := word 0 / 2 ^ 16
        let ok := pol % 256 = 0x5C ∧ pol / 256 % 16 = 1 ∧ (∀ k, 4 ≤ k → k < 16 → word k = 0) ∧ pol / 2 ^ 14 ≠ 3 ∧ pol / 2 ^ 12 % 4 ≠ 3 ∧
          bounds.head? = some 0 ∧ bounds.Pairwise (· ≤ ·) ∧ bounds.getLast? = some (word 1) ∧ nseq ≤ (s.curWg.shape reg).max
        header.length = 64 → bounds.length = nseq + 1 →
        (¬ok → exec i s = .next (s1.trapAt 0x31 addr reg)) ∧
        (ok → ∃ t, exec i s = .next t ∧ t.curSplit = s.curSplit.advance ∧ t.cores = s1.cores ∧ (∀ n, n ≠ reg → t.curWg.shape n = s.curWg.shape n) ∧
          t.curWarp.withSplitsOf s.curWarp = s.curWarp ∧
          t.curWg.shape reg = { s.curWg.shape reg with
            bound := true, addr := BitVec.ofNat 64 addr, space := space,
            image := { fill := BitVec.ofNat 32 (word 3), gen := BitVec.ofNat 32 (word 2), rows := word 1, nseq := nseq, maskv := pol / 2 ^ 14,
                       cross := pol / 2 ^ 12 % 4, bounds := bounds } })
    let shp := s.curWg.shape (objNum o.a 0x10)
    let n := (s.uni o.b).toNat
    (s.acts 0x310 o.g = false → ∀ sp b, Completes (.shld o sp) s s.advance {} ∧ Completes (.shsync o) s s.advance {} ∧ Completes (.shinfo o b) s s.advance {}) ∧
    (s.acts 0x310 o.g = true →
      (∀ space, binds (.shld o space) o.d space.toBits (s.laneAddr o space.toBits true 0)) ∧
      (∀ space s1 a f l, (s.active 0x310 o.g).getLsbD l = true → (∀ j < l, (s.active 0x310 o.g).getLsbD j = false) →
        (s.readShape space.toBits (s.laneAddr o space.toBits true 0) = (s1, .stop a (.fault f)) → exec (.shld o space) s = .next (s1.trapAt f.code f.addr (f.data + l * 256))) ∧
        ((s.curWg.shape o.d).bound = true → s.readShape (s.curWg.shape o.d).space (s.curWg.shape o.d).addr.toNat = (s1, .stop a (.fault f)) →
          exec (.shsync o) s = .next (s1.trapAt f.code f.addr (f.data + l * 256)))) ∧
      ((s.curWg.shape o.d).bound = true → binds (.shsync o) o.d (s.curWg.shape o.d).space (s.curWg.shape o.d).addr.toNat) ∧
      ((s.curWg.shape o.d).bound = false → exec (.shsync o) s = .next (s.trapAt 0x32 0 o.d)) ∧
      (shp.bound = false → ∀ b, exec (.shinfo o b) s = .next (s.trapAt 0x32 0 (objNum o.a 0x10))) ∧
      (shp.bound = true →
        (∃ t, Completes (.shinfo o .bound) s t { k := (· == o.d) } ∧
          t.curWarp.getK o.d = if n ≤ shp.image.nseq then BitVec.ofNat 32 (shp.image.bounds.getD n 0) else 0xFFFFFFFF) ∧
        (n ≤ 5 → ∃ t, Completes (.shinfo o .item) s t { k := (· == o.d) } ∧
          t.curWarp.getK o.d = match n with
            | 0 => BitVec.ofNat 32 shp.image.nseq
            | 1 => BitVec.ofNat 32 shp.image.rows
            | 2 => shp.image.gen
            | 3 => shp.image.fill
            | 4 => shp.addr.extractLsb' 0 32
            | _ => shp.addr.extractLsb' 32 32)))

/-! ## Class 111: the matrix unit -/

/-- R115, R119, R144, R153, R253, R287 to R292: MCFG writes a legal configuration and traps on another, which keeps the old one; MSTAT reads the configuration, the state of the warp's chain and its spillway entries, and, without a chain, zeros; MZERO clears the windows that it names, MREL releases the reuse latch and, with .TB,
makes an arrival under the phase that it latched at issue; none of them changes anything else.
MPROMO rewrites every entry of its windows between the views: .I2P as head and tail whose sum, for an integer of up to 24 bits, is the head alone, and .P2I as the integer nearest head plus tail, ties to even, clamped, with INVALID where it is none. Other
entries stay; with .P both cores' windows are rewritten. What the upper half of an operand holds, what a wait of MZERO or MPROMO waits for, and that an MCFG, MSTAT or MLD checks the value of its operand only where its guard holds, although R153 puts the
illegal-operand checks before the guard, are the model's readings (log entries 43, 53 and 52).
The fields that record a wait and its turn are the model's own (log entry 3). The field code of
an operand's value is its reading (37), and the object number of an object-state trap (38). -/
def Obligations.MatrixConfigurationAndPromotion : Prop :=
  (∀ (s : State) (o : Args),
     let x := s.uni o.a
     let n := x.toNat
     let wg := s.curWg
     let core := wg.core
     let legal := x.toNat % 2 ^ 7 = 0 ∧ 1 ≤ x.toNat / 2 ^ 7 % 2 ^ 6 ∧ x.toNat / 2 ^ 7 % 2 ^ 6 ≤ 32 ∧ 1 ≤ x.toNat / 2 ^ 13 % 2 ^ 7 ∧ x.toNat / 2 ^ 13 % 2 ^ 7 ≤ 64 ∧
       1 ≤ x.toNat / 2 ^ 20 ∧ x.toNat / 2 ^ 20 ≤ 2048
     let illegal (field : Nat) : Out := .next (s.trapAt 0x06 0 field)
     let inWindows (e : Nat) : Prop := (wg.window + o.d) * 16384 ≤ e ∧ e < (wg.window + o.d + n) * 16384
     (s.acts 0x387 o.g = false → ∀ p q tb st mp, ∀ i ∈ [Instr.mcfg o, .mstat o, .mzero o p, .mpromoI2P o p, .mpromoP2I o p, .mrel o tb, .mdrain o st, .mld o q mp],
       Completes i s s.advance {}) ∧
     (s.acts 0x387 o.g = true →
       (legal → ∃ t, exec (.mcfg o) s = .next t ∧ SameElsewhere s t ∧ t.curSplit = s.curSplit.advance ∧ t.curWg.withWarpsOf wg = wg ∧
         t.curWarp.withSplitsOf s.curWarp = { s.curWarp with mcfg := x }) ∧
       (¬legal → exec (.mcfg o) s = illegal 7) ∧
       (n = 0 → ∃ t, Completes (.mstat o) s t { k := (· == o.d) } ∧ t.curWarp.getK o.d = s.curWarp.mcfg) ∧
       ((1 ≤ n ∧ n ≤ 3) ∨ (0x1000 ≤ n ∧ n ≤ 0x17FF) → (∀ c, (s.core core).chain = some c ∨ c ∈ (s.core core).queue → c.wg = s.cur.wg → c.warp ≠ s.cur.warp) → ∃ t, Completes (.mstat o) s t { k := (· == o.d) } ∧ t.curWarp.getK o.d = 0) ∧
       (∀ c entries, ((s.core core).chain = some c ∧ entries = (s.core core).spill) ∨ ((s.core core).chain = none ∧ (s.core core).queue.head? = some c ∧ entries = c.stash) →
         c.wg = s.cur.wg → c.warp = s.cur.warp →
         (n = 1 → ∃ t, Completes (.mstat o) s t { k := (· == o.d) } ∧ t.curWarp.getK o.d = BitVec.ofNat 32
           (1 + (if c.suspended then 2 else 0) + (if c.mods.p then 4 else 0) + (if c.trapMode then 8 else 0) + (if c.mods.grouped then 16 else 0))) ∧
         (n = 2 → ∃ t, Completes (.mstat o) s t { k := (· == o.d) } ∧ t.curWarp.getK o.d = BitVec.ofNat 32 c.steps) ∧
         (n = 3 → ∃ t, Completes (.mstat o) s t { k := (· == o.d) } ∧ t.curWarp.getK o.d = BitVec.ofNat 32 entries.length) ∧
         (0x1000 ≤ n → n ≤ 0x17FF → ∃ t, Completes (.mstat o) s t { k := (· == o.d) } ∧
           t.curWarp.getK o.d = (sget (fun _ => (0 : BitVec 24)) entries (n - 0x1000)).setWidth 32)) ∧
       (3 < n → n < 0x1000 ∨ 0x17FF < n → exec (.mstat o) s = illegal 7) ∧
       (∀ p, (p = true → wg.paired = true) → 1 ≤ n → n ≤ 64 → o.d + n ≤ wg.windows → s.windowBusy s.cur.wg s.cur.warp o.d n = false →
         ∃ t, CompletesInCores (.mzero o p) s t ∧
           (∀ c e, (t.core c).entry e = if (c = core ∨ (p = true ∧ c = core + 1)) ∧ inWindows e then 0 else (s.core c).entry e) ∧
           ∀ c, (t.core c).withAccOf (s.core c) = s.core c) ∧
       (∀ p, (p = true → wg.paired = true) → (n = 0 ∨ 64 < n → exec (.mzero o p) s = .next (s.trapAt 0x20 o.d 5)) ∧
         (1 ≤ n → n ≤ 64 → wg.windows < o.d + n → exec (.mzero o p) s = .next (s.trapAt 0x20 (max o.d wg.windows) 5))) ∧
       (wg.paired = false → exec (.mzero o true) s = illegal 4) ∧
       (s.arrayBusy s.cur.wg s.cur.warp = false → ∃ t, CompletesInCores (.mrel o false) s t ∧
         (∀ tag, (t.core core).latch = some tag → ¬(tag.wg = s.cur.wg ∧ tag.warp = s.cur.warp)) ∧
         ∀ c, (t.core c).scratch = (s.core c).scratch ∧ (t.core c).acc = (s.core c).acc ∧ (t.core c).chain = (s.core c).chain) ∧
       (s.arrayBusy s.cur.wg s.cur.warp = true → ∃ t, exec (.mrel o false) s = .next t ∧ OnlyTouches s t {} ∧ t.curSplit.st = .wait) ∧
       (let off := (s.uni64 o.a).toNat / 2 ^ 20 % 2 ^ 16 * 16
        let b := s.tbar s.cur.wg off
        (wg.userBytes < off + 16 → exec (.mrel o true) s = .next (s.trapAt 0x20 off 2)) ∧
        (off + 16 ≤ wg.userBytes →
          (s.arrayBusy s.cur.wg s.cur.warp = true → ∃ t, exec (.mrel o true) s = .next t ∧ OnlyTouches s t {} ∧
            t.curSplit = { s.curSplit with st := .wait, pend := some (.mrel o true), wait := .tb off b.phase, met := none, since := s.tick }) ∧
          (s.arrayBusy s.cur.wg s.cur.warp = false → b.mark = 0xB7 → b.valid = true → b.pend ≠ 0 → ∃ t, exec (.mrel o true) s = .next t ∧
            t.curSplit = s.curSplit.advance ∧
            (let y := t.tbar s.cur.wg off
             y.mark = 0xB7 ∧ y.valid = true ∧ (b.pend = 1 ∧ b.sectors = 0 → y.phase = (b.phase + 1) % 16 ∧ y.pend = b.per) ∧
               (¬(b.pend = 1 ∧ b.sectors = 0) → y.phase = b.phase ∧ y.pend = b.pend - 1 ∧ y.sectors = b.sectors)) ∧
            ∀ a, a < wg.user + off ∨ wg.user + off + 16 ≤ a → (t.core core).sp a = (s.core core).sp a))))) ∧
  (∀ (s : State) (g w n off phase : Nat) (o : Args) (tb : Bool),
     let x := s.split g w n
     let b := s.tbar g off
     x.live = true → x.st = .wait → x.pend = some (.mrel o tb) → x.wait = .tb off phase → s.frozen g w n = false →
     (s.arrayBusy g w = true → exec (.waitWake g w n) s = .next s) ∧
     (s.arrayBusy g w = false → ∃ t, exec (.waitWake g w n) s = .next t ∧ t.split g w n = { x.advance with since := s.tick } ∧
       (b.mark = 0xB7 → b.valid = true → b.phase = phase → 1 < b.pend → (t.tbar g off).pend = b.pend - 1 ∧ (t.tbar g off).phase = phase) ∧
       (b.phase ≠ phase → (t.tbar g off).getLsbD 6 = true ∧ (t.tbar g off).pend = b.pend ∧ (t.tbar g off).phase = b.phase))) ∧
  (∀ (s : State) (o : Args) (p : Bool), s.acts 0x386 o.g = true → (p = true → s.curWg.paired = true) →
     let wg := s.curWg
     let mine (c : Nat) : Prop := c = wg.core ∨ p = true ∧ c = wg.core + 1
     let n := (s.uni o.a).toNat
     let inWindows (e : Nat) : Prop := (wg.window + o.d) * 16384 ≤ e ∧ e < (wg.window + o.d + n) * 16384
     (∀ c, mine c → swf (fun _ => (0 : Entry)) (s.core c).acc = true) → 1 ≤ n → n ≤ 64 → o.d + n ≤ wg.windows → s.windowBusy s.cur.wg s.cur.warp o.d n = false →
     let others (t : State) : Prop := (∀ c, ¬mine c → t.core c = s.core c) ∧ t.curSplit = s.curSplit.advance ∧
       ∀ c, mine c → (t.core c).scratch = (s.core c).scratch ∧ ∀ e, ¬inWindows e → (t.core c).entry e = (s.core c).entry e
     (∃ t, exec (.mpromoI2P o p) s = .next t ∧ others t ∧ t.curWarp.flags = s.curWarp.flags ∧
       ∀ c e, mine c → inWindows e → ∀ v : Int, -(2 ^ 24) ≤ v → v ≤ 2 ^ 24 → (s.core c).entry e = BitVec.ofInt 64 v →
         (t.core c).entry e = BitVec.ofNat 64 (fp32.round {} (decide (v < 0)) v.natAbs 0 false).1) ∧
     (∃ t, exec (.mpromoP2I o p) s = .next t ∧ others t ∧
       (∀ c e, mine c → inWindows e → ∀ hm tm : Nat, ∀ hs ts : Bool, ∀ he te : Int,
         let x := (s.core c).entry e
         fp32.value false (x.extractLsb' 0 32).toNat = .fin hs hm he → fp32.value false (x.extractLsb' 32 32).toNat = .fin ts tm te →
         let lo := min (min he te) 0
         let signed (neg : Bool) (k : Nat) (ex : Int) : Int := (if neg then -1 else 1) * ((k * 2 ^ (ex - lo).toNat : Nat) : Int)
         let sum := signed hs hm he + signed ts tm te
         let unit : Int := (2 ^ (-lo).toNat : Nat)
         ∃ y : Int, (t.core c).entry e = BitVec.ofInt 64 (max (-(2 ^ 63)) (min (2 ^ 63 - 1) y)) ∧
           2 * (sum - y * unit) ≤ unit ∧ -unit ≤ 2 * (sum - y * unit) ∧
           (2 * (sum - y * unit) = unit ∨ 2 * (sum - y * unit) = -unit → y % 2 = 0)) ∧
       (∀ c e, mine c → inWindows e → let x := (s.core c).entry e
         (fp32.value false (x.extractLsb' 0 32).toNat).isNan = true ∨ (fp32.value false (x.extractLsb' 32 32).toNat).isNan = true →
         (t.core c).entry e = 0x8000000000000000 ∧ t.curWarp.flags.getLsbD 0 = true)))

/-- R105, R107, R251, R270 to R272: MLD of a tile of an element format gives row r, position e of its s-th m register the tile's element (r0 + r, c0 + w s + e), 0 beyond its bounds, w being 32 for 16-bit and 64 for 8-bit formats; its
map bit is set under a dense MLD, where the element is no zero under .NZ, and as the plane at C says under .BM. MLD of a tile of a BFP format gives each row the exponent bytes and the mantissa blocks of two groups. The format stands in
every band; the other m registers and all other registers stay. Bytes of a tile beyond the user area are free values of the model (log entry 17). -/
def Obligations.TileLoadsIntoMRegisters : Prop :=
  ∀ (s : State) (o : Args) (q : Fin 8) (map : MapMode), s.acts 0x380 o.g = true →
    let wg := s.curWg
    let h := (s.uni64 o.a).toNat
    let slot := sget (fun _ => ({} : TileSlot)) wg.tiles (h / 2 ^ 39 % 2 ^ 9)
    let base := h % 2 ^ 20 * 64
    let r0 := (s.uni o.b).toNat / 2 ^ 16
    let c0 := (s.uni o.b).toNat % 2 ^ 16
    let plane := (s.uni o.c).toNat
    let m (t : State) (k : Nat) : MReg := sget (fun _ => ({} : MReg)) t.curWarp.m k
    let byte (a : Nat) : Byte := (s.core wg.core).sp (wg.user + a)
    let loads (rowIs : Nat → Nat → MRow → Prop) : Prop :=
      ∃ t, exec (.mld o q map) s = .next t ∧ t.curSplit = s.curSplit.advance ∧ t.cores = s.cores ∧ t.mem = s.mem ∧
        (∀ k, t.curWarp.getK k = s.curWarp.getK k) ∧ t.curWarp.kp = s.curWarp.kp ∧ t.curWarp.flags = s.curWarp.flags ∧
        (∀ k, k < o.d ∨ o.d + q.val < k → m t k = m s k) ∧
        ∀ n, n ≤ q.val → (m t (o.d + n)).gen = (m s (o.d + n)).gen + 1 ∧ (∀ b, b < 4 → (m t (o.d + n)).band b = slot.fmt) ∧
          ∀ r, r < 128 → rowIs n r (sget (fun _ => ({} : MRow)) (m t (o.d + n)).rows r)
    let planeBit (n r e : Nat) : Bool := (byte (plane + 8 * (n * 128 + r) + e / 8)).getLsbD (e % 8)
    (∀ b, b < 8 → slot.bands.toNat / 2 ^ (4 * b) % 16 = slot.fmt) → r0 % 32 = 0 → r0 ≤ 255 → base < wg.userBytes →
    (map = .bm → plane % 8 = 0 ∧ plane + 8 * (128 * (q.val + 1)) ≤ wg.userBytes) →
    (let eb := if slot.fmt ≤ 1 then 2 else 1
     let w := if slot.fmt ≤ 1 then 32 else 64
     let pitch := (slot.cols * eb + 63) / 64 * 64
     slot.fmt ≤ 4 → c0 % w = 0 → base + slot.rows * pitch ≤ wg.userBytes →
     loads fun n r row => ∀ e, e < 64 →
       let inTile : Prop := r0 + r < slot.rows ∧ c0 + w * n + e < slot.cols
       let a := base + (r0 + r) * pitch + (c0 + w * n + e) * eb
       let zero : Prop := if slot.fmt = 4 then byte a = 0 else if eb = 2 then byte a = 0 ∧ byte (a + 1) &&& 0x7F = 0 else byte a &&& 0x7F = 0
       (∀ k, k < eb → e < w → row.data.extractLsb' (8 * (eb * e + k)) 8 = if inTile then byte (a + k) else 0) ∧
         (row.map.getLsbD e = true ↔ e < w ∧ match map with
           | .dense => True
           | .nz => inTile ∧ ¬zero
           | .bm => planeBit n r e = true)) ∧
    (let mb := slot.fmt - 6
     let pitch := (slot.cols / 32 * (4 * mb) + 63) / 64 * 64
     8 ≤ slot.fmt → slot.fmt ≤ 14 → c0 % 64 = 0 → base + slot.rows * pitch + slot.rows * (slot.cols / 32) ≤ wg.userBytes →
     loads fun n r row => (∀ k, k < 2 →
       let grp := c0 / 32 + 2 * n + k
       let inTile : Prop := r0 + r < slot.rows ∧ grp < slot.cols / 32
       row.exp.extractLsb' (8 * k) 8 = (if inTile then byte (base + slot.rows * pitch + (r0 + r) * (slot.cols / 32) + grp) else 0) ∧
         ∀ j, j < 4 * mb → row.data.extractLsb' (8 * (4 * mb * k + j)) 8 = if inTile then byte (base + (r0 + r) * pitch + grp * (4 * mb) + j) else 0) ∧
       (map = .dense → row.map = BitVec.allOnes 64) ∧ (map = .bm → ∀ e, e < 64 → row.map.getLsbD e = planeBit n r e))

/-- R26, R269, R273, R275, R276, R283, R285, R293: an array instruction that its checks refuse traps, whatever its guard (Check order, after R300); one that they pass flows on where its guard holds nowhere, and else opens its warp's chain on a free array, queues it for a held one and waits, continues
the chain that is open, or goes on with the instruction that a trap stopped part-way. Which outputs a later .SEG leaves masked is the model's reading (log entry 53). The record of a wait is the model's own (3). -/
def Obligations.ArrayInstructionsIssue : Prop :=
  ∀ (s : State) (o : Args) (m : ArrayMods) (i : Instr) (op : Nat) (path : ArrayPath),
    (i, op, path) ∈ [(.mma o m, 0x381, ArrayPath.float), (.mmai o m, 0x382, .integer), (.mmab o m, 0x383, .bfp)] →
    let x := s.arrayOps o m
    let core := s.curWg.core
    let check := s.arrayCheck op path o m x
    let waits : Split := { s.curSplit with st := .wait, pend := some i, wait := .perform, met := none, since := s.tick }
    let kept (t : State) : Prop := (∀ c, (t.core c).scratch = (s.core c).scratch ∧ (t.core c).acc = (s.core c).acc) ∧ t.curWarp.withSplitsOf s.curWarp = s.curWarp
    let opened (c : Chain) : Prop := c.wg = s.cur.wg ∧ c.warp = s.cur.warp ∧ c.path = path ∧ c.op = op ∧ c.cfg = s.curWarp.mcfg ∧ c.window = o.d ∧ c.steps = 0 ∧
      c.pe = [] ∧ c.openMore = m.more ∧ c.suspended = false ∧ c.trapMode = m.trap ∧ ∃ j, c.todo = [j] ∧ j.pc = s.curSplit.pc ∧ j.a = x.regs ∧ j.done = 0 ∧
        j.waits = m.trap ∧ c.masked = (if m.seg then j.maskedOut else []) ∧
        j.steps = (if path = .bfp then 2 * (m.q.val + 1) else (m.q.val + 1) * (if x.slot.fmt ≤ 1 then 32 else 64))
    (check = none → s.acts op o.g = false → Completes i s s.advance {}) ∧
    (∀ f, check = some f → exec i s = .next (s.trapAt f.code f.addr f.data)) ∧
    (check = none → s.acts op o.g = true → s.openChain s.cur.wg s.cur.warp = none →
      ((s.core core).chain = none → (s.core core).lent = false → (s.core core).queue = [] → (m.p = true → (s.core (core + 1)).chain = none) →
        ∃ t c, exec i s = .next t ∧ kept t ∧ (t.core core).chain = some c ∧ opened c ∧ (m.trap = false → t.curSplit = s.curSplit.advance) ∧
          (m.trap = true → t.curSplit = waits)) ∧
      ((s.core core).chain ≠ none ∨ (s.core core).lent = true ∨ (s.core core).queue ≠ [] →
        ∃ t c, exec i s = .next t ∧ kept t ∧ (t.core core).chain = (s.core core).chain ∧ (t.core core).queue = (s.core core).queue ++ [c] ∧ opened c ∧
          t.curSplit = waits)) ∧
    (∀ h, check = none → s.acts op o.g = true → (s.core core).chain = some h → h.wg = s.cur.wg → h.warp = s.cur.warp → h.openMore = true → h.suspended = false →
      (∃ t j, exec i s = .next t ∧ kept t ∧ (t.core core).chain = some
          { h with todo := h.todo ++ [j], openMore := m.more, masked := if m.seg then j.maskedOut else h.masked, maskv := if m.seg then (j.image.map (·.maskv)).getD 1 else h.maskv } ∧
        j.pc = s.curSplit.pc ∧ j.done = 0 ∧ j.a = x.regs ∧ j.waits = h.trapMode ∧ (h.trapMode = false → t.curSplit = s.curSplit.advance) ∧
        (h.trapMode = true → t.curSplit = waits))) ∧
    (∀ h j rest, check = none → s.acts op o.g = true → (s.core core).chain = some h → h.wg = s.cur.wg → h.warp = s.cur.warp → h.suspended = true →
      h.todo = j :: rest → s.curSplit.stopped = true → j.pc = s.curSplit.pc →
      ∃ t, exec i s = .next t ∧ kept t ∧ (t.core core).chain = some { h with suspended := false, todo := { j with waits := true } :: rest } ∧
        t.curSplit = { waits with stopped := false })

/-- R106, R110 to R117, R277 to R283, R286, R293, R294: the array. A free array goes to the chain that has waited longest. A clock takes a dense count of positions, or twice as many under .SPARSE where at most two products of each four survive at every PE. A float
chain adds the exact sum of its products to each PE and rounds once; a BFP chain the scaled dot product of a group; an integer chain adds its products and wraps at 18 bits, each wrap a carry event in the spillway; under .GROUPED the first clock of a group clears its
windows. Where new entries do not fit, a chain with .TRAP is suspended and its split traps, and another drains early, every coordinate at once (log entry 85). The end of a chain, and MDRAIN, fold each PE with its carries into its entry, or promote it, and the end
writes the values of masked outputs. The indices of new spillway entries, that a promotion or fold is one act, that only admitted outputs are promoted, and what a NaN beside a group of exponent 0 gives are the model's choices (log entries 54, 84, 51 and 82).
That an event whose condition does not hold leaves the state, and the fields that record what
waits, are the model's own (log entry 3). -/
def Obligations.ArrayRuns : Prop :=
  (∀ e v, let hv := fp32.value false (e.extractLsb' 0 32).toNat
    let tv := fp32.value false (e.extractLsb' 32 32).toNat
    let x := f26.value false v
    let bits (y : FVal) : Nat := (fp32.roundVal {} y).1
    let r (y : FVal) : FVal := fp32.value false (bits y)
    let finite (y : FVal) : Prop := y.isNan = false ∧ y.isInf = false
    (hv.isNan = true ∨ tv.isNan = true ∨ x.isNan = true → promote e v = (BitVec.ofNat 64 fp32.canon, 0)) ∧
    (finite hv → finite tv → finite x → ∀ p d u y z, sumVals .rne [hv, x] = some p → sumVals .rne [p, (r p).negate] = some d → sumVals .rne [tv, d] = some u →
      sumVals .rne [r p, r u] = some y → sumVals .rne [y, (r y).negate] = some z → finite (r p) → finite (r u) → finite (r y) →
      promote e v = (BitVec.ofNat 64 (bits (r y) + 2 ^ 32 * bits z), 0))) ∧
  ∀ (s : State) (core : Nat),
    (∀ pre c rest, (s.core core).queue = pre ++ c :: rest → (∀ d ∈ pre, d.held = true) → c.held = false → (s.core core).chain = none → (s.core core).lent = false →
      (c.mods.p = true → (s.core (core + 1)).chain ≠ none → exec (.arrayGrant core) s = .next s) ∧
      ((c.mods.p = true → (s.core (core + 1)).chain = none) →
      ∃ t, exec (.arrayGrant core) s = .next t ∧ (t.core core).chain = some { c with stash := [] } ∧ (t.core core).spill = c.stash ∧ (t.core core).queue = pre ++ rest ∧
        ∀ j tail, c.todo = j :: tail → j.waits = false → (s.split c.wg c.warp j.split).live = true → (s.split c.wg c.warp j.split).st = .wait →
          (s.split c.wg c.warp j.split).wait = .perform → t.split c.wg c.warp j.split = { (s.split c.wg c.warp j.split).advance with since := s.tick })) ∧
    ((s.core core).chain ≠ none ∨ (s.core core).lent = true ∨ (∀ c ∈ (s.core core).queue, c.held = true) → exec (.arrayGrant core) s = .next s) ∧
    (∀ c i rest, (s.core core).chain = some c → (s.wg c.wg).core = core → c.todo = i :: rest → c.suspended = false → c.held = false →
      i.done < i.steps → i.image = none → i.rows ≤ 256 → i.cols ≤ 128 →
      let sp (a : Nat) : Byte := (s.core core).sp ((s.wg c.wg).user + i.base + a)
      let user := (s.wg c.wg).userBytes
      let slab (r n : Nat) : MReg := i.a.getD (n + r / 128 * (i.mods.q.val + 1)) {}
      let row (r n : Nat) : MRow := (slab r n).row (r % 128)
      let fa := (i.reg 0 0).band 0
      let fb := i.slot.fmt
      let size (f : Nat) : Nat := if f ≤ 1 then 2 else 1
      let per (f : Nat) : Nat := if f ≤ 1 then 32 else 64
      let bits (r x : Nat) : Nat := ((row r (x / per fa)).data.extractLsb' (8 * size fa * (x % per fa)) (8 * size fa)).toNat
      let mapped (r x : Nat) : Bool := (row r (x / per fa)).map.getLsbD (x % per fa)
      let tile (j x : Nat) : Nat := ofBytes ((List.range (size fb)).map fun k => sp (j * i.slot.pitch + (i.kb + x) * size fb + k))
      let value (f b : Nat) : FVal := (match f with | 0 => bf16 | 1 => fp16 | 2 => e4m3 | _ => e5m2).value false b
      let zero (j x : Nat) : Bool := if fb = 4 then tile j x == 0 else (value fb (tile j x)).isZero
      let formed (r j x : Nat) : Bool := !i.mods.sparse || (mapped r x && !zero j x)
      let w := if fb ≤ 1 then 2 else 4
      let thin : Prop := ∀ r j k, r < (if i.mods.p then 256 else 128) → j < min 128 i.slot.rows → k < w / 2 →
        ((List.range 4).filter fun y => mapped r (i.done + 4 * k + y) && !zero j (i.done + 4 * k + y)).length ≤ 2
      let reads : Prop := i.base + i.slot.rows * i.slot.pitch ≤ user ∧ i.kb + i.steps ≤ i.slot.cols ∧ i.done % w = 0 ∧ i.steps % (2 * w) = 0
      let takes (n : Nat) : Prop :=
        let twice : Prop := i.mods.sparse = true ∧ i.done % (2 * w) = 0 ∧ thin
        (twice ∧ n = 2 * w) ∨ (¬twice ∧ n = w)
      let clocked (n : Nat) (p : State → Chain → Prop) : Prop :=
        ∃ t h, exec (.arrayClock core) s = .next t ∧ (t.core core).chain = some h ∧ h.steps = c.steps + n ∧ h.todo = { i with done := i.done + n } :: rest ∧
          (∀ k, (t.core k).scratch = (s.core k).scratch ∧ (t.core k).acc = (s.core k).acc) ∧ p t h
      let each (p : Nat → Nat → Nat → Prop) : Prop := ∀ r j, r < i.rows → j < min i.cols i.slot.rows → p r j (r * 128 + j)
      let n0 := i.done
      -- A float chain.
      (∀ n, c.path = .float → (fb ≤ 1 ∧ fa = fb) ∨ (2 ≤ fa ∧ fa ≤ 3 ∧ 2 ≤ fb ∧ fb ≤ 3) → reads → takes n → (c.steps + n) / cfgP c.cfg = c.steps / cfgP c.cfg →
        clocked n fun _ h => each fun r j key =>
          let xs := ((List.range n).map (n0 + ·)).filter (formed r j)
          let a (x : Nat) : FVal := value fa (bits r x)
          let b (x : Nat) : FVal := value fb (tile j x)
          (xs = [] → h.reg key = c.reg key) ∧
          ((∃ x ∈ xs, (a x).isNan = true ∨ (b x).isNan = true ∨ (a x).mul (b x) = none) → h.reg key = f26.canon) ∧
          (∀ ps u y, xs ≠ [] → (∀ x ∈ xs, (a x).isNan = false ∧ (b x).isNan = false) → xs.map (fun x => (a x).mul (b x)) = ps.map some → sumVals .rne ps = some u →
            (f26.value false (c.reg key)).isNan = false → sumVals .rne [f26.value false (c.reg key), u] = some y → h.reg key = (f26.roundVal {} y).1)) ∧
      -- A BFP chain: one group.
      (c.path = .bfp → i.slot.fmt ≤ 14 → (∀ j, 8 ≤ i.slot.rowBand j ∧ i.slot.rowBand j ≤ i.slot.fmt) → 
        (∀ r, r < i.rows → 8 ≤ (slab r (n0 / 2)).band (r % 128 / 32) ∧ (slab r (n0 / 2)).band (r % 128 / 32) ≤ 14) →
        i.base + i.slot.footprint ≤ user → i.kb / 32 + i.steps ≤ i.slot.cols / 32 → (c.steps + 1) / cfgP c.cfg = c.steps / cfgP c.cfg →
        let wa (r : Nat) : Nat := (slab r (n0 / 2)).band (r % 128 / 32) - 6
        let wb (j : Nat) : Nat := i.slot.rowBand j - 6
        let ea (r : Nat) : Nat := ((row r (n0 / 2)).exp.extractLsb' (8 * (n0 % 2)) 8).toNat
        let eb (j : Nat) : Nat := (sp (i.slot.expAt + j * (i.slot.cols / 32) + i.kb / 32 + n0)).toNat
        let ma (r k : Nat) : Int := signedBits (row r (n0 / 2)).data.toNat (32 * wa r * (n0 % 2) + wa r * k) (wa r)
        let mb (j k : Nat) : Int :=
          signedBits (ofBytes ((List.range (4 * wb j)).map fun y => sp (j * i.slot.pitch + (i.kb / 32 + n0) * (4 * wb j) + y))) (wb j * k) (wb j)
        let nan (r j : Nat) : Prop := ea r = 255 ∨ eb j = 255 ∨ ∃ k, k < 32 ∧ (ma r k = -(2 ^ (wa r - 1) : Nat) ∨ mb j k = -(2 ^ (wb j - 1) : Nat))
        let dot (r j : Nat) : Int := ((List.range 32).map fun k => ma r k * mb j k).foldl (· + ·) 0
        clocked 1 fun _ h => each fun r j key =>
          (ea r = 0 ∨ eb j = 0 → h.reg key = c.reg key) ∧ (ea r ≠ 0 → eb j ≠ 0 → nan r j → h.reg key = f26.canon) ∧
          (∀ y, ea r ≠ 0 → eb j ≠ 0 → ¬nan r j → (f26.value false (c.reg key)).isNan = false →
            sumVals .rne [f26.value false (c.reg key), .fin (decide (dot r j < 0)) (dot r j).natAbs (((ea r + eb j : Nat) : Int) - 254)] = some y →
            h.reg key = (f26.roundVal {} y).1)) ∧
      -- An integer chain.
      (∀ n, c.path = .integer → fa = 4 → fb = 4 → reads → takes n → (c.steps + n) / cfgD c.cfg = c.steps / cfgD c.cfg →
        let pe (h : Chain) (key : Nat) : Int := signedBits (h.reg key) 0 18
        let sum (r j : Nat) : Int := (((List.range n).map (n0 + ·)).filter (formed r j)).foldl (fun y x => y + signedBits (bits r x) 0 8 * signedBits (tile j x) 0 8) (pe c (r * 128 + j))
        let carry (r j : Nat) : Int := if 2 ^ 17 ≤ sum r j then 1 else if sum r j < -(2 ^ 17) then -1 else 0
        let events := ((List.range i.rows).flatMap fun r => (List.range (min i.cols i.slot.rows)).filter fun j => carry r j != 0).length
        let ds := s.intSums c i (s.clockPositions c.wg i)
        (c.mods.grouped = true → c.steps % cfgD c.cfg = 0 → s.spillFits c ds = true → ∃ t h, exec (.arrayClock core) s = .next t ∧ (t.core core).chain = some h ∧
          h.steps = c.steps + n ∧ h.todo = { i with done := i.done + n } :: rest ∧
          let at_ := ((s.wg c.wg).window + c.window + c.steps / cfgD c.cfg) * 16384
          ∀ k e, (t.core k).entry e = if (k = core ∨ c.mods.p = true ∧ k = core + 1) ∧ at_ ≤ e ∧ e < at_ + 16384 then 0 else (s.core k).entry e) ∧
        (c.mods.grouped = false → (s.core core).spill = [] → events ≤ cfgL c.cfg → clocked n fun t h =>
          (each fun r j key => pe h key = sum r j - carry r j * 2 ^ 18 ∧ spillNet (t.core core).spill key = carry r j) ∧ (events = 0 → (t.core core).spill = []) ∧
          ∀ e ∈ (t.core core).spill, e.2.getLsbD 23 = true) ∧
        (c.trapMode = true → s.spillFits c ds = false → ∃ t, exec (.arrayClock core) s = .next t ∧ (t.core core).chain = some { c with suspended := true } ∧
          (∀ k, (t.core k).acc = (s.core k).acc ∧ (t.core k).spill = (s.core k).spill) ∧
          (let progress := BitVec.ofNat 64 (7 * 2 ^ 60 + i.done % 2 ^ 16 * 2 ^ 32 + c.steps % 2 ^ 32)
           (t.warp c.wg c.warp).progress = progress ∧
           let z := t.split c.wg c.warp i.split
           z.st = .inTrap ∧ z.stopped = true ∧ ((s.split c.wg c.warp i.split).handler = false → z.resume = (s.split c.wg c.warp i.split).pc ∧
             ∃ r, z.trap = some r ∧ r.code = 0x40 ∧ r.addr = progress ∧ r.data = BitVec.ofNat 64 (s.core core).spill.length))) ∧
        (c.mods.grouped = false → c.trapMode = false → c.draining = false → s.spillFits c ds = false → (c.pe.map (·.1)).Nodup → (∀ p ∈ c.pe, p.1 < 16384 ∧ p.2.toNat ≠ 0) →
          ∃ t h, exec (.arrayClock core) s = .next t ∧ (t.core core).chain = some h ∧ h.steps = c.steps ∧ h.todo = c.todo ∧ h.draining = true ∧ (t.core core).spill = [] ∧
            ∀ e, (t.core core).entry e = match c.pe.find? fun p => ((s.wg c.wg).window + c.window) * 16384 + p.1 == e with
              | some p => (s.core core).entry e + BitVec.ofInt 64 (signedBits (p.2.toNat - 1) 0 18 + 2 ^ 18 * spillNet (s.core core).spill p.1)
              | none => (s.core core).entry e))) ∧
    (∀ c, (s.core core).chain = some c → (s.wg c.wg).core = core → c.mods.grouped = false → c.mods.p = false →
      (c.pe.map (·.1)).Nodup → (∀ p ∈ c.pe, p.1 < 16384 ∧ p.2.toNat ≠ 0) →
      let at_ (key : Nat) : Nat := ((s.wg c.wg).window + c.window) * 16384 + key
      let result (old : Entry) (p : Nat × BitVec 32) : Entry := match c.path with
        | .integer => old + BitVec.ofInt 64 (signedBits (p.2.toNat - 1) 0 18 + 2 ^ 18 * spillNet (s.core core).spill p.1)
        | _ => (promote old (p.2.toNat - 1)).1
      let ended (e : Nat) : Entry :=
        match c.pe.find? fun p => at_ p.1 == e with
        | some p => result ((s.core core).entry e) p
        | none => (s.core core).entry e
      let drained (t : State) : Prop := ∀ e, (t.core core).entry e = ended e
      (∀ i, c.todo = [i] → i.done = i.steps → c.openMore = false → c.suspended = false → c.held = false → (∀ key ∈ c.masked, key < 16384) → i.waits = false →
        let masked (e : Nat) : Prop := c.maskv ≠ 1 ∧ c.maskv ≤ 2 ∧ ∃ key ∈ c.masked, at_ key = e
        let masks : Entry := if c.maskv = 2 then 0 else if c.path = .integer then 0x8000000000000000 else 0xFF800000
        ∃ t, exec (.arrayRetire core) s = .next t ∧ (∀ e, masked e → (t.core core).entry e = masks) ∧
          (∀ e, ¬masked e → (t.core core).entry e = if c.path = .integer ∨ c.steps % cfgP c.cfg ≠ 0 then ended e else (s.core core).entry e) ∧
          (t.core core).chain = none ∧ (t.core core).spill = [] ∧
          (t.core core).scratch = (s.core core).scratch ∧ (t.warp c.wg c.warp).progress = 0) ∧
      (∀ o stall, s.cur.wg = c.wg → s.cur.warp = c.warp → s.acts 0x384 o.g = true → s.arrayRuns c.wg c.warp = false →
        ∃ t h, exec (.mdrain o stall) s = .next t ∧ drained t ∧ t.curSplit = s.curSplit.advance ∧ (t.core core).chain = some h ∧ h.steps = c.steps ∧ h.todo = c.todo ∧
          h.trapMode = (c.trapMode && !stall) ∧ (c.path = .integer → (t.core core).spill = []) ∧ ∀ p ∈ h.pe, p.2 = 1)) ∧
    (∀ c i rest, (s.core core).chain = some c → c.todo = i :: rest → i.done = i.steps → rest ≠ [] ∨ c.openMore = true → c.suspended = false → c.held = false →
      let x := s.split c.wg c.warp i.split
      ∃ t, exec (.arrayRetire core) s = .next t ∧ (t.core core).chain = some { c with todo := rest, flags := 0 } ∧ (∀ k, (t.core k).acc = (s.core k).acc ∧ (t.core k).spill = (s.core k).spill) ∧
        (t.warp c.wg c.warp).flags = (s.warp c.wg c.warp).flags ||| c.flags.setWidth 32 ∧ (t.warp c.wg c.warp).progress = 0 ∧
        t.split c.wg c.warp i.split = if i.waits = true ∧ x.live = true ∧ x.st = .wait ∧ x.wait = .perform then { x.advance with since := s.tick } else x) ∧
    (∀ o stall, s.acts 0x384 o.g = true → s.arrayRuns s.cur.wg s.cur.warp = false → ∃ t, exec (.mdrain o stall) s = .next t ∧ t.curSplit = s.curSplit.advance) ∧
    (∀ o stall, s.acts 0x384 o.g = true → s.arrayRuns s.cur.wg s.cur.warp = false → (s.core s.curWg.core).chain = none → Completes (.mdrain o stall) s s.advance {}) ∧
    (∀ o stall, s.acts 0x384 o.g = true → s.arrayRuns s.cur.wg s.cur.warp = true → ∃ t, exec (.mdrain o stall) s = .next t ∧ OnlyTouches s t {} ∧ t.curSplit.st = .wait)

/-! ## Events: issue, memory, accesses from outside -/

/-- R140, R154, R371, R412 to R415, R420, R422, R423: a clock in which a port issues nothing is charged to the lowest leaf that a present split meets, or to leaf 13 or 14 (the leaves of waits that R413
does not name: the model's choice, log entry 21); a sample falls due in the clock of its interval, and is written with its port's leaf once the slot is over; each breakpoint that matches stops its split before the instruction, or writes its record, and a split passes
the matches of one instruction once (the model's choice, log entry 34); a split that was ready, its line read or not, and passed over for 256 clocks ages a step, up to 31; a result that arrives leaves the scoreboard; a fetched line is at hand.
That an event whose condition does not hold leaves the state, and the fields that record what
waits, are the model's own (log entry 3). Which results the scoreboard holds and
that a split whose line is unread counts as ready (12), that the second of a pair is a pick of its own (13), the fields of a sample (32) and what no slot is
charged for (35) are the model's readings. -/
def Obligations.IssueEvents : Prop :=
  ∀ (s : State) (core port g w n : Nat),
    let d := (s.core core).dbg
    let here := s.present core port
    let x := s.split g w n
    let size := 2 ^ (d.trctl.toNat / 2 ^ 24 % 16 + 6)
    let q := s.portSlot core port
    let clocks : Nat := sget (fun _ => 0) d.clocks port + if d.trctl.getLsbD 31 then 1 else 0
    let samples (who : Option (Nat × Nat × Nat)) : Prop := d.trctl.getLsbD 31 = true ∧ d.trctl.getLsbD 5 = true ∧ clocks % 2 ^ (d.trctl.toNat / 2 ^ 16 % 16 + 8) = 0 ∧
      ∀ h v m, who = some (h, v, m) → d.trctl.getLsbD 7 = true ∨ d.trctl.toNat / 256 % 256 = (s.wg h).ctx
    let charged (leaf : Nat) (who : Option (Nat × Nat × Nat)) : Prop :=
      ∃ t, exec (.issueSlot core port) s = .next t ∧ OnlyDebug s (t.withWgsOf s) core ∧
        (∀ h v m, t.split h v m = if (h, v, m) ∈ here then
          { s.split h v m with waited := if s.pickable h v m then (s.split h v m).waited + 1 else (s.split h v m).waited / 256 * 256 } else s.split h v m) ∧
        (∀ k, sget (fun _ => 0) (t.core core).dbg.counters k =
          sget (fun _ => 0) d.counters k + if d.freeze = false ∧ (k = port * 16 + leaf ∨ k = port * 16 + 15) then 1 else 0) ∧
        let r := t.portSlot core port
        sget (fun _ => 0) (t.core core).dbg.clocks port = clocks ∧
        r.leaf = leaf ∧ r.who = who ∧ (r.due = true ↔ samples who) ∧ r.pair = false ∧ r.fields = 2 ^ 196 + s.time.toNat * 2 ^ 384 + port * 2 ^ 460 + match who with
          | none => 0
          | some (h, v, m) => s.traceSplit h v m + (s.effPrio h v m + (s.split h v m).stateBits * 2 ^ 8) * 2 ^ 448
    let place := d.trbase.toNat + 64 * (d.trprod.toNat % size)
    let matches_ (b : Nat) : Prop :=
      let c := sget (fun _ => 0) d.bpcfg b
      let pc := (sget (fun _ => 0) d.bppc b).toNat % 2 ^ 57
      c.getLsbD 31 = true ∧ c.toNat / 2 ^ 8 % 2 ^ 8 = (s.wg g).ctx ∧ (c.getLsbD 7 = true ∨ c.toNat % 2 ^ 7 = w) ∧ pc / 8 % 8 = 0 ∧ pc % 8 < 5 ∧ pc = x.pc.toNat
    let act (b : Nat) : Nat := (sget (fun _ => 0) d.bpcfg b).toNat / 2 ^ 29 % 4
    let carrier (l : Line) : Prop := Line.badStripes l = 0 ∧ Line.illegal l = false ∧ Line.lit l (PC.slot x.pc) = true
    (core < 80 → port < 6 →
      ((∃ p ∈ here, s.isReady p.1 p.2.1 p.2.2 = true) → exec (.issueSlot core port) s = .next s) ∧
      (q.due = false → here = [] → charged (if s.switching core port then 14 else 13) none) ∧
      (q.due = false → here ≠ [] → here.Nodup → (∀ p ∈ here, s.isReady p.1 p.2.1 p.2.2 = false) →
        ∃ leaf, ∃ p ∈ here, 3 ≤ leaf ∧ leaf ≤ 12 ∧ s.leafOf p.1 p.2.1 p.2.2 = some leaf ∧ charged leaf (some p) ∧
          (∀ r ∈ here, ∀ l, s.leafOf r.1 r.2.1 r.2.2 = some l → leaf ≤ l) ∧
          (∀ r ∈ here, s.leafOf r.1 r.2.1 r.2.2 = some leaf → keyLt (s.pickKey r) (s.pickKey p) = false)) ∧
      (q.due = false ∨ s.pairOpen core port = true → exec (.traceSample core port) s = .next s) ∧
      (q.due = true → s.pairOpen core port = false → d.trdrop = 0 →
        ((d.trprod - d.trcons).toNat ≠ size → place + 64 ≤ Config.hbmBytes → s.NoWindows → s.meetsArea place 64 = false →
          ∃ t, exec (.traceSample core port) s = .next t ∧ (t.core core).dbg.trprod = d.trprod + 1 ∧ t.portSlot core port = { q with due := false } ∧
            s.HomeHas t place (toBytes 64 (q.fields + q.leaf * 2 ^ 192 + d.trprod.toNat))) ∧
        ((d.trprod - d.trcons).toNat = size → ∃ t, exec (.traceSample core port) s = .next t ∧ OnlyDebug s t core ∧ (t.core core).dbg.trprod = d.trprod ∧
          (t.core core).dbg.trlost = (if d.trlost = 0xFFFFFFFF then d.trlost else d.trlost + 1)))) ∧
    (core = (s.wg g).core → x.live = true → x.st = .run → x.handler = false → x.replay = false → s.traces core (s.wg g).ctx 2 = false →
      (∀ l, x.loaded = some l → ¬carrier l → x.pass = false → (∃ b < 8, matches_ b) →
        ((∀ b < 8, matches_ b → act b = 3) → exec (.breakpointMatch g w n) s = .next (s.updSplit g w n fun y => { y with pass := true })) ∧
        ((∃ b < 8, matches_ b ∧ act b < 3) → ∃ t, exec (.breakpointMatch g w n) s = .next t ∧ t.mem = s.mem ∧ t.l2 = s.l2 ∧ (t.split g w n).st = .held ∧
          (t.split g w n).before = .run ∧ (t.split g w n).pc = x.pc ∧ (t.split g w n).mask = x.mask ∧ (t.split g w n).pass = true ∧
          (t.warp g w).k = (s.warp g w).k ∧ (t.warp g w).v = (s.warp g w).v ∧ (t.warp g w).p = (s.warp g w).p ∧ (t.warp g w).kp = (s.warp g w).kp ∧
          ((∀ b < 8, matches_ b → act b = 0 ∨ act b = 3) → ∀ h v m, (h, v, m) ≠ (g, w, n) → t.split h v m = s.split h v m) ∧
          (∀ b < 8, matches_ b → ∀ v m, m < 4 → (act b = 1 ∧ v = w ∨ act b = 2 ∧ ∃ z, (v, z) ∈ (s.wg g).warps) → (s.split g v m).live = true →
            (t.split g v m).st = .held ∨ (t.split g v m).holdNext ≠ none))) ∧
      (x.pass = true ∨ x.loaded = none ∨ (∃ l, x.loaded = some l ∧ carrier l) ∨ (∀ b < 8, ¬matches_ b) → exec (.breakpointMatch g w n) s = .next s)) ∧
    (let old (t : State) : Prop := t.withWgsOf s = s ∧ (∀ h, h ≠ g → t.wg h = s.wg h) ∧ (∀ m, m ≠ w → t.warp g m = s.warp g m)
     (x.live = true → x.st = .run → 256 ≤ x.waited → ∃ t, exec (.agingStep g w n) s = .next t ∧ old t ∧ (∀ m, m ≠ n → t.split g w m = s.split g w m) ∧
       t.split g w n = { x with age := min 31 (x.age + 1), waited := x.waited - 256 }) ∧
     (¬(x.live = true ∧ x.st = .run ∧ 256 ≤ x.waited) → exec (.agingStep g w n) s = .next s) ∧
     ((s.wg g).live = false → ∀ reg, exec (.resultDelivery g w reg) s = .next s) ∧
     ((s.wg g).live = true → ∀ reg,
       let u := s.updWarp g w fun v => { v with score := v.score.filter fun p => p.1 != reg }
       ∃ t, exec (.resultDelivery g w reg) s = .next t ∧ old t ∧ (t.warp g w).withSplitsOf (s.warp g w) = { s.warp g w with score := (u.warp g w).score } ∧
         (∀ p, p ∈ (t.warp g w).score ↔ p ∈ (s.warp g w).score ∧ p.1 ≠ reg) ∧
         ∀ m, m < 4 → let y := s.split g w m
           t.split g w m = if y.live = true ∧ y.st = .run ∧ s.nextConflicts g w m ≠ [] ∧ u.nextConflicts g w m = [] then { y with since := s.tick } else y)) ∧
    (x.live = true → x.st = .run → ∀ s1 l, s.fetchLine (s.wg g).ctx (PC.line x.pc) = (s1, .inl l) → s1.wgs = s.wgs →
      ∃ t, exec (.lineFetchComplete g w n) s = .next t ∧ t.split g w n = { x with line := some (PC.line x.pc, l) } ∧ t.withWgsOf s = s1)

/-- R53 to R57, R61 to R66, R91, R351, R407 to R409: an L1 eviction and a write-back change no byte that anyone reads; a write-back makes HBM hold the line with the key under which it was written; a held one is tried again,
its line's old reference released; a walk that completes lets its access go on or makes it trap, for every walk of the same page; the host reads and writes HBM beneath L2 and the coherent window, a peer what is published; any other
access is unsupported. The device's view of a line that the host writes stays as it was until a FLUSH, and a line whose write-back is held serves the host too; two equal lines that are written back at one time may share or not
(the model's free value, log entry 63); a trap of a failed walk comes after the warp's earlier array instructions (R4).
That an event whose condition does not hold leaves the state, and the fields that record what
waits, are the model's own (log entry 3). So are walks within an act (9), that a walk reads an
entry as it was stored (71), and which windowed lines are shared (68). -/
def Obligations.MemoryEventsAndOutsideAccesses : Prop :=
  ∀ (s : State),
    let ends (i : Instr) (t : State) : Prop := exec i s = .next t
    let only (t : State) (bs : List Byte) (e : AccessEnd) : Prop := t = { s with readData := bs, readEnd := e }
    let answered (i : Instr) (pa n : Nat) (bs : List Byte) : Prop := ∃ t, ends i t ∧ only t bs (if s.poisoned pa n then .poisoned else .done)
    let crossed (i : Instr) (pa n : Nat) (bs : List Byte) : Prop := ∃ t, ends i t ∧ only { t with compcnt := s.compcnt } bs (if s.poisoned pa n then .poisoned else .done)
    let refused (i : Instr) : Prop := ∃ t, ends i t ∧ only t [] .unsupported
    let legal (pa n : Nat) : Prop := 0 < n ∧ pa + n ≤ Config.hbmBytes ∧ ∀ i < n, s.inDedupArea (pa + i) = false
    (∀ core line, ∃ t, ends (.l1Eviction core line) t ∧ { t with compcnt := s.compcnt }.withCoresOf s = s ∧ (∀ c, c ≠ core → t.core c = s.core c) ∧
      (∀ key q, t.coreByte core key q = s.coreByte core key q) ∧
      ((sget (fun _ => ({} : LineCopy)) (s.core core).copies line).live = true → (sget (fun _ => ({} : LineCopy)) (t.core core).copies line).inL1 = false)) ∧
    (∀ line, isHbm (line * 128) = true →
      let c := sget (fun _ => ({} : L2Line)) s.l2 line
      (c.live = true → c.dirty = true → s.windowDie (line * 128) = none →
        ∃ t, ends (.l2Writeback line) t ∧ (∀ key q, t.homeByte key q = s.homeByte key q) ∧ t.cores = s.cores ∧ t.wgs = s.wgs ∧
          (∀ q, t.memByte q = if line * 128 ≤ q ∧ q < line * 128 + 128 then lineByte c.data (q % 128) else s.memByte q) ∧
          sget (fun _ => ({} : L2Line)) t.l2 line = { c with dirty := false }) ∧
      (c.live = false ∨ c.dirty = false → ends (.l2Writeback line) s) ∧
      (∀ die, die < 2 → line ∈ (s.dd die).heldLines → c.live = true → c.dirty = true → s.windowDie (line * 128) = some die →
        let d := (s.dd die).drop line
        let stored := d.store line c.data c.key.isSome c.dedup s.time (Config.freeBit s.draws)
        (∀ e, stored = some e → ∃ t, ends (.heldWritebackRetry line) t ∧ t.cores = s.cores ∧ t.wgs = s.wgs ∧ t.mem = s.mem ∧
          line ∉ (t.dd die).heldLines ∧ (t.dd die).map = e.map ∧ (t.dd die).content = e.content ∧ (t.dd die).refs = e.refs ∧
          sget (fun _ => none) (t.dd die).keys line = c.key ∧ sget (fun _ => ({} : L2Line)) t.l2 line = { c with dirty := false }) ∧
        (stored = none → ∃ t, ends (.heldWritebackRetry line) t ∧ t.cores = s.cores ∧ t.wgs = s.wgs ∧ t.mem = s.mem ∧ t.l2 = s.l2 ∧
          t.dd die = d)) ∧
      (line ∉ (s.dd 0).heldLines → line ∉ (s.dd 1).heldLines → ends (.heldWritebackRetry line) s)) ∧
    (∀ ix wk r, s.walks[ix]? = some wk → wk.who = [r] → s.walkWaits r = true → s.frozen r.wg r.warp r.split = false →
      let x := s.split r.wg r.warp r.split
      let same (bits : Nat) (y : Walk) : Bool := y.ctx == wk.ctx && y.die == wk.die && y.va / 2 ^ bits == wk.va / 2 ^ bits
      let alone (bits : Nat) : Prop := (s.walks.filter (same bits)).flatMap (·.who) = [r] ∧ (s.walks.filter (same bits)).flatMap (·.ports) = []
      let traps (code level : Nat) (left : List Walk) : Prop :=
        s.traces (s.wg r.wg).core (s.wg r.wg).ctx 3 = false → x.handler = false → s.arrayBefore r.wg r.warp = false →
          (s.core (s.wg r.wg).core).late = [] → ∃ t, ends (.pageWalkComplete ix) t ∧ t.walks = left ∧ t.mem = s.mem ∧ (t.split r.wg r.warp r.split).st = .inTrap ∧
            ∃ e, (t.split r.wg r.warp r.split).trap = some e ∧ e.code = code ∧ e.addr = BitVec.ofNat 64 r.va ∧
              e.data = BitVec.ofNat 64 (level + r.access.bits * 16 + r.lane * 256) ∧ (t.split r.wg r.warp r.split).resume = x.pc
      (∀ level, s.walk wk.ctx wk.va = .bad level → traps 0x22 level (s.walks.eraseIdx ix)) ∧
      (∀ p ea level bits, s.walk wk.ctx wk.va = .leaf p ea level bits → s.permits p r.access = false → alone bits → traps 0x23 level (s.walks.filter fun y => !same bits y)) ∧
      (∀ p ea level bits, s.walk wk.ctx wk.va = .leaf p ea level bits → s.permits p r.access = true → isHbm ea = true → isHbm (ea + 7) = true →
        r.va % 2 ^ 57 / 2 ^ bits = wk.va / 2 ^ bits → alone bits →
        ∃ t, ends (.pageWalkComplete ix) t ∧ (t.walks = s.walks.filter fun y => !same bits y) ∧
          t.split r.wg r.warp r.split = { x with st := .run, pend := none, wait := .nothing, replay := true, since := s.tick } ∧
          ∃ e, (t.core r.core).tlbFind wk.ctx (r.va % 2 ^ 57) = some e ∧ e.bits = bits ∧
            e.pte = p ||| 0x100 ||| (if r.access.writes then 0x200 else 0))) ∧
    (∀ off n, (legal off n → answered (.hostHbmAccess off n none) off n ((List.range n).map fun i =>
          if (off + i) / 128 ∈ (s.dd 0).heldLines ∨ (off + i) / 128 ∈ (s.dd 1).heldLines then s.homeByte none (off + i)
          else reKey (s.hbmKey ((off + i) / 128)) none (off + i) (s.hbmByte (off + i))) ∧
        crossed (.peerAccess off n .read) off n ((List.range n).map fun i => s.homeByte none (off + i))) ∧
      (¬legal off n → refused (.hostHbmAccess off n none) ∧ refused (.peerAccess off n .read))) ∧
    (∀ off n bs, (legal off bs.length → s.NoWindows → (∀ i < bs.length, s.hbmKey ((off + i) / 128) = none) →
        let written (q : Nat) (old : Byte) : Byte := if off ≤ q ∧ q < off + bs.length then bs.getD (q - off) 0 else old
        ∃ t, ends (.hostHbmAccess off n (some bs)) t ∧ t.cores = s.cores ∧ t.wgs = s.wgs ∧ t.readEnd = .done ∧
          (∀ q, t.memByte q = written q (s.memByte q)) ∧
          ∀ q, (let c := sget (fun _ => ({} : L2Line)) s.l2 (q / 128)
            c.live = true → sget (fun _ => ({} : L2Line)) t.l2 (q / 128) = c) ∧
            t.homeByte none q = s.homeByte none q) ∧
      (legal off bs.length → ∃ t, ends (.peerAccess off n (.write bs)) t ∧ t.readEnd = .done ∧ t.wgs = s.wgs ∧ s.HomeHas t off bs ∧
        ∀ core q, off ≤ q → q < off + bs.length → ∀ c, c = sget (fun _ => ({} : LineCopy)) (t.core core).copies (q / 128) → c.live = true → c.pending = true) ∧
      (¬legal off bs.length → refused (.hostHbmAccess off n (some bs)) ∧ refused (.peerAccess off n (.write bs)))) ∧
    (∀ off n bs, let pa := Config.windowBase + off
      (0 < n → off + n ≤ Config.windowBytes → answered (.hostWindowAccess off n none) pa n ((List.range n).map fun i => s.homeByte none (pa + i))) ∧
      (n = 0 ∨ Config.windowBytes < off + n → refused (.hostWindowAccess off n none)) ∧
      (0 < bs.length → off + bs.length ≤ Config.windowBytes → ∃ t, ends (.hostWindowAccess off n (some bs)) t ∧ t.l2 = s.l2 ∧ t.cores = s.cores ∧ t.readEnd = .done ∧
        ∀ q, t.memByte q = if pa ≤ q ∧ q < pa + bs.length then bs.getD (q - pa) 0 else s.memByte q) ∧
      (bs.length = 0 ∨ Config.windowBytes < off + bs.length → refused (.hostWindowAccess off n (some bs)))) ∧
    (∀ off n op x y, let old4 : Word := BitVec.ofNat 32 (ofBytes (s.homeRead none off 4))
      let old8 : DWord := BitVec.ofNat 64 (ofBytes (s.homeRead none off 8))
      (legal off 4 → off % 4 = 0 → ∃ t, ends (.peerAccess off n (.atomic op false x y)) t ∧ t.readData = toBytes 4 old4.toNat ∧
        s.HomeHas t off (toBytes 4 (intAtom op old4 (x.setWidth 32) (y.setWidth 32)).toNat)) ∧
      (legal off 8 → off % 8 = 0 → ∃ t, ends (.peerAccess off n (.atomic op true x y)) t ∧ t.readData = toBytes 8 old8.toNat ∧
        s.HomeHas t off (toBytes 8 (intAtom op old8 x y).toNat)) ∧
      (off % 4 ≠ 0 → refused (.peerAccess off n (.atomic op false x y))) ∧ (off % 8 ≠ 0 → refused (.peerAccess off n (.atomic op true x y))))

/-! ## Events: trap rings and clusters -/

/-- R379 to R383: the first record that waits for a context's ring is written at RPROD and its vector signalled; where the ring is full a record waits, and a stray arrival is dropped and counted. RCONS takes no value that is ahead of RPROD or too far behind.
A WGCMD of the owner on a held subject releases its split, kills its workgroup, or lets its command go on or end; for any other it gives the error that R383 names. A vector whose table entry is masked becomes pending (the layout of
the MSI-X table is the model's, log entry 79).
That an event whose condition does not hold leaves the state, and the fields that record what
waits, are the model's own (log entry 3). -/
def Obligations.TrapRings : Prop :=
  ∀ (s : State) (m : Master) (ctx : Nat),
    let c := s.ctx ctx
    let slots := 2 ^ (c.ringSize + 6)
    let used := (c.rprod - c.rcons).toNat
    let place := c.ring + 64 * (c.rprod.toNat % slots)
    let err (i : Instr) (n : Nat) : Prop := exec i s = .next (s.updCtx ctx fun c => { c with wgcmd := BitVec.ofNat 32 (n * 2 ^ 28) })
    let ok (t : State) : Prop := (t.ctx ctx).wgcmd = 0 ∧ (t.ctx ctx).held = c.held.filter (fun p => p.1 != c.wgarg.toNat)
    (c.pending = [] → exec (.trapRingRecordWrite ctx) s = .next s) ∧
    (∀ r rest, c.pending = r :: rest →
      (slots ≤ used → r.code ≠ 0x80 → exec (.trapRingRecordWrite ctx) s = .next s) ∧
      (slots ≤ used → r.code = 0x80 → exec (.trapRingRecordWrite ctx) s = .next (s.updCtx ctx fun c =>
        { c with pending := rest, lost := true, lostCnt := min (c.lostCnt + 1) 65535 })) ∧
      (used < slots → place + 64 ≤ Config.hbmBytes → s.NoWindows → s.meetsArea place 64 = false →
        ∃ t, exec (.trapRingRecordWrite ctx) s = .next t ∧ s.HomeHas t place (toBytes 64 (r.bits c.rprod.toNat)) ∧ t.wgs = s.wgs ∧
          t.ctx ctx = { c with pending := rest, rprod := c.rprod + 1, held := if r.held then c.held ++ [(c.rprod.toNat, r)] else c.held } ∧
          let v := c.rcfg.toNat % 2 ^ 11
          let masked := (s.msixEntry v).getLsbD 96
          (t.msix = if c.rcfg.getLsbD 31 && !masked then v :: s.msix else s.msix) ∧
          ∀ n, sget (fun _ => false) t.msixPending n = (sget (fun _ => false) s.msixPending n || (c.rcfg.getLsbD 31 && masked && n == v)))) ∧
    (∀ v, exec (.rconsWrite m ctx v) s = .next (if s.owns m = true ∧ (c.rprod - v).toNat ≤ slots then s.updCtx ctx fun c => { c with rcons := v } else s)) ∧
    (∀ i ∈ [Instr.wgcmdRelease m ctx, .wgcmdKill m ctx, .wgcmdResumeCommand m ctx, .wgcmdCancelCommand m ctx],
      (s.owns m = false → exec i s = .next s) ∧
      (s.owns m = true → c.created = false → err i 3) ∧
      (s.owns m = true → c.created = true → (∀ p ∈ c.held, p.1 ≠ c.wgarg.toNat) → err i 1) ∧
      (s.owns m = true → c.created = true → ∀ r, c.held.find? (fun p => p.1 == c.wgarg.toNat) = some (c.wgarg.toNat, r) → s.subject r = none → err i 1)) ∧
    (s.owns m = true → c.created = true → ∀ r x, c.held.find? (fun p => p.1 == c.wgarg.toNat) = some (c.wgarg.toNat, r) → s.subject r = some x →
      (r.kind ≠ 0 ∨ r.nested = true → err (.wgcmdRelease m ctx) 2) ∧
      (r.kind ≠ 0 → err (.wgcmdKill m ctx) 2) ∧
      (¬(r.code = 0x82 ∨ r.code = 0x84) → err (.wgcmdResumeCommand m ctx) 2 ∧ err (.wgcmdCancelCommand m ctx) 2) ∧
      (r.code = 0x82 → r.data.toNat / 16 % 8 = 7 → err (.wgcmdResumeCommand m ctx) 2) ∧
      (∀ g w n, x = .split g w n → r.kind = 0 →
        (r.nested = false → (s.split g w n).holdNext = none → s.stoppedChain g w n (s.split g w n).resume = none →
          ∃ t, exec (.wgcmdRelease m ctx) s = .next t ∧ ok t ∧ (t.split g w n).st = .run ∧ (t.split g w n).pc = (s.split g w n).resume ∧
            (t.split g w n).mask = (s.split g w n).mask ∧ (t.split g w n).trap = none) ∧
        ((s.wg g).live = true → ∃ t, exec (.wgcmdKill m ctx) s = .next t ∧ (t.ctx ctx).wgcmd = 0 ∧
          ∀ v, (s.warp g v).live = true → (t.warp g v).exited = true)) ∧
      (∀ core ix d, x = .cmd core ix → (s.core core).cmds[ix]? = some d → d.routine = none → (r.code = 0x82 ∨ r.code = 0x84) → ¬(r.code = 0x82 ∧ r.data.toNat / 16 % 8 = 7) →
        ∃ t, exec (.wgcmdResumeCommand m ctx) s = .next t ∧ ok t ∧ (t.core core).cmds = (s.core core).cmds.set ix { d with suspended := false }) ∧
      (∀ core ix d, x = .cmd core ix → (s.core core).cmds[ix]? = some d → (r.code = 0x82 ∨ r.code = 0x84) →
        ∃ t, exec (.wgcmdCancelCommand m ctx) s = .next t ∧ ok t ∧ t.cores = (s.cancelCmd core d).cores ∧ t.timelines = (s.cancelCmd core d).timelines ∧
          t.mem = s.mem ∧ t.l2 = s.l2) ∧
      (∀ q ix k, x = .packet q ix → (s.queue q).packets[ix]? = some k → (r.code = 0x82 ∨ r.code = 0x84) → ¬(r.code = 0x82 ∧ r.data.toNat / 16 % 8 = 7) →
        ∃ t, exec (.wgcmdResumeCommand m ctx) s = .next t ∧ ok t ∧ (t.queue q).packets = (s.queue q).packets.set ix { k with suspended := false }) ∧
      (∀ q ix k, x = .packet q ix → (s.queue q).packets[ix]? = some k → (r.code = 0x82 ∨ r.code = 0x84) →
        ∃ t, exec (.wgcmdCancelCommand m ctx) s = .next t ∧ ok t ∧
          (t.queue q).packets = (s.queue q).packets.set ix { k with suspended := false, cancelled := true }))

/-- R24, R25, R48, R353, R354, R362, R368 to R370, R388 to R390: the launcher admits the first candidate whole, each warp at its entry with all its lanes and each byte of another context zero; a cluster whose workgroups have all ended
leaves together; a cluster is stopped for a candidate of higher priority, or for a suspend, and its images are saved once its late stores are performed, and later put back with every register and scratchpad byte as they were, its
commands ahead of others and a chain that it held first for the array. Which free places a seat, an image and a restored chain take is the model's choice (log entry 20); stores that are performed late, log entry 69.
That an event whose condition does not hold leaves the state, and the fields that record what
waits, are the model's own (log entry 3). When a cluster leaves (41) and what its image's place
reads as (14) are the model's readings. -/
def Obligations.ClusterEvents : Prop :=
  ∀ (s : State) (key : Nat) (cores : List Nat),
    let x := s.grid key
    let cl := s.cluster key
    let sameRegs (a b : Warp) : Prop := ∀ n l, a.getK n = b.getK n ∧ a.getV l n = b.getV l n ∧ (a.pred n).getLsbD l = (b.pred n).getLsbD l ∧ a.upred n = b.upred n
    (∀ p seats, s.firstCandidate = some (p, .grid key) → s.seats (.grid key) cores = some seats →
      ∃ t, exec (.clusterAdmission cores) s = .next t ∧ t.grid key = { x with admitted := x.admitted + x.size } ∧
        (t.cluster s.nextId).live = true ∧ (t.cluster s.nextId).wgs = (List.range x.size).map (s.nextId + 1 + ·) ∧
        ∀ (i core : Nat) (seat : Seat), i < x.size → cores[i]? = some core → seats[i]? = some seat →
          let g := t.wg (s.nextId + 1 + i)
          let (nc, nm, ne) := g.counts
          g.live = true ∧ g.core = core ∧ g.rank = i ∧ g.wgid = x.admitted + i ∧ g.ctx = x.ctx ∧ g.kdesc = x.kdesc ∧ g.user = seat.user ∧
          (∀ w, w < nc + nm + ne → let role : Role := if w < nc then .copy else if w < nc + nm then .maths else .epi
            let wp := g.warp w
            let y := wp.split 0
            wp.live = true ∧ wp.role = role ∧ wp.width = (if role = .maths then 0 else g.lanes) ∧ sameRegs wp {} ∧ wp.mode = 0 ∧ wp.flags = 0 ∧
            y.live = true ∧ y.st = .run ∧ y.pc = BitVec.ofNat 57 (x.code + g.entry role) ∧
            y.mask = (if role = .maths then 1 else laneSet fun l => l < g.lanes)) ∧
          ∀ a, g.user ≤ a → a < g.user + g.bytes → lastUser (s.core core).userOf a ≠ some x.ctx → (t.core core).sp a = 0) ∧
    ((∀ p k, s.firstCandidate ≠ some (p, .grid k)) → exec (.clusterAdmission cores) s = .next s) ∧
    (∀ p, s.firstCandidate = some (p, .grid key) → s.seats (.grid key) cores = none → exec (.clusterAdmission cores) s = .next s) ∧
    (cl.live = true → (∀ g ∈ cl.wgs, (s.wg g).exited = true ∧ s.quiet g = true) →
      ∃ t, exec (.clusterExitBarrier key) s = .next t ∧ (t.cluster key).live = false ∧ (∀ g ∈ cl.wgs, (t.wg g).live = false) ∧
        (t.grid cl.grid).exited = (s.grid cl.grid).exited + cl.wgs.length ∧
        ((s.ctx cl.ctx).suspending = true → (∀ p ∈ s.clusters, p.1 ≠ key → p.2.live = true → p.2.ctx ≠ cl.ctx) →
          (t.ctx cl.ctx).suspending = false ∧ t.ctxcmd.getLsbD 31 = false)) ∧
    (¬(cl.live = true ∧ ∀ g ∈ cl.wgs, (s.wg g).exited = true ∧ s.quiet g = true) → exec (.clusterExitBarrier key) s = .next s) ∧
    (∀ base, let stopped : Prop := exec (.preemption key) s = .next (s.updCluster key fun c => { c with preempting := true, place := base })
     cl.live = true → cl.preempting = false → s.imagePlace cl = some base →
      ((s.ctx cl.ctx).suspending = true → stopped) ∧
      (∀ p c, s.firstCandidate = some (p, c) → s.candidateFits c = false → ({ kdesc := (s.asks c).2.1 : Workgroup }).paired = false →
        (∀ k ∈ s.clusters, k.2.live = true → k.2.preempting = false) → cl.wgs ≠ [] → cl.prio < p → (key, cl) ∈ s.clusters →
        (∀ k ∈ s.clusters, if k.1 = key then k.2 = cl else cl.prio < k.2.prio ∨ (cl.prio = k.2.prio ∧ k.2.order < cl.order)) → stopped)) ∧
    (cl.live = false ∨ cl.preempting = true ∨ s.imagePlace cl = none → exec (.preemption key) s = .next s) ∧
    (∀ image y, s.saved[image]? = some y →
      let limit := 1000 * (if (s.ctx y.cluster.ctx).readmit = 0 then 100 else (s.ctx y.cluster.ctx).readmit)
      let first := ∀ j z, j < image → s.saved[j]? = some z → z.cluster.ctx ≠ y.cluster.ctx
      (first ∧ y.time + limit < s.time.toNat → exec (.readmissionLimitExpiry image) s = .next { s with saved := s.saved.set image { y with overstays := true } }) ∧
      (¬(first ∧ y.time + limit < s.time.toNat) → exec (.readmissionLimitExpiry image) s = .next s)) ∧
    (cl.live = true → cl.preempting = true → cl.wgs.Nodup →
      let late := cl.wgs.foldl (fun t g => t.perform (t.wg g).core fun l => l.wg == g) s
      ∃ t img, exec (.contextSave key) s = .next t ∧ t.saved = s.saved ++ [img] ∧ (t.cluster key).live = false ∧ (∀ g ∈ cl.wgs, (t.wg g).live = false) ∧
        img.base = cl.place ∧ img.bytes = s.clusterBytes cl ∧ img.time = s.time.toNat ∧ img.images.map (·.wg) = cl.wgs ∧
        (t.ctx cl.ctx).svused = (s.ctx cl.ctx).svused + BitVec.ofNat 64 (s.clusterBytes cl) ∧
        ∀ (j : Nat) (y : Image), img.images[j]? = some y → y.scratch = (late.core (s.wg y.wg).core).spRead (s.wg y.wg).user (s.wg y.wg).bytes ∧
          ∀ w, sameRegs (y.wgState.warp w) (s.warp y.wg w)) ∧
    (∀ p image sv seats, s.firstCandidate = some (p, .saved image) → s.saved[image]? = some sv → s.seats (.saved image) cores = some seats →
      (sv.images.map (·.wg)).Nodup → (∀ y ∈ sv.images, ∀ c ∈ y.cmds, c.cancelled = false) →
      ∃ t, exec (.contextRestore image cores) s = .next t ∧ t.saved = s.saved.eraseIdx image ∧
        ∀ (i : Nat) (y : Image) (core : Nat) (seat : Seat), sv.images[i]? = some y → cores[i]? = some core → seats[i]? = some seat →
          (t.wg y.wg).core = core ∧ (t.wg y.wg).user = seat.user ∧ (t.core core).cmds = y.cmds.map Cmd.rerun ++ (s.core core).cmds ∧
          (t.core core).queue = (y.chain.map fun h => { h with stash := y.spill }).toList ++ (s.core core).queue ++ y.queue ∧ (∀ w, sameRegs (t.warp y.wg w) (y.wgState.warp w)) ∧
          (∀ w n, (t.split y.wg w n).mask = ((y.wgState.warp w).split n).mask ∧ (t.split y.wg w n).pc = ((y.wgState.warp w).split n).pc) ∧
          ∀ a, a < y.scratch.length → (t.core core).sp (seat.user + a) = y.scratch.getD a 0) ∧
    (∀ image, (∀ p, s.firstCandidate ≠ some (p, .saved image)) → exec (.contextRestore image cores) s = .next s)

/-! ## Events: packets, contexts, queues -/

/-- R84, R359 to R367: the command processor parses the head packet of the queue that is next in turn. A NOP and a PRIO take effect and are done; a LAUNCH makes its grid, a SIGNAL, FLUSH or HOSTCOPY is numbered and in progress, a FENCE waits for its counters;
a packet of a reserved type, with reserved bits, or that cannot be read stops its queue with the error and a record. Packets in progress perform their accesses, complete, and advance the queue's timeline. A maximum whose target has come to
translate to host memory since the parse stops its queue at the atomic (the model's choice, log entry 55); a masked MSI-X vector becomes pending (the table's layout: log entry 79).
That an event whose condition does not hold leaves the state, and the fields that record what
waits, are the model's own (log entry 3). So are the order of the checks of a packet (55), what
a stop drops (56), the pieces of FLUSH and HOSTCOPY (58), and walks within an act (9). -/
def Obligations.Packets : Prop :=
  ∀ (s : State) (q : Nat),
    let x := s.queue q
    let field (w : BitVec 512) (lo n : Nat) : Nat := w.toNat / 2 ^ lo % 2 ^ n
    let all := [Instr.pktNop q, .pktLaunch q, .pktFence q, .pktSignal q, .pktFlush q, .pktHostcopy q, .pktPrio q]
    let put (y : Queue) (t t1 : State) : Prop := t.withQueuesOf t1 = t1 ∧ t.queue q = y ∧ ∀ r, r ≠ q → t.queue r = t1.queue r
    ((∀ refill, s.nextQueue ≠ some (q, refill)) → ∀ i ∈ all, exec i s = .next s) ∧
    (∀ refill, s.nextQueue = some (q, refill) →
      let t0 := s.serve q refill
      let y := t0.queue q
      let number := (t0.timeline y.ctx (queueId q)).last + 1
      let stops (i : Instr) (code : Nat) : Prop := ∃ t, exec i s = .next t ∧ (t.queue q).stop = true ∧ (t.queue q).err = code ∧ (t.queue q).rptr = y.rptr ∧
        t.mem = s.mem ∧ ∃ r, (t.ctx y.ctx).pending = (s.ctx y.ctx).pending ++ [r] ∧ r.code = 0x90 ∧ r.kind = 2 ∧ r.data = BitVec.ofNat 64 (q + code * 2 ^ 16) ∧
          r.addr = BitVec.ofNat 64 y.head
      let goes (i : Instr) (k : Packet) : Prop := ∃ t, exec i s = .next t ∧ (t.queue q).rptr = y.rptr + 1 ∧ (t.queue q).packets = y.packets ++ [k] ∧
        (t.timeline y.ctx (queueId q)).last = number ∧ t.mem = s.mem ∧ t.wgs = s.wgs
      (t0.headPacket q = none → stops (.pktNop q) 6) ∧
      (∀ w, s.headPacket q = some w → t0.headPacket q = some w →
        let type := field w 0 8
        let clean (l : List (Nat × Nat)) : Prop := reservedZero w ([(0, 8), (31, 1)] ++ l) = true
        let packet : Packet := { type := type, number := number, words := w }
        (6 < type → stops (.pktNop q) 1) ∧
        (type = 0 → (¬clean [] → stops (.pktNop q) 2) ∧
          (clean [] → ∃ t, exec (.pktNop q) s = .next t ∧ put { y with rptr := y.rptr + 1 } t t0)) ∧
        (type = 6 → clean [(64, 5), (72, 8)] → ∃ t c, exec (.pktPrio q) s = .next t ∧ put { y with cfg := c, rptr := y.rptr + 1 } t t0 ∧
          c.toNat % 2 ^ 5 = field w 64 5 ∧ c.toNat / 2 ^ 8 % 2 ^ 8 = (if field w 72 8 = 0 then y.cfg.toNat / 2 ^ 8 % 2 ^ 8 else field w 72 8) ∧
          c.toNat / 2 ^ 16 = y.cfg.toNat / 2 ^ 16) ∧
        (type = 3 → clean [(64, 128), (192, 2), (208, 11), (223, 1)] → field w 64 64 % 8 = 0 → field w 192 2 < 2 → goes (.pktSignal q) packet) ∧
        (type = 3 → clean [(64, 128), (192, 2), (208, 11), (223, 1)] → field w 64 64 % 8 ≠ 0 ∨ field w 192 2 = 3 → stops (.pktSignal q) 3) ∧
        (type = 5 → clean [(64, 192)] → (0 < field w 192 64 ∧ field w 192 64 ≤ 2 ^ 40 → goes (.pktHostcopy q) packet) ∧
          (field w 192 64 = 0 ∨ 2 ^ 40 < field w 192 64 → stops (.pktHostcopy q) 3)) ∧
        (type = 4 → clean [(64, 128), (192, 2)] → field w 64 64 % 128 = 0 → field w 128 64 = 128 → field w 192 2 = 1 →
          let t1 := (t0.addPacket q w).1
          ∀ t2 c pa attr, t1.engXlat none y.ctx (field w 64 64) .read none = (t2, c, .ok pa attr) → isHbm pa = true → t2.windowDie (lineOf pa * 128) = none →
            let l := sget (fun _ => ({} : L2Line)) t2.l2 (lineOf pa)
            l.live = true → l.dirty = true → ∃ t, exec (.pktFlush q) s = .next t ∧ (t.queue q).rptr = y.rptr + 1 ∧
              (t.queue q).packets = (y.packets ++ [packet]).map (fun k => if k.number = number then { packet with progress := 128 } else k) ∧
              ∀ a, t.memByte a = if lineOf pa * 128 ≤ a ∧ a < lineOf pa * 128 + 128 then lineByte l.data (a % 128) else t2.memByte a) ∧
        (type = 2 → clean [(64, 64), (128, 4)] → field w 64 64 % 16 = 0 → field w 128 4 = 1 → ∀ t1 e t2 v,
          t0.ctxNum y.ctx (field w 64 64) 16 = (t1, some e) → e % 2 ^ 64 % 8 = 0 → t1.ctxNum y.ctx (e % 2 ^ 64) 8 = (t2, some v) →
          let want := e / 2 ^ 64 % 2 ^ 64
          (want ≤ v → ∃ t, exec (.pktFence q) s = .next t ∧ put { y with fwait := false, fence := [], rptr := y.rptr + 1 } t t2) ∧
          (v < want → ∃ t, exec (.pktFence q) s = .next t ∧
            put { y with fwait := true, fence := [{ addr := e % 2 ^ 64, value := BitVec.ofNat 64 want }] } t t2)) ∧
        (type = 1 → clean [(64, 224), (288, 2), (296, 5)] → field w 64 64 % 128 = 0 → field w 128 64 % 64 = 0 → field w 128 64 < 2 ^ 57 → field w 192 64 % 16 = 0 →
          field w 256 32 ≠ 0 → field w 256 32 % 2 ^ field w 288 2 = 0 → field w 296 5 = 0 → ∀ t1 d, t0.ctxNum y.ctx (field w 64 64) 128 = (t1, some d) →
          let kernel : Workgroup := { kdesc := BitVec.ofNat 1024 d }
          let fits := ∀ r ∈ [Role.copy, .maths, .epi], (r = .epi ∧ kernel.counts.2.2 = 0 ∨ field w 128 64 + kernel.entry r < 2 ^ 57) ∧
            (kernel.trapEntry r ≠ 0xFFFFFFFF → field w 128 64 + kernel.trapEntry r < 2 ^ 57)
          (kdescOk (BitVec.ofNat 1024 d) = false → stops (.pktLaunch q) 4) ∧
          (kdescOk (BitVec.ofNat 1024 d) = true → ¬fits → stops (.pktLaunch q) 3) ∧
          (kdescOk (BitVec.ofNat 1024 d) = true → fits → goes (.pktLaunch q) packet ∧ ∃ t, exec (.pktLaunch q) s = .next t ∧
            t.grid s.nextId = { live := true, queue := q, number := number, ctx := y.ctx, prio := y.prio, kdesc := BitVec.ofNat 1024 d, code := field w 128 64,
                                count := field w 256 32, size := 2 ^ field w 288 2 })))) ∧
    (∀ e v s1, x.fence = [e] → x.fwait = true → x.enabled = true → x.stop = false → e.satisfied = false → s.ctxNum x.ctx e.addr 8 = (s1, some v) →
      let remote := s.pollsCounter x.ctx e.addr
      let mine : Instr := if remote then .fencePollTimer q 0 else .fenceCounterRead q 0
      let other : Instr := if remote then .fenceCounterRead q 0 else .fencePollTimer q 0
      exec other s = .next s ∧
      (e.value.toNat ≤ v → ∃ t, exec mine s = .next t ∧ put { x with fwait := false, fence := [], rptr := x.rptr + 1 } t s1) ∧
      (v < e.value.toNat → ∃ t, exec mine s = .next t ∧ put x t s1)) ∧
    (∀ k s1 c pa attr, x.packets.find? (fun k => k.type == 3 && k.progress == 0 && !k.suspended && !k.cancelled) = some k →
      s.engXlat none x.ctx (field k.words 64 64) .atomic none = (s1, c, .ok pa attr) →
      (field k.words 192 2 = 2 → isHost pa = true → ∃ t, exec (.signalAtomic q) s = .next t ∧ (t.queue q).stop = true ∧ (t.queue q).err = 3 ∧ t.mem = s1.mem ∧ t.l2 = s1.l2 ∧
        (t.queue q).packets = x.packets.map fun j => if j.number = k.number then { j with cancelled := true } else j) ∧
      (attr.key = none → pa + 8 ≤ Config.hbmBytes →
      let old := ofBytes (s1.homeRead none pa 8)
      let v := field k.words 128 64
      let new := match field k.words 192 2 with | 0 => v | 1 => (old + v) % 2 ^ 64 | _ => max old v
      ∃ t, exec (.signalAtomic q) s = .next t ∧ s1.HomeHas t pa (toBytes 8 new) ∧ t.wgs = s.wgs ∧
        (t.queue q).packets = x.packets.map fun j => if j.number = k.number then { j with progress := 1 } else j)) ∧
    (∀ k s1 c pa attr, x.packets = [k] → k.type = 5 → k.suspended = false → k.cancelled = false →
      let len := field k.words 192 64
      let at_ := field k.words 128 64 + k.progress
      let n := min (len - k.progress) (128 - at_ % 128)
      k.progress < len → k.latched.length = len →
      s.engXlat none x.ctx at_ .write none = (s1, c, .ok pa attr) → attr.key = none → pa % 128 = at_ % 128 → isHbm pa = true →
        ∃ t, exec (.engineGlobalWrite (.dma q k.number)) s = .next t ∧ s1.HomeHas t pa ((k.latched.drop k.progress).take n) ∧
          (t.queue q).packets = [{ k with progress := k.progress + n }]) ∧
    (∀ k, x.packets = [k] → k.suspended = false → k.type ∈ [1, 3, 4, 5] →
      let tl := s.timeline x.ctx (queueId q)
      let finished := match k.type with
        | 1 => ∀ g ∈ s.grids, g.2.live = true → g.2.queue = q → g.2.number = k.number → g.2.exited = g.2.count
        | 3 => k.cancelled = true ∨ k.progress = 1
        | 4 => k.cancelled = true ∨ (if field k.words 128 64 = 0 then 2 ^ 64 ≤ k.progress else field k.words 128 64 ≤ k.progress)
        | _ => k.cancelled = true ∨ field k.words 192 64 ≤ k.progress
      (finished → tl.done = [] → k.number = tl.count + 1 → ∃ t, exec (.packetCompletion q k.number) s = .next t ∧ (t.queue q).packets = [] ∧
        (t.timeline x.ctx (queueId q)).count = k.number ∧
        let v := field k.words 208 11
        let sends := k.type = 3 ∧ k.cancelled = false ∧ k.words.getLsbD 223 = true
        let masked := (s.msixEntry v).getLsbD 96 = true
        (t.msix = if sends ∧ ¬masked then v :: s.msix else s.msix) ∧
        ∀ n, sget (fun _ => false) t.msixPending n = if sends ∧ masked ∧ n = v then true else sget (fun _ => false) s.msixPending n) ∧
      (¬finished → k.type ≠ 1 → exec (.packetCompletion q k.number) s = .next s))

/-- R58, R84, R351 to R359, R429: the owner creates a context from its descriptor, destroys one that is idle, stops admission with a suspend and lets it go on; a context command that cannot be done gives the error. Invalidations start; a doorbell and QCFG move a queue's write index and enable it; STOP is cleared.
A register write reaches the register that its address names, and a read of it returns its words; an access that the port does not allow completes as an Unsupported Request, and of two words each is an access of its own (log entry 86). The MSI-X table's layout is the model's (log entry 79).
That an event whose condition does not hold leaves the state, and the fields that record what
waits, are the model's own (log entry 3). So are that an address register stores what is written
(59) and the order of the checks of CTX_CREATE (60). -/
def Obligations.ContextsAndQueues : Prop :=
  ∀ (s : State) (m : Master) (ctx q : Nat) (v : Word),
    let c := s.ctx ctx
    let err (n : Nat) : State := { s with ctxcmd := BitVec.ofNat 32 (n * 2 ^ 28) }
    let cmds := [Instr.ctxCreate m ctx, .ctxDestroy m ctx, .ctxSuspend m ctx, .ctxResume m ctx]
    let x := s.queue q
    let d : BitVec 512 := BitVec.ofNat 512 (ofBytes (s.rawRead (s.ctxtab.toNat + 64 * ctx) 64))
    let field (lo n : Nat) : Nat := d.toNat / 2 ^ lo % 2 ^ n
    let legal := (∀ b, b < 512 → (192 ≤ b ∧ b < 203) ∨ (240 ≤ b ∧ b < 252) ∨ (320 ≤ b ∧ b < 352) ∨ b < 180 → d.getLsbD b = false) ∧
      field 448 12 = 0 ∧ field 500 12 = 0 ∧ field 384 12 = 0 ∧ field 352 12 = 0 ∧ field 256 64 % 4096 = 0 ∧ field 252 4 ≤ 10 ∧
      field 256 64 + 64 * 2 ^ (field 252 4 + 6) ≤ Config.hbmBytes ∧ field 214 10 + field 203 11 ≤ 1024
    let inMap := isMapped (s.ctxtab.toNat + 64 * ctx) = true ∧ isMapped (s.ctxtab.toNat + 64 * ctx + 63) = true ∧ s.meetsArea (s.ctxtab.toNat + 64 * ctx) 64 = false
    let enabledOn := ∃ r ∈ s.queues, r.2.enabled = true ∧ r.2.ctx = ctx
    (s.owns m = false ∨ s.ctxcmd.getLsbD 31 = true ∨ s.fleet.pmtCmd.getLsbD 31 = true ∨ 256 ≤ ctx → ∀ i ∈ cmds, exec i s = .next s) ∧
    (s.owns m = true → s.ctxcmd.getLsbD 31 = false → s.fleet.pmtCmd.getLsbD 31 = false → ctx < 256 →
      (c.created = true → exec (.ctxCreate m ctx) s = .next (err 2)) ∧
      (c.created = false → ¬(inMap ∧ legal) → exec (.ctxCreate m ctx) s = .next (err 1)) ∧
      (c.created = false → inMap → legal → ∃ t, exec (.ctxCreate m ctx) s = .next t ∧ t.ctxcmd = 0 ∧ t.mem = s.mem ∧ t.queues = s.queues ∧
        (∀ e, e ≠ ctx → t.ctx e = s.ctx e) ∧ (∀ id, id < 2 ^ 32 → t.timeline ctx id = {}) ∧
        t.ctx ctx = { c with created := true, suspended := false, suspending := false, ptroot := field 448 64, shape := field 384 64, shapeLen := field 352 32,
                             ring := field 256 64, ringSize := field 252 4, readmit := field 224 16, csBase := field 214 10, csLen := field 203 11, asn := field 180 12,
                             rprod := 0, rcons := 0, lost := false, lostCnt := 0, svused := 0, pending := [], held := [] }) ∧
      (c.created = false → exec (.ctxDestroy m ctx) s = .next (err 3) ∧ exec (.ctxSuspend m ctx) s = .next (err 3) ∧ exec (.ctxResume m ctx) s = .next (err 3)) ∧
      (c.created = true →
        (enabledOn → exec (.ctxDestroy m ctx) s = .next (err 4)) ∧
        (¬enabledOn → s.hasWork ctx = true → exec (.ctxDestroy m ctx) s = .next (err 5)) ∧
        (¬enabledOn → s.hasWork ctx = false → ∃ t, exec (.ctxDestroy m ctx) s = .next t ∧ t.ctxcmd = 0 ∧ (t.ctx ctx).created = false ∧ (t.ctx ctx).held = []) ∧
        (∃ t, exec (.ctxSuspend m ctx) s = .next t ∧ (t.ctx ctx).suspended = true ∧
          (t.ctxcmd.getLsbD 31 = true ↔ ∃ k ∈ s.clusters, k.2.live = true ∧ k.2.ctx = ctx) ∧ t.wgs = s.wgs) ∧
        exec (.ctxResume m ctx) s = .next ({ s with ctxcmd := 0 }.updCtx ctx fun c => { c with suspended := false }))) ∧
    (let go := s.owns m = true ∧ s.tlbcmd.getLsbD 31 = false ∧ ctx < 256
     let start (page : Option Nat) : State := { s with tlbcmd := 0x80000000, invals := s.invals ++ [{ ctx := ctx, page := page, who := none }] }
     (go → exec (.tlbcmdPage m ctx) s = .next (start (some (s.tlbva.toNat % 2 ^ 57))) ∧ exec (.tlbcmdAll m ctx) s = .next (start none)) ∧
     (¬go → exec (.tlbcmdPage m ctx) s = .next s ∧ exec (.tlbcmdAll m ctx) s = .next s)) ∧
    (let puts (i : Instr) (y : Queue) : Prop := ∃ t, exec i s = .next t ∧ t.withQueuesOf s = s ∧ t.queue q = y ∧ ∀ r, r ≠ q → t.queue r = s.queue r
     let fits (y : Queue) : Prop := (y.wptr - y.rptr).toNat ≤ 2 ^ (y.cfg.toNat / 2 ^ 27 % 16 + 4)
     q < 4096 →
      (s.fleet.recovery = 0 → (x.enabled = false ∨ x.stop = true ∨ fits { x with wptr := v }) → puts (.doorbell .host q v 0) { x with wptr := v }) ∧
      (s.fleet.recovery = 0 → x.enabled = true → x.stop = false → ¬fits { x with wptr := v } →
        ∃ t, exec (.doorbell .host q v 0) s = .next t ∧ (t.queue q).stop = true ∧ (t.queue q).err = 5 ∧ (t.queue q).wptr = v) ∧
      (∀ page, page ≠ 0 → exec (.doorbell m q v page) s = .next s) ∧
      (s.owns m = false → exec (.qcfgWrite m q v) s = .next s ∧ exec (.qstatStopClear m q v) s = .next s) ∧
      (s.owns m = true →
        (v.getLsbD 31 = true → x.enabled = false ∨ fits x → puts (.qstatStopClear m q v) { x with stop := false }) ∧
        (v.getLsbD 31 = false → exec (.qstatStopClear m q v) s = .next s) ∧
        (x.enabled = false → v.getLsbD 31 = true → (s.ctx (v.toNat / 2 ^ 16 % 256)).created = false ∨ 12 < v.toNat / 2 ^ 27 % 16 →
          ∃ y, puts (.qcfgWrite m q v) y ∧ y.enabled = false ∧ y.err = 3) ∧
        (x.enabled = false → v.getLsbD 31 = true → (s.ctx (v.toNat / 2 ^ 16 % 256)).created = true → v.toNat / 2 ^ 27 % 16 ≤ 12 → v.toNat / 2 ^ 8 % 256 ≠ 0 → x.stop = true ∨ fits { x with cfg := v } →
          ∃ y, puts (.qcfgWrite m q v) y ∧ y.cfg = v &&& 0xF8FFFF1F ∧ y.enabled = true ∧ y.fwait = false ∧ y.rptr = x.rptr ∧ y.wptr = x.wptr) ∧
        (x.enabled = true → v.getLsbD 31 = false → ∃ y, puts (.qcfgWrite m q v) y ∧ y.enabled = false ∧ y.ctx = x.ctx ∧ y.ringLog = x.ringLog ∧ y.prio = v.toNat % 32))) ∧
    (∀ off width w,
      let write := exec (.registerWrite m off width w) s
      let form := (width = 4 ∨ width = 8 ∧ m ≠ .bmc) ∧ off % width = 0 ∧ (m = .host ∨ off < 0x1000000)
      (form → width = 8 → barMapped off = true → barMapped (off + 4) = false →
        (∃ t, exec (.registerWrite m off 4 w) s = .next t ∧ write = .next { t with readData := [], readEnd := .unsupported }) ∧
        s.registerRead m off 8 = { s.registerRead m off 4 with readEnd := .unsupported }) ∧
      (¬form ∨ barMapped off = false →
        write = .next { s with readData := [], readEnd := .unsupported } ∧ s.registerRead m off width = { s with readData := [], readEnd := .unsupported }) ∧
      (s.owns m = true → off = 8 → width = 8 → m ≠ .bmc → write = .next { s with readData := [], readEnd := .done, ctxtab := w }) ∧
      (s.owns m = true → off = 0x20 → width = 4 → write = .next { s with readData := [], readEnd := .done, tlbva := s.tlbva.extractLsb' 32 32 ++ w.extractLsb' 0 32 }) ∧
      (s.owns m = false → off = 8 → write = .next { s with readData := [], readEnd := if width = 4 ∨ (width = 8 ∧ m ≠ .bmc) then .done else .unsupported })) ∧
    (s.fleet.recovery = 0 →
      let reads (off width : Nat) (x : Nat) : Prop := s.registerRead m off width = { s with readData := toBytes width x, readEnd := .done }
      (m ≠ .bmc → reads 8 8 s.ctxtab.toNat) ∧ reads 0x10 4 s.ctxcmd.toNat ∧ reads 0x108 4 (sget (fun _ => 0) s.fleet.results (match m with | .host => 0 | .bmc => 1 | .fabric => 2)).toNat ∧
      (ctx < 256 → reads (0x40000 + 64 * ctx) 4 c.rprod.toNat ∧ reads (0x40000 + 64 * ctx + 4) 4 c.rcons.toNat ∧ reads (0x40000 + 64 * ctx + 0x10) 4 c.wgcmd.toNat) ∧
      (q < 4096 → reads (0x100000 + 64 * q + 8) 4 x.cfg.toNat ∧ reads (0x100000 + 64 * q + 0x10) 4 x.rptr.toNat ∧
        reads (0x100000 + 64 * q + 0x14) 4 ((if x.stop then 2 ^ 31 else 0) + (if x.fwait then 2 ^ 30 else 0) + x.err) ∧ (m = .host → reads (0x1000000 + 4096 * q) 4 x.wptr.toNat)) ∧
      (∀ n, n < 2048 → reads (0x2000 + 16 * n) 4 (s.msixEntry n).toNat))

/-! ## Events: device registers, debug, fleet -/

/-- R392 to R395, R404, R406, R407, R415, R447: the owner loads a verified routine image into the table and unloads it, clears the compression counters of a die, turns deduplication on and off, raises its pool, clears and freezes a core's counters, and sets the power limit within its range. No other master does. Where the
routine key lies in the signature index is the model's choice (log entry 73).
That an event whose condition does not hold leaves the state, and the fields that record what
waits, are the model's own (log entry 3). So are the room of the deduplication area, what
enabling and disabling discard (61), and that a crossing is counted at the home slice's die
(66). -/
def Obligations.DeviceRegisters : Prop :=
  ∀ (s : State) (m : Master) (n : Nat),
    let unowned := [Instr.rtcmdLoad m n, .rtcmdUnload m n, .compctlClr m n, .ddctlEnable m n, .ddctlDisable m n, .ddctlClr m n, .ddpoolWrite m n 0, .pcctlClr m n, .pcctlFreeze m n, .pwrlimWrite m 0]
    let rtcmd (e : Nat) : State := { s with rtcmd := BitVec.ofNat 32 (e * 2 ^ 28) }
    let key := s.fleet.routineKey
    let a := s.rtaddr.toNat
    let h : BitVec 512 := BitVec.ofNat 512 (ofBytes (s.rawRead a 64))
    let code := h.toNat / 2 ^ 96 % 2 ^ 32
    let data := h.toNat / 2 ^ 128 % 2 ^ 32
    let up (x : Nat) : Nat := (x + 63) / 64 * 64
    let len := 64 + up code + up data + 3284
    let image := s.rawRead a len
    let may (k : Nat) : Prop := isMapped a = true ∧ isMapped (a + k - 1) = true ∧ s.meetsArea a k = false
    let signed := image.take (64 + code) ++ (image.drop (64 + up code)).take data
    let sig := (image.drop (64 + up code + up data)).take 3284
    let headerOk := imageHeaderOk h = true
    let d := s.dd n
    let dd (t : State) : Prop := t.withDedupOf s = s ∧ ∀ e, e ≠ n → t.dd e = s.dd e
    let lo := n * Config.dieHbmBytes
    let win := d.win.toNat
    let wlen := d.wlen.toNat
    let area := d.area.toNat
    let placed := win % 2 ^ 30 = 0 ∧ wlen % 2 ^ 30 = 0 ∧ lo ≤ win ∧ win + wlen ≤ lo + Config.dieHbmBytes ∧ area % 2 ^ 21 = 0 ∧ lo ≤ area ∧ area < lo + Config.dieHbmBytes ∧
      (area < win ∨ win + wlen ≤ area)
    let room := (if area < win then win else lo + Config.dieHbmBytes) - area
    let covers (k : Nat) : Prop := wlen / 16 + 144 * k ≤ room
    (s.owns m = false → ∀ i ∈ unowned, exec i s = .next s) ∧
    (s.owns m = true →
      (s.rtcmd.getLsbD 31 = false →
        (n = 0 → exec (.rtcmdLoad m n) s = .next (rtcmd 3) ∧ exec (.rtcmdUnload m n) s = .next (rtcmd 3)) ∧
        (64 ≤ n → exec (.rtcmdLoad m n) s = .next s ∧ exec (.rtcmdUnload m n) s = .next s) ∧
        (0 < n → n < 64 →
          (∃ t, exec (.rtcmdUnload m n) s = .next t ∧ t.rtcmd = 0 ∧ (sget (fun _ => ({} : RoutineEntry)) t.routines n).valid = false ∧
            (∀ j, j ≠ n → sget (fun _ => ({} : RoutineEntry)) t.routines j = sget (fun _ => {}) s.routines j) ∧ t.wgs = s.wgs ∧ t.mem = s.mem) ∧
          (¬may 64 ∨ (headerOk ∧ ¬may len) → exec (.rtcmdLoad m n) s = .next (rtcmd 4)) ∧
          (may 64 → ¬headerOk → exec (.rtcmdLoad m n) s = .next (rtcmd 1)) ∧
          (may 64 → headerOk → may len →
            (Config.hssVerify key signed sig = false → exec (.rtcmdLoad m n) s = .next (rtcmd 2)) ∧
            (Config.hssVerify key signed sig = true → ∃ t, exec (.rtcmdLoad m n) s = .next t ∧ t.rtcmd = 0 ∧ t.mem = s.mem ∧
              sget (fun _ => ({} : RoutineEntry)) t.routines n = { valid := true, id := h.toNat / 2 ^ 32 % 2 ^ 32, ver := h.toNat / 2 ^ 64 % 2 ^ 16, bytes := image })))) ∧
      (n < 2 → ∃ t, exec (.compctlClr m n) s = .next t ∧ { t with compcnt := s.compcnt } = s ∧
        ∀ k, k < 5 → t.compCount n k = 0 ∧ t.compCount (1 - n) k = s.compCount (1 - n) k) ∧
      (∃ t, exec (.ddctlClr m n) s = .next t ∧ dd t ∧ t.dd n = { d with sat := 0, miss := 0 }) ∧
      (d.ctl.getLsbD 0 = true → exec (.ddctlEnable m n) s = .next s) ∧
      (d.ctl.getLsbD 0 = false →
        (¬placed → ∃ t, exec (.ddctlEnable m n) s = .next t ∧ dd t ∧ (t.dd n).ctl = 0x10000000) ∧
        (placed → ¬covers d.pool.toNat → ∃ t, exec (.ddctlEnable m n) s = .next t ∧ dd t ∧ (t.dd n).ctl = 0x20000000) ∧
        (placed → covers d.pool.toNat → ∃ t, exec (.ddctlEnable m n) s = .next t ∧ t.mem = s.mem ∧ t.wgs = s.wgs ∧ (∀ e, e ≠ n → t.dd e = s.dd e) ∧
          (∀ line, if win ≤ line * 128 ∧ line * 128 < win + wlen then (sget (fun _ => ({} : L2Line)) t.l2 line).live = false
            else sget (fun _ => ({} : L2Line)) t.l2 line = sget (fun _ => ({} : L2Line)) s.l2 line) ∧ (t.dd n).ctl = 1 ∧ (t.dd n).free = d.pool ∧ (t.dd n).mapped = 0 ∧
          (∀ line, sget (fun _ => 0) (t.dd n).map line = 0) ∧ (t.dd n).win = d.win ∧ (t.dd n).wlen = d.wlen ∧ (t.dd n).area = d.area) ∧
        exec (.ddctlDisable m n) s = .next s ∧
        ∀ v, ∃ t, exec (.ddpoolWrite m n v) s = .next t ∧ dd t ∧ t.dd n = { d with pool := v.setWidth 32 |>.setWidth 64 }) ∧
      (d.ctl.getLsbD 0 = true →
        (∃ t, exec (.ddctlDisable m n) s = .next t ∧ (t.dd n).ctl = 0 ∧ (t.dd n).mapped = 0 ∧
          ∀ line, win ≤ line * 128 → line * 128 < win + wlen → (sget (fun _ => ({} : L2Line)) t.l2 line).live = false) ∧
        ∀ v : DWord, v.toNat < 2 ^ 32 →
          (v.toNat ≤ d.pool.toNat ∨ ¬covers v.toNat → ∃ t, exec (.ddpoolWrite m n v) s = .next t ∧ dd t ∧ (t.dd n).pool = d.pool ∧ (t.dd n).ctl = 0x20000001) ∧
          (d.pool.toNat < v.toNat → covers v.toNat → ∃ t, exec (.ddpoolWrite m n v) s = .next t ∧ (t.dd n).pool = v ∧ (t.dd n).free = d.free + (v - d.pool) ∧ (t.dd n).ctl = 1)) ∧
      (∃ t, exec (.pcctlClr m n) s = .next t ∧ OnlyDebug s t n ∧ (t.core n).dbg.counters = []) ∧
      (∃ t, exec (.pcctlFreeze m n) s = .next t ∧ OnlyDebug s t n ∧ (t.core n).dbg = { (s.core n).dbg with freeze := true }) ∧
      (∀ v, (s.fleet.locked = true → exec (.pwrlimWrite m v) s = .next s) ∧
        (s.fleet.locked = false → let w := v.toNat % 2 ^ 16
          exec (.pwrlimWrite m v) s = .next { s with fleet := { s.fleet with
            pwrlim := if w = 0 ∨ 1800 < w then 1800 else BitVec.ofNat 32 w, locked := v.getLsbD 31 } })))

/-- R417, R424, R425, R427: a debug command needs its feature open and its target resident, else it gives error 4 or 1. A hold stops a split at its boundary, a resume lets it go on where it was, a step lets it do one instruction; a read gives a register of a held warp or eight bytes of scratchpad, a write changes that and nothing else.
Setting TRCTL.EN zeroes the trace indices, and EN stays 0 while tracing is closed.
That an event whose condition does not hold leaves the state, and the fields that record what
waits, are the model's own (log entry 3). So are the order of a command's checks (29), the PC
that kind 5 names (30), and that a hold waits for the end of a handler (31). -/
def Obligations.DebugCommands : Prop :=
  ∀ (s : State) (m : Master) (core g w n : Nat),
    let d := (s.core core).dbg
    let cmds := [Instr.dbgcmdHold m core, .dbgcmdResume m core, .dbgcmdStep m core, .dbgcmdRead m core, .dbgcmdWrite m core]
    let errs (i : Instr) (e : Nat) : Prop := ∃ t, exec i s = .next t ∧ OnlyDebug s t core ∧ (t.core core).dbg = { d with cmd := BitVec.ofNat 32 (e * 2 ^ 28) }
    let x := s.split g w n
    let held := ∀ i, i < 4 → (s.split g w i).live = true → (s.split g w i).st = .held
    let opens (i : Nat) : Prop := s.fleet.life ≠ .production ∨ s.fleet.features.getLsbD i = true
    (s.owns m = false → (∀ i ∈ cmds, exec i s = .next s) ∧ ∀ v, exec (.trctlWrite m core v) s = .next s) ∧
    (s.owns m = true →
      (¬opens 1 → errs (.dbgcmdHold m core) 4 ∧ errs (.dbgcmdResume m core) 4 ∧ errs (.dbgcmdStep m core) 4) ∧
      (¬opens 2 → errs (.dbgcmdRead m core) 4) ∧ (¬opens 3 → errs (.dbgcmdWrite m core) 4) ∧
      (opens 1 → opens 2 → opens 3 → s.dbgTarget core = none → ∀ i ∈ cmds, errs i 1) ∧
      (∀ v : Word, ∃ t, exec (.trctlWrite m core v) s = .next t ∧ ((∀ port, port < 6 → (s.portSlot core port).due = false) → OnlyDebug s t core) ∧
        (t.core core).dbg.trctl = (if s.fleet.life = .production ∧ s.fleet.features.getLsbD 0 = false then v &&& 0x0F0FFFBC else v &&& 0x8F0FFFBC) ∧
        ((t.core core).dbg.trctl.getLsbD 31 = true → d.trctl.getLsbD 31 = false →
          (t.core core).dbg.trprod = 0 ∧ (t.core core).dbg.trcons = 0 ∧ (t.core core).dbg.trlost = 0)) ∧
      (s.dbgTarget core = some g → (s.wg g).core = core → d.tgt.toNat / 2 ^ 8 % 2 ^ 7 = w → d.tgt.toNat % 4 = n →
        ((s.warp g w).live = false →
          (opens 1 → d.tgt.toNat / 4 % 4 < 2 → errs (.dbgcmdHold m core) 1 ∧ errs (.dbgcmdResume m core) 1) ∧ (opens 1 → errs (.dbgcmdStep m core) 1) ∧
          (d.sel.toNat / 2 ^ 28 < 8 → (opens 2 → errs (.dbgcmdRead m core) 1) ∧ (opens 3 → errs (.dbgcmdWrite m core) 1))) ∧
        (opens 1 → d.tgt.toNat / 4 % 4 = 0 → (s.warp g w).live = true →
          (x.live = false → errs (.dbgcmdHold m core) 2) ∧
          (x.live = true → x.st = .run → x.handler = false → s.traces core (s.wg g).ctx 2 = false →
            ∃ t, exec (.dbgcmdHold m core) s = .next t ∧ (t.core core).dbg.cmd = 0 ∧ (t.split g w n).st = .held ∧ (t.split g w n).before = .run ∧
              (t.split g w n).pc = x.pc ∧ (∀ i, i ≠ n → t.split g w i = s.split g w i) ∧ (∀ v, v ≠ w → t.warp g v = s.warp g v) ∧ t.mem = s.mem) ∧
          (x.live = true → x.st = .held →
            (∃ t, exec (.dbgcmdResume m core) s = .next t ∧ (t.core core).dbg.cmd = 0 ∧ (t.split g w n).st = x.before ∧ (t.split g w n).pc = x.pc ∧ (t.split g w n).holdNext = none) ∧
            (∃ t, exec (.dbgcmdStep m core) s = .next t ∧ (t.core core).dbg.cmd = 0 ∧ (t.split g w n).st = (if x.before = .wait ∧ x.wait = .again then .run else x.before) ∧ (t.split g w n).pass = true ∧ (t.split g w n).holdNext = some 16)) ∧
          (x.live = false ∨ x.st ≠ .held → errs (.dbgcmdStep m core) 2)) ∧
        (opens 1 → d.tgt.toNat / 4 % 4 = 2 → ∃ t, exec (.dbgcmdHold m core) s = .next t ∧ (t.core core).dbg.cmd = 0 ∧
          ∀ v i, i < 4 → (∃ z, (v, z) ∈ (s.wg g).warps) → (s.split g v i).live = true → (t.split g v i).st = .held ∨ (t.split g v i).holdNext ≠ none) ∧
        (opens 1 → d.tgt.toNat / 4 % 4 = 3 → errs (.dbgcmdHold m core) 3 ∧ errs (.dbgcmdResume m core) 3) ∧
        (∀ r, r < 64 → d.sel.toNat = 2 ^ 28 + r → (s.warp g w).live = true →
          (opens 2 → held → ∃ t, exec (.dbgcmdRead m core) s = .next t ∧ OnlyDebug s t core ∧
            (t.core core).dbg = { d with cmd := 0, data := ((s.warp g w).getK r).setWidth 128 }) ∧
          (opens 2 → ¬held → errs (.dbgcmdRead m core) 2) ∧ (opens 3 → ¬held → errs (.dbgcmdWrite m core) 2) ∧
          (opens 3 → held → ∃ t, exec (.dbgcmdWrite m core) s = .next t ∧ (t.core core).dbg = { d with cmd := 0 } ∧ (t.warp g w).getK r = d.data.extractLsb' 0 32 ∧
            (∀ j, j ≠ r → (t.warp g w).getK j = (s.warp g w).getK j) ∧ (t.warp g w).v = (s.warp g w).v ∧ (∀ v, v ≠ w → t.warp g v = s.warp g v) ∧ t.mem = s.mem)) ∧
        (d.sel.toNat / 2 ^ 28 = 8 →
          let off := d.addr.toNat
          (off % 8 = 0 ∧ off + 8 ≤ (s.wg g).userBytes →
            (opens 2 → ∃ t, exec (.dbgcmdRead m core) s = .next t ∧ OnlyDebug s t core ∧
              (t.core core).dbg = { d with cmd := 0, data := BitVec.ofNat 128 (ofBytes ((s.core core).spRead ((s.wg g).user + off) 8)) }) ∧
            (opens 3 → ∃ t, exec (.dbgcmdWrite m core) s = .next t ∧ t.wgs = s.wgs ∧ ∀ a, (t.core core).sp a =
              if (s.wg g).user + off ≤ a ∧ a < (s.wg g).user + off + 8 then d.data.extractLsb' (8 * (a - ((s.wg g).user + off))) 8 else (s.core core).sp a)) ∧
          (¬(off % 8 = 0 ∧ off + 8 ≤ (s.wg g).userBytes) → (opens 2 → errs (.dbgcmdRead m core) 3) ∧ (opens 3 → errs (.dbgcmdWrite m core) 3)))))

/-- R429 to R447: who owns the headgate and how it changes hands; recovery, reports, keys and permits with their results; a reset puts the device into its reset state with HBM as it was; the clock throttles, thermal shutdown stops the device,
errors are counted, strike the workgroup whose state they meet, or poison a line. The order of the keys in the signature index is the model's choice (log entry 73); so are what
a measurement, a random number and a signature are (free functions, log entry 6), and the error of a recovery image that does not lie in host memory (log entry 24).
That an event whose condition does not hold leaves the state, and the fields that record what
waits, are the model's own (log entry 3). So are what a reset keeps (23), the order of a
permit's checks (25), that a lost path advances the epoch (26), the record of a strike (27), the
rounding of throttled clocks (28) and when time passes (4). -/
def Obligations.FleetOperation : Prop :=
  ∀ (s : State) (m o : Master),
    let f := s.fleet
    let fleet (i : Instr) (h : Fleet) : Prop := exec i s = .next { s with fleet := h }
    let gives (h : Fleet) (r : Nat) : Fleet := { h with results := sset (fun _ => 0) h.results (match m with | .host => 0 | .bmc => 1 | .fabric => 2) (BitVec.ofNat 32 r) }
    (f.recovery = 0 →
      (f.owner = none ∨ f.pendTo = some m → fleet (.hgcmdClaim m) (gives { f with owner := some m, pendTo := none, epoch := f.epoch + 1 } 0)) ∧
      (f.owner ≠ none → f.pendTo ≠ some m → fleet (.hgcmdClaim m) (gives f 1)) ∧
      (f.owner = some m → fleet (.hgcmdRelease m) (gives { f with owner := none, pendTo := none, epoch := f.epoch + 1 } 0)) ∧
      (f.owner ≠ some m → fleet (.hgcmdRelease m) (gives f 2) ∧ fleet (.hgcmdHandOver m o) (gives f 2)) ∧
      (f.owner = some m → fleet (.hgcmdHandOver m o) (if o = m then gives f 3 else gives { f with pendTo := some o } 0)) ∧
      (∀ ix v, (ix < 8 → fleet (.hgmboxWrite m ix v) { f with mbox := sset (fun _ => 0) f.mbox ix v, mboxSrc := BitVec.ofNat 32 (2 ^ 31 + match m with | .host => 0 | .bmc => 1 | .fabric => 2) }) ∧
        (8 ≤ ix → exec (.hgmboxWrite m ix v) s = .next s))) ∧
    (f.recovery ≠ 0 → ∀ i ∈ [Instr.hgcmdClaim m, .hgcmdRelease m, .hgcmdHandOver m o, .attcmdReport m], exec i s = .next s) ∧
    (f.owner = some m → fleet (.ownerPathLoss m) { f with owner := none, pendTo := none, epoch := f.epoch + 1 }) ∧
    (f.owner ≠ some m → exec (.ownerPathLoss m) s = .next s) ∧
    (∃ t, exec .deviceReset s = .next t ∧ t.wgs = [] ∧ t.cores = [] ∧ t.l2 = [] ∧ t.queues = [] ∧ t.ctxs = [] ∧ t.fleet.owner = State.reset.fleet.owner ∧ t.fleet.epoch = 0 ∧ t.fleet.keys = [] ∧
      t.fleet.life = f.life ∧ t.fleet.signatures = f.reserved ∧ t.time = 0 ∧ (∀ pa, isHbm pa = true → t.memByte pa = s.memByte pa) ∧
      (∀ pa, isCistern pa = true ∨ isWindow pa = true → t.memByte pa = 0) ∧
      (t.fleet.recovery = 0 ↔ bootCheck f.flash f.floor = 0) ∧ (t.fleet.recovery = 0 → t.fleet.svn = fwSvn f.flash)) ∧
    (let a := f.rcvAddr.toNat
     let n := f.rcvLen.toNat
     let img := s.homeRead none a n
     (m ≠ .host ∨ f.recovery = 0 → exec (.rcvcmdVerifyWrite m) s = .next s) ∧
     (f.recovery ≠ 0 → ¬(isHost a = true ∧ isHost (a + (n - 1)) = true) → fleet (.rcvcmdVerifyWrite .host) { f with rcvCmd := 0x50000000 }) ∧
     (f.recovery ≠ 0 → isHost a = true → isHost (a + (n - 1)) = true →
       (bootCheck img f.floor ≠ 0 → fleet (.rcvcmdVerifyWrite .host) { f with rcvCmd := BitVec.ofNat 32 (bootCheck img f.floor * 2 ^ 28) }) ∧
       (bootCheck img f.floor = 0 → exec (.rcvcmdVerifyWrite .host) s = exec .deviceReset { s with fleet := { f with flash := img ++ f.flash.drop n } }))) ∧
    (let a := f.attAddr.toNat
     f.recovery = 0 →
      (a % 64 ≠ 0 ∨ Config.hbmBytes < a + 3540 ∨ s.meetsArea a 3540 = true → fleet (.attcmdReport m) { f with attCmd := 0x10000000 }) ∧
      (a % 64 = 0 → a + 3540 ≤ Config.hbmBytes → s.meetsArea a 3540 = false → s.NoWindows →
        ∃ t, exec (.attcmdReport m) s = .next t ∧ s.HomeHas t a (s.report ++ toBytes 3284 (Config.hssSign f.signatures s.report).toNat) ∧
          t.fleet = { f with attCmd := 0, signatures := f.signatures + 1, reserved := if f.signatures < f.reserved then f.reserved else f.signatures + 1024 })) ∧
    (s.report.length = 256 ∧ (s.report.drop 160).take 32 = toBytes 32 f.attNonce.toNat) ∧
    (∀ slot v, s.owns m = false → f.permit = none →
      ∀ i ∈ [Instr.keycmdLoad m slot, .keycmdClear m slot, .pmtcmdNewNonce m, .pmtcmdApply m, .pmtcmdAdvance m, .pwrlimWrite m v], exec i s = .next s) ∧
    (f.pmtCmd.getLsbD 31 = true → ∀ slot, exec (.keycmdLoad m slot) s = .next s ∧ exec (.keycmdClear m slot) s = .next s ∧ exec (.pmtcmdNewNonce m) s = .next s) ∧
    (s.owns m = true → f.pmtCmd.getLsbD 31 = false → f.permit = none →
      (∀ slot, slot < 16 → let a := f.keyAddr.toNat
        fleet (.keycmdClear m slot) { f with keyCmd := 0, keys := sset (fun _ => none) f.keys slot none } ∧
        (a % 64 ≠ 0 ∨ Config.hbmBytes < a + 64 ∨ s.meetsArea a 64 = true → fleet (.keycmdLoad m slot) { f with keyCmd := 0x10000000 }) ∧
        (a % 64 = 0 → a + 64 ≤ Config.hbmBytes → s.meetsArea a 64 = false → s.NoWindows → ∃ t, exec (.keycmdLoad m slot) s = .next t ∧ s.HomeHas t a (List.replicate 64 0) ∧ t.fleet.keyCmd = 0 ∧
          sget (fun _ => none) t.fleet.keys slot = some (BitVec.ofNat 512 (ofBytes (s.rawRead a 64))) ∧
          ∀ k, k ≠ slot → sget (fun _ => none) t.fleet.keys k = sget (fun _ => none) f.keys k)) ∧
      fleet (.pmtcmdNewNonce m) { f with pmtNonce := some (Config.random f.drawn), drawn := f.drawn + 1, pmtCmd := 0 } ∧
      (let a := f.pmtAddr.toNat
       let h : BitVec 512 := BitVec.ofNat 512 (ofBytes (s.rawRead a 64))
       let used (e : Nat) : Fleet := { f with pmtNonce := none, pmtCmd := BitVec.ofNat 32 (e * 2 ^ 28) }
       let inPlace := a % 64 = 0 ∧ a + 3348 ≤ Config.hbmBytes ∧ s.meetsArea a 3348 = false
       let header := h.toNat % 2 ^ 32 = 0x17E51 ∧ (∀ b, (34 ≤ b ∧ b < 40) ∨ (45 ≤ b ∧ b < 128) → h.getLsbD b = false) ∧ h.extractLsb' 128 128 = Config.devuid
       let grants := h.toNat / 2 ^ 32 % 4 = 1 ∧ h.toNat / 2 ^ 40 % 16 ≠ 0
       f.life = .production →
        (¬inPlace → fleet (.pmtcmdApply m) (used 5)) ∧
        (inPlace → ¬header → fleet (.pmtcmdApply m) (used 2)) ∧
        (inPlace → header → f.pmtNonce ≠ some (h.extractLsb' 256 256) → fleet (.pmtcmdApply m) (used 1)) ∧
        (inPlace → header → f.pmtNonce = some (h.extractLsb' 256 256) → ¬grants → fleet (.pmtcmdApply m) (used 2)) ∧
        (inPlace → header → f.pmtNonce = some (h.extractLsb' 256 256) → grants →
          let signed := Config.hssVerify f.permitKey (toBytes 64 h.toNat) (s.rawRead (a + 64) 3284)
          (signed = false → fleet (.pmtcmdApply m) (used 3)) ∧
          (signed = true → (∃ c ∈ s.ctxs, c.2.created = true) → fleet (.pmtcmdApply m) (used 4)) ∧
          (signed = true → (∀ c ∈ s.ctxs, c.2.created = false) → s.l2 = [] →
            (∃ t, exec (.pmtcmdApply m) s = .next t ∧ t.fleet.pmtCmd = 0 ∧ t.fleet.pmtNonce = none ∧ t.fleet.features = (f.features ||| h.extractLsb' 40 4) ∧ t.fleet.keys = [] ∧
              t.fleet.life = .production ∧ (∀ core a, (t.core core).sp a = 0) ∧ ∀ core e, (t.core core).entry e = 0) ∧
            (h.getLsbD 44 = true → ∃ t, exec (.pmtcmdAdvance m) s = .next t ∧ t.fleet.life = .returned ∧ t.fleet.pmtCmd = 0 ∧ t.fleet.keys = []) ∧
            (h.getLsbD 44 = false → fleet (.pmtcmdAdvance m) (used 2))))) ∧
      (f.life = .returned → fleet (.pmtcmdAdvance m) { f with pmtCmd := 0x20000000 }) ∧
      (f.life = .develop → ∃ t, exec (.pmtcmdAdvance m) s = .next t ∧ t.fleet = { f with life := .production, pmtCmd := 0 })) ∧
    (∀ power temp mhz, (f.pwrlim.toNat < power → exec (.clockThrottle power temp mhz) s = .next s) ∧ (power ≤ f.pwrlim.toNat → fleet (.clockThrottle power temp mhz)
      { f with pwrnow := BitVec.ofNat 32 power, tempmax := BitVec.ofNat 32 temp, clknow := BitVec.ofNat 32 (min mhz 1500) })) ∧
    (∃ t, exec .thermalShutdown s = .next t ∧ t.fleet = { f with stopped := true } ∧ t.wgs = s.wgs ∧
      ((s.ctxs.map (·.1)).Nodup → ∀ ctx, (s.ctx ctx).created = false → t.ctx ctx = s.ctx ctx) ∧
      ((∀ c ∈ s.ctxs, c.2.created = false) → t.mem = s.mem ∧ t.l2 = s.l2) ∧
      (∀ ctx c, s.ctxs = [(ctx, c)] → c.created = true → c.pending = [] → (c.rprod - c.rcons).toNat < 2 ^ (c.ringSize + 6) →
        let place := c.ring + 64 * (c.rprod.toNat % 2 ^ (c.ringSize + 6))
        let r : TrapRec := { code := 0xA0, kind := 3, addr := 0, data := 0xF, time := s.time, ctx := ctx }
        place + 64 ≤ Config.hbmBytes → s.meetsArea place 64 = false → s.NoWindows → s.HomeHas t place (toBytes 64 (r.bits c.rprod.toNat)) ∧ (t.ctx ctx).rprod = c.rprod + 1)) ∧
    (∀ code, (code < 7 ∨ (8 ≤ code ∧ code < 11) → fleet (.correctedError code)
        { f with corrected := sset (fun _ => 0) f.corrected code (sget (fun _ => 0) f.corrected code + 1) }) ∧
      (code = 7 ∨ 11 ≤ code → exec (.correctedError code) s = .next s)) ∧
    (∀ line, let struck (i : ErrorSite) (code : Nat) : Prop := ∃ t, exec (.uncorrectableDataError i) s = .next t ∧ t.mem = s.mem ∧ t.l2 = s.l2 ∧ t.cores = s.cores ∧ t.wgs = s.wgs ∧
        (∀ k, (∃ c, (k, c) ∈ t.poison) ↔ k = line ∨ ∃ c, (k, c) ∈ s.poison) ∧ ((∀ c, (line, c) ∉ s.poison) → (line, code) ∈ t.poison)
      struck (.l2 line) 1 ∧ struck (.l1 line) 2 ∧ struck (.flit line) 8 ∧ (isHbm (line * 128) = true → struck (.hbm line) 0)) ∧
    (∀ g n, (s.wg g).live = true → ∃ t, exec (.uncorrectableDataError (.registers g n)) s = .next t ∧ (∀ w, (s.warp g w).live = true → (t.warp g w).exited = true)) ∧
    (let left := { f with stations := f.stations - 1 }
     fleet (.uncorrectableDataError (.control 10))
      (if f.stations - 1 = 0 ∧ f.owner = some .fabric then { left with owner := none, pendTo := none, epoch := f.epoch + 1 } else left)) ∧
    fleet (.uncorrectableDataError (.control 9)) { f with stopped := true }

/-! ## Encoding, the step, reset, invariants -/

/-- R143 to R152: every well-formed instruction, with every operand and modifier that its encoding admits, is what the decoder reads from its own words and carrier.
Which operands a register group asks to be aligned (log entry 15) and which sources take NEG and
ABS (39) are the model's readings, part of well-formed. -/
def Obligations.DecodeEncode : Prop :=
  ∀ (cx : DecodeCtx) (i : Instr), i.wellFormed cx = true → decode cx (encode i) i.carrier = .ok i

/-- R143, R146 to R151, R160: slots written out from the spec's encodings decode to the instructions that they stand for: an FFMA with an immediate, an FMUL with a trailing literal, a LOOP, a backward BRA, a BAR.SYNC, an LD, a TCOPY, the MMA that the spec encodes after R294, a WRESUME and an undefined opcode. -/
def Obligations.DecodeWords : Prop :=
  let slot (w2 w1 w0 : Word) : Slot := w2 ++ w1 ++ w0
  let epi : DecodeCtx := { role := .epi, width := 32, regs := 64, inHandler := false, level := 3, transl := false, barriers := 8, flumes := List.replicate 16 none, shapes := List.replicate 8 false }
  let p7 : Guard := { gfile := false, idx := 7, neg := false }
  decode epi (slot 0x60D01000 0x00400009 0x3F000000) none = .ok (.ffma { g := { p7 with idx := 2 }, d := 4, a := .v 1 false false, b := .v 2 false false, c := .imm 0x3F000 } {}) ∧
  decode epi (slot 0x60B81400 0x013C0000 0) (some (slot 0 0 0x40490FDB)) = .ok (.fmul { g := p7, d := 5, a := .v 4 false false, b := .trail 0 0x40490FDB, c := .none } {}) ∧
  decode epi (slot 0x60B81400 0x013C0000 0) none = .err (.operand 2) ∧
  decode epi (slot 0x02380040 0x01500008 0x00001000) none = .ok (.loop { g := p7, d := 0, a := .k 5 false false, b := .imm 9, c := .none }) ∧
  decode epi (slot 0x007801FF 0xFF800000 0x00001000) none = .ok (.bra { g := p7, d := 0, a := .imm 0xFFFF9, b := .none, c := .none }) ∧
  decode epi (slot 0x04F800C0 0x08000000 0) none = .ok (.barSync { g := p7, d := 0, a := .obj 0x20 false, b := .none, c := .none }) ∧
  decode epi (slot 0xA0382000 0x01100010 0x00000C00) none = .ok (.ld { g := p7, d := 8, a := .v 4 false false, b := .imm 16, c := .none } .b128 .global) ∧
  decode { epi with role := .maths, width := 0 } (slot 0xE0780880 0x00040050 0x40020611) none =
    .ok (.mma { g := p7, d := 2, a := .m 0, b := .k 20 false false, c := .k 8 false false, cs := true } { q := 3, more := true }) ∧
  decode epi (slot 0xE0780880 0x00040050 0x40020611) none = .err .role ∧
  decode epi (slot 0xFFF80000 0 0) none = .ok (.illegalOpcode (slot 0xFFF80000 0 0)) ∧
  decode { epi with role := .copy, width := 16 } (slot 0xC0382A20 0x10040040 0x100) none =
    .ok (.tcopy { g := p7, d := 10, a := .bank 2 0x40, b := .k 16 false false, c := .none } { n := true }) ∧
  decode epi (slot 0xC0382A20 0x10040040 0x100) none = .err .role ∧
  decode epi (slot 0x1CB80040 0x00500000 0) none = .err .privilege ∧
  decode { epi with inHandler := true } (slot 0x1CB80040 0x00500000 0) none = .ok (.wresume { g := p7, d := 0, a := .k 1 false false, b := .imm 0, c := .none })

/-- R139, R140, R153, R371: when the step is an issue and the line of the picked split, which it holds or reads as published, decodes at its PC to an instruction that waits for no result, the step is that instruction's meaning in that state, with the counters, the scoreboard and the split's age kept beside it;
an agent's event, time, and the acts of the agenda are their own meanings (the agenda is the model's, log entry 2). After each, waits whose condition holds are over, stops take place and FENCE counters are read; where none is due, nothing follows. A stopped device does nothing but reset.
Time passes as the agenda says (4), fetches walk within their act (9), and the scoreboard (12),
pairs (13), the order of the checks at issue (34), the slots charged (35) and the lines passed
over (33) are the model's readings. -/
def Obligations.StepRunsDecoded : Prop :=
  ∀ (s : State) (rest : List Action),
    let now : State := { s with tick := s.tick + 1 }
    let s0 : State := { now with agenda := rest }
    let goes (t : State) : Prop := step s = .next (now.settleAll t)
    (∀ t : State, (∀ p ∈ t.wgs, ∀ q ∈ p.2.warps, ∀ r ∈ q.2.splits, r.2.stopRec = none ∧ r.2.st ≠ .wait) → (∀ q ∈ t.queues, q.2.fwait = false) → t.noted = [] → s.settleAll t = t) ∧
    (s.fleet.stopped = true →
      (∀ a, s.agenda = a :: rest → a ≠ .event .deviceReset → goes s0) ∧ ∀ t, s.agenda = .event .deviceReset :: rest → exec .deviceReset s0 = .next t → goes t) ∧
    (s.fleet.stopped = false →
    (∀ i t, s.agenda = .event i :: rest → isAgentEvent i = true → exec i s0 = .next t → goes t) ∧
    (∀ ns, s.agenda = .elapse ns :: rest → ∃ t, goes t ∧ t.time = s.time + BitVec.ofNat 64 ns ∧ t.wgs = s.wgs ∧ t.mem = s.mem) ∧
    (∀ m off n, s.agenda = .registerRead m off n :: rest → goes (s0.registerRead m off n)) ∧
    (∀ lanes, s.agenda = .delay lanes :: rest → goes { s0 with lag := lanes }) ∧
    (∀ core ix l, s.agenda = .perform core ix :: rest → (s.core core).late = [l] → ix = 0 →
      goes (((s0.crossLanes core false [l.place]).updCore core fun c => { c with late := [] }).writePlace core l.wg l.place l.bytes)) ∧
    (∀ core ix, s.agenda = .routine core ix :: rest → goes (s0.routineStep core ix)) ∧
    (∀ core ix word, s.agenda = .engineRead core ix word :: rest → goes (s0.readEarly core ix word)) ∧
    (∀ core line, let arrives (which : Behind → Prop) : Prop := ∃ t, goes t ∧ t.mem = s.mem ∧ t.l2 = s.l2 ∧ t.wgs = s.wgs ∧ (∀ b ∈ t.behind, b ∈ s.behind ∧ ¬which b) ∧
        ∀ pre b post, s.behind = pre ++ b :: post → (∀ e ∈ b :: post, which e → ¬(e.die = b.die ∧ e.addr = b.addr)) → b ∈ t.behind
      (s.agenda = .reach core :: rest → arrives fun b => b.core = core) ∧
      (s.agenda = .reachLine core line :: rest → arrives fun b => b.core = core ∧ b.addr / 128 = line) ∧
      (s.agenda = .engineHold core line :: rest → isCached (line * 128) = true → ∃ t, goes t ∧ t.wgs = s.wgs ∧ t.mem = s.mem ∧ t.l2 = s.l2 ∧ (∀ c, c ≠ core → t.core c = s.core c) ∧
        ∀ key q, t.engineSees core key q = if q / 128 = line then s.homeByte key q else s.engineSees core key q)) ∧
    (∀ core port g w n, s.agenda = .pick core port :: rest → s0.pick core port = some (g, w, n) →
      let x := s.split g w n
      let sx : State := { s0 with cur := { wg := g, warp := w, split := n, prio := s0.effPrio g w n } }
      let sy := sx.updCur fun y => { y with pc := x.pc, seq := false }
      x.seq = false → PC.named x.pc = true → ∀ s1 l,
        (x.line = some (PC.line x.pc, l) ∧ s1 = sx) ∨
          ((∀ l', x.line ≠ some (PC.line x.pc, l')) ∧ ∃ u attr pa, sy.translateNow sy.curWg.ctx (PC.line x.pc) .fetch = (u, .ok pa attr) ∧
            l = BitVec.ofNat 512 (ofBytes ((List.range 64).map fun i => u.homeByte attr.key (pa + i))) ∧
            s1 = (u.cross attr.compress (pa / 128) (u.slicePlain (pa / 128))).updCur fun y => { y with line := some (PC.line x.pc, l) }) →
        (∀ j < 8, Line.stripe l j = l.getLsbD j) → Line.illegal l = false → Line.lit l (PC.slot x.pc) = false →
        (s1.curSplit.replay = true ∨ s1.breakpointsAt g w n = []) → s1.curSplit.pc = x.pc → s1.curSplit.seq = false → s1.curSplit.st = .run →
        ∀ i, decode (s1.decodeCtx g w n) (Line.slot l (PC.slot x.pc)) (Line.carrier l (PC.slot x.pc)) = .ok i → s1.nextConflicts g w n = [] →
          (endChecked i = false ∨ s1.curSplit.defer = [] ∨ ∀ r, s1.curSplit.loops.head? = some r → r.endsAt x.pc = false) → s1.cur = sx.cur →
          (∀ t, exec i s1 = .next t → goes (s1.issued i t)) ∧
          ∀ t, (∀ p, (t.portSlot s1.curWg.core p).due = false) → (s1.curSplit.holdNext ≠ some 16 ∨ (t.split g w n).st ≠ .wait) → let u := s1.issued i t
            u.mem = t.mem ∧ u.l2 = t.l2 ∧ u.ctxs = t.ctxs ∧ (∀ a v, (u.warp a v).k = (t.warp a v).k ∧ (u.warp a v).v = (t.warp a v).v ∧ (u.warp a v).p = (t.warp a v).p ∧
              (u.warp a v).kp = (t.warp a v).kp ∧ (u.warp a v).flags = (t.warp a v).flags) ∧
            ∀ a v m, (u.split a v m).pc = (t.split a v m).pc ∧ (u.split a v m).st = (t.split a v m).st ∧ (u.split a v m).mask = (t.split a v m).mask))

/-- R7, R357, R404, R429, R430, R435, R439, R447: what reset leaves: memory is in its canonical form; no context is created, no queue enabled, nothing is resident, nothing waits; the headgate has no owner; the firmware runs (the model's choice, log entry 7); QCFG, COMPCTL, PWRLIM and the routine table read as the spec says. -/
def Obligations.ResetState : Prop :=
  let s := State.reset
  Mem.wf s.mem = true ∧ s.wgs = [] ∧ s.clusters = [] ∧ s.saved = [] ∧ s.grids = [] ∧ s.walks = [] ∧ s.l2 = [] ∧
  (∀ c, (s.ctx c).created = false ∧ (s.ctx c).rprod = 0 ∧ (s.ctx c).rcons = 0) ∧
  (∀ q, (s.queue q).cfg = 0x100 ∧ (s.queue q).enabled = false ∧ (s.queue q).stop = false ∧ (s.queue q).wptr = 0 ∧ (s.queue q).rptr = 0) ∧
  (∀ die, s.compCtl die = 0xF) ∧ (∀ die, (s.dd die).ctl = 0) ∧
  (∀ n, (sget (fun _ => ({} : RoutineEntry)) s.routines n).valid = decide (n = 0)) ∧
  s.fleet.owner = none ∧ s.fleet.epoch = 0 ∧ s.fleet.recovery = 0 ∧ s.fleet.pwrlim = 1800 ∧ s.fleet.locked = false ∧ s.fleet.features = 0 ∧ s.fleet.stopped = false ∧
  (∀ core, (s.core core).dbg.trctl = 0 ∧ (s.core core).dbg.freeze = false ∧ (s.core core).chain = none ∧ (s.core core).cmds = [])

/-- R52, R56, R61: every step keeps memory in its canonical form, whatever state it starts from. -/
def Obligations.StepKeepsMemoryCanonical : Prop :=
  ∀ (s t : State), Mem.wf s.mem = true → step s = .next t → Mem.wf t.mem = true

/-- R5: no instruction, event or step ends the run: each has a next state in every state. -/
def Obligations.EveryStepAnswersNext : Prop :=
  (∀ (i : Instr) (s : State), ∃ t, exec i s = .next t) ∧ ∀ (s : State), ∃ t, step s = .next t
end

