-- ==== Sys2Proof/Laws/Dispatch.lean ====
section
/-! SUPPORT. Each arm of `exec`, as an equation: later proofs rewrite with these and never unfold `exec`. -/
namespace Sys2Proof.Machine

@[simp] theorem exec_nop (o : Args) (s : State) : exec (.nop o) s = execNop o s := rfl
@[simp] theorem exec_bra (o : Args) (s : State) : exec (.bra o) s = execBra o s := rfl
@[simp] theorem exec_brx (o : Args) (s : State) : exec (.brx o) s = execBrx o s := rfl
@[simp] theorem exec_call (o : Args) (klink : Bool) (s : State) : exec (.call o klink) s = execCall o klink s := rfl
@[simp] theorem exec_callx (o : Args) (klink : Bool) (s : State) : exec (.callx o klink) s = execCallx o klink s := rfl
@[simp] theorem exec_ret (o : Args) (s : State) : exec (.ret o) s = execRet o s := rfl
@[simp] theorem exec_exit (o : Args) (s : State) : exec (.exit o) s = execExit o s := rfl
@[simp] theorem exec_join (o : Args) (s : State) : exec (.join o) s = execJoin o s := rfl
@[simp] theorem exec_loop (o : Args) (s : State) : exec (.loop o) s = execLoop o s := rfl
@[simp] theorem exec_brk (o : Args) (s : State) : exec (.brk o) s = execBrk o s := rfl
@[simp] theorem exec_yield (o : Args) (kind : WaitKind) (s : State) : exec (.yield o kind) s = execYield o kind s := rfl
@[simp] theorem exec_wait (o : Args) (kind : WaitKind) (s : State) : exec (.wait o kind) s = execWait o kind s := rfl
@[simp] theorem exec_elect (o : Args) (s : State) : exec (.elect o) s = execElect o s := rfl
@[simp] theorem exec_poll (o : Args) (mode : PollMode) (s : State) : exec (.poll o mode) s = execPoll o mode s := rfl
@[simp] theorem exec_trap (o : Args) (s : State) : exec (.trap o) s = execTrap o s := rfl
@[simp] theorem exec_trapfence (o : Args) (s : State) : exec (.trapfence o) s = execTrapfence o s := rfl
@[simp] theorem exec_barInit (o : Args) (scope : BarScope) (s : State) : exec (.barInit o scope) s = execBarInit o scope s := rfl
@[simp] theorem exec_barArrive (o : Args) (s : State) : exec (.barArrive o) s = execBarArrive o s := rfl
@[simp] theorem exec_barWait (o : Args) (s : State) : exec (.barWait o) s = execBarWait o s := rfl
@[simp] theorem exec_barSync (o : Args) (s : State) : exec (.barSync o) s = execBarSync o s := rfl
@[simp] theorem exec_barMask (o : Args) (s : State) : exec (.barMask o) s = execBarMask o s := rfl
@[simp] theorem exec_qinit (o : Args) (s : State) : exec (.qinit o) s = execQinit o s := rfl
@[simp] theorem exec_qpush (o : Args) (s : State) : exec (.qpush o) s = execQpush o s := rfl
@[simp] theorem exec_qpop (o : Args) (s : State) : exec (.qpop o) s = execQpop o s := rfl
@[simp] theorem exec_qtry (o : Args) (kpd : Fin 8) (s : State) : exec (.qtry o kpd) s = execQtry o kpd s := rfl
@[simp] theorem exec_phaseRel (o : Args) (scope : Scope) (s : State) : exec (.phaseRel o scope) s = execPhaseRel o scope s := rfl
@[simp] theorem exec_phaseAcq (o : Args) (scope : Scope) (s : State) : exec (.phaseAcq o scope) s = execPhaseAcq o scope s := rfl
@[simp] theorem exec_fence (o : Args) (scope : Scope) (s : State) : exec (.fence o scope) s = execFence o scope s := rfl
@[simp] theorem exec_tlsig (o : Args) (scope : Scope) (s : State) : exec (.tlsig o scope) s = execTlsig o scope s := rfl
@[simp] theorem exec_tlwait (o : Args) (scope : Scope) (s : State) : exec (.tlwait o scope) s = execTlwait o scope s := rfl
@[simp] theorem exec_s2k (o : Args) (sr : SReg) (vdst : Bool) (s : State) : exec (.s2k o sr vdst) s = execS2k o sr vdst s := rfl
@[simp] theorem exec_k2s (o : Args) (sr : SReg) (s : State) : exec (.k2s o sr) s = execK2s o sr s := rfl
@[simp] theorem exec_setmode (o : Args) (wrnd : Bool) (rnd : RndMode) (wftz : Bool) (ftz : Bool) (wnanp : Bool) (nanp : Bool) (s : State) : exec (.setmode o wrnd rnd wftz ftz wnanp nanp) s = execSetmode o wrnd rnd wftz ftz wnanp nanp s := rfl
@[simp] theorem exec_wstat (o : Args) (s : State) : exec (.wstat o) s = execWstat o s := rfl
@[simp] theorem exec_wregR (o : Args) (s : State) : exec (.wregR o) s = execWregR o s := rfl
@[simp] theorem exec_wregW (o : Args) (s : State) : exec (.wregW o) s = execWregW o s := rfl
@[simp] theorem exec_wresume (o : Args) (s : State) : exec (.wresume o) s = execWresume o s := rfl
@[simp] theorem exec_wkill (o : Args) (s : State) : exec (.wkill o) s = execWkill o s := rfl
@[simp] theorem exec_eret (o : Args) (s : State) : exec (.eret o) s = execEret o s := rfl
@[simp] theorem exec_tlbinvPage (o : Args) (s : State) : exec (.tlbinvPage o) s = execTlbinvPage o s := rfl
@[simp] theorem exec_tlbinvAll (o : Args) (s : State) : exec (.tlbinvAll o) s = execTlbinvAll o s := rfl
@[simp] theorem exec_emuargs (o : Args) (s : State) : exec (.emuargs o) s = execEmuargs o s := rfl
@[simp] theorem exec_emuargsW (o : Args) (s : State) : exec (.emuargsW o) s = execEmuargsW o s := rfl
@[simp] theorem exec_kadd (o : Args) (s : State) : exec (.kadd o) s = execKadd o s := rfl
@[simp] theorem exec_kadd64 (o : Args) (s : State) : exec (.kadd64 o) s = execKadd64 o s := rfl
@[simp] theorem exec_ksub (o : Args) (s : State) : exec (.ksub o) s = execKsub o s := rfl
@[simp] theorem exec_ksub64 (o : Args) (s : State) : exec (.ksub64 o) s = execKsub64 o s := rfl
@[simp] theorem exec_kmul (o : Args) (s : State) : exec (.kmul o) s = execKmul o s := rfl
@[simp] theorem exec_kmul64 (o : Args) (s : State) : exec (.kmul64 o) s = execKmul64 o s := rfl
@[simp] theorem exec_kmulh (o : Args) (u : Bool) (s : State) : exec (.kmulh o u) s = execKmulh o u s := rfl
@[simp] theorem exec_kmulh64 (o : Args) (u : Bool) (s : State) : exec (.kmulh64 o u) s = execKmulh64 o u s := rfl
@[simp] theorem exec_kmad (o : Args) (s : State) : exec (.kmad o) s = execKmad o s := rfl
@[simp] theorem exec_kmad64 (o : Args) (s : State) : exec (.kmad64 o) s = execKmad64 o s := rfl
@[simp] theorem exec_kshl (o : Args) (s : State) : exec (.kshl o) s = execKshl o s := rfl
@[simp] theorem exec_kshl64 (o : Args) (s : State) : exec (.kshl64 o) s = execKshl64 o s := rfl
@[simp] theorem exec_kshr (o : Args) (s : State) : exec (.kshr o) s = execKshr o s := rfl
@[simp] theorem exec_kshr64 (o : Args) (s : State) : exec (.kshr64 o) s = execKshr64 o s := rfl
@[simp] theorem exec_ksar (o : Args) (s : State) : exec (.ksar o) s = execKsar o s := rfl
@[simp] theorem exec_ksar64 (o : Args) (s : State) : exec (.ksar64 o) s = execKsar64 o s := rfl
@[simp] theorem exec_kand (o : Args) (s : State) : exec (.kand o) s = execKand o s := rfl
@[simp] theorem exec_kand64 (o : Args) (s : State) : exec (.kand64 o) s = execKand64 o s := rfl
@[simp] theorem exec_kor (o : Args) (s : State) : exec (.kor o) s = execKor o s := rfl
@[simp] theorem exec_kor64 (o : Args) (s : State) : exec (.kor64 o) s = execKor64 o s := rfl
@[simp] theorem exec_kxor (o : Args) (s : State) : exec (.kxor o) s = execKxor o s := rfl
@[simp] theorem exec_kxor64 (o : Args) (s : State) : exec (.kxor64 o) s = execKxor64 o s := rfl
@[simp] theorem exec_kmin (o : Args) (u : Bool) (s : State) : exec (.kmin o u) s = execKmin o u s := rfl
@[simp] theorem exec_kmin64 (o : Args) (u : Bool) (s : State) : exec (.kmin64 o u) s = execKmin64 o u s := rfl
@[simp] theorem exec_kmax (o : Args) (u : Bool) (s : State) : exec (.kmax o u) s = execKmax o u s := rfl
@[simp] theorem exec_kmax64 (o : Args) (u : Bool) (s : State) : exec (.kmax64 o u) s = execKmax64 o u s := rfl
@[simp] theorem exec_ksel (o : Args) (s : State) : exec (.ksel o) s = execKsel o s := rfl
@[simp] theorem exec_ksel64 (o : Args) (s : State) : exec (.ksel64 o) s = execKsel64 o s := rfl
@[simp] theorem exec_kmov (o : Args) (s : State) : exec (.kmov o) s = execKmov o s := rfl
@[simp] theorem exec_kmov64 (o : Args) (s : State) : exec (.kmov64 o) s = execKmov64 o s := rfl
@[simp] theorem exec_kcmp (o : Args) (u : Bool) (cond : Cond) (s : State) : exec (.kcmp o u cond) s = execKcmp o u cond s := rfl
@[simp] theorem exec_kcmp64 (o : Args) (u : Bool) (cond : Cond) (s : State) : exec (.kcmp64 o u cond) s = execKcmp64 o u cond s := rfl
@[simp] theorem exec_kclz (o : Args) (s : State) : exec (.kclz o) s = execKclz o s := rfl
@[simp] theorem exec_kclz64 (o : Args) (s : State) : exec (.kclz64 o) s = execKclz64 o s := rfl
@[simp] theorem exec_kpopc (o : Args) (s : State) : exec (.kpopc o) s = execKpopc o s := rfl
@[simp] theorem exec_kpopc64 (o : Args) (s : State) : exec (.kpopc64 o) s = execKpopc64 o s := rfl
@[simp] theorem exec_kbfe (o : Args) (sgn : Bool) (s : State) : exec (.kbfe o sgn) s = execKbfe o sgn s := rfl
@[simp] theorem exec_kbfe64 (o : Args) (sgn : Bool) (s : State) : exec (.kbfe64 o sgn) s = execKbfe64 o sgn s := rfl
@[simp] theorem exec_kbfi (o : Args) (s : State) : exec (.kbfi o) s = execKbfi o s := rfl
@[simp] theorem exec_kbfi64 (o : Args) (s : State) : exec (.kbfi64 o) s = execKbfi64 o s := rfl
@[simp] theorem exec_kldGlobal (o : Args) (w64 : Bool) (s : State) : exec (.kldGlobal o w64) s = execKldGlobal o w64 s := rfl
@[simp] theorem exec_kldBank (o : Args) (w64 : Bool) (s : State) : exec (.kldBank o w64) s = execKldBank o w64 s := rfl
@[simp] theorem exec_iadd (o : Args) (u : Bool) (sat : Bool) (s : State) : exec (.iadd o u sat) s = execIadd o u sat s := rfl
@[simp] theorem exec_isub (o : Args) (u : Bool) (sat : Bool) (s : State) : exec (.isub o u sat) s = execIsub o u sat s := rfl
@[simp] theorem exec_imul (o : Args) (u : Bool) (sat : Bool) (s : State) : exec (.imul o u sat) s = execImul o u sat s := rfl
@[simp] theorem exec_imulh (o : Args) (u : Bool) (s : State) : exec (.imulh o u) s = execImulh o u s := rfl
@[simp] theorem exec_imad (o : Args) (u : Bool) (sat : Bool) (s : State) : exec (.imad o u sat) s = execImad o u sat s := rfl
@[simp] theorem exec_imadw (o : Args) (u : Bool) (sat : Bool) (s : State) : exec (.imadw o u sat) s = execImadw o u sat s := rfl
@[simp] theorem exec_ishl (o : Args) (s : State) : exec (.ishl o) s = execIshl o s := rfl
@[simp] theorem exec_ishr (o : Args) (s : State) : exec (.ishr o) s = execIshr o s := rfl
@[simp] theorem exec_isar (o : Args) (s : State) : exec (.isar o) s = execIsar o s := rfl
@[simp] theorem exec_land (o : Args) (s : State) : exec (.land o) s = execLand o s := rfl
@[simp] theorem exec_lor (o : Args) (s : State) : exec (.lor o) s = execLor o s := rfl
@[simp] theorem exec_lxor (o : Args) (s : State) : exec (.lxor o) s = execLxor o s := rfl
@[simp] theorem exec_lnot (o : Args) (s : State) : exec (.lnot o) s = execLnot o s := rfl
@[simp] theorem exec_imin (o : Args) (u : Bool) (s : State) : exec (.imin o u) s = execImin o u s := rfl
@[simp] theorem exec_imax (o : Args) (u : Bool) (s : State) : exec (.imax o u) s = execImax o u s := rfl
@[simp] theorem exec_iabs (o : Args) (sat : Bool) (s : State) : exec (.iabs o sat) s = execIabs o sat s := rfl
@[simp] theorem exec_isel (o : Args) (s : State) : exec (.isel o) s = execIsel o s := rfl
@[simp] theorem exec_icmp (o : Args) (u : Bool) (cond : Cond) (s : State) : exec (.icmp o u cond) s = execIcmp o u cond s := rfl
@[simp] theorem exec_ibfe (o : Args) (sgn : Bool) (s : State) : exec (.ibfe o sgn) s = execIbfe o sgn s := rfl
@[simp] theorem exec_ibfi (o : Args) (s : State) : exec (.ibfi o) s = execIbfi o s := rfl
@[simp] theorem exec_ipopc (o : Args) (s : State) : exec (.ipopc o) s = execIpopc o s := rfl
@[simp] theorem exec_iclz (o : Args) (s : State) : exec (.iclz o) s = execIclz o s := rfl
@[simp] theorem exec_ibrev (o : Args) (s : State) : exec (.ibrev o) s = execIbrev o s := rfl
@[simp] theorem exec_bpick (o : Args) (s : State) : exec (.bpick o) s = execBpick o s := rfl
@[simp] theorem exec_idp4 (o : Args) (ua : Bool) (ub : Bool) (sat : Bool) (s : State) : exec (.idp4 o ua ub sat) s = execIdp4 o ua ub sat s := rfl
@[simp] theorem exec_idp2 (o : Args) (hi : Bool) (ua : Bool) (ub : Bool) (sat : Bool) (s : State) : exec (.idp2 o hi ua ub sat) s = execIdp2 o hi ua ub sat s := rfl
@[simp] theorem exec_imov (o : Args) (s : State) : exec (.imov o) s = execImov o s := rfl
@[simp] theorem exec_fadd (o : Args) (r : RMod) (s : State) : exec (.fadd o r) s = execFadd o r s := rfl
@[simp] theorem exec_fsub (o : Args) (r : RMod) (s : State) : exec (.fsub o r) s = execFsub o r s := rfl
@[simp] theorem exec_fmul (o : Args) (r : RMod) (s : State) : exec (.fmul o r) s = execFmul o r s := rfl
@[simp] theorem exec_ffma (o : Args) (r : RMod) (s : State) : exec (.ffma o r) s = execFfma o r s := rfl
@[simp] theorem exec_fmin (o : Args) (nanp : Bool) (ftz : Bool) (s : State) : exec (.fmin o nanp ftz) s = execFmin o nanp ftz s := rfl
@[simp] theorem exec_fmax (o : Args) (nanp : Bool) (ftz : Bool) (s : State) : exec (.fmax o nanp ftz) s = execFmax o nanp ftz s := rfl
@[simp] theorem exec_fcmp (o : Args) (cond : FCond) (ftz : Bool) (s : State) : exec (.fcmp o cond ftz) s = execFcmp o cond ftz s := rfl
@[simp] theorem exec_fclass (o : Args) (s : State) : exec (.fclass o) s = execFclass o s := rfl
@[simp] theorem exec_frnd (o : Args) (nanp : Bool) (ftz : Bool) (rnd : RndSel) (s : State) : exec (.frnd o nanp ftz rnd) s = execFrnd o nanp ftz rnd s := rfl
@[simp] theorem exec_hadd2 (o : Args) (bf : Bool) (r : RMod) (s : State) : exec (.hadd2 o bf r) s = execHadd2 o bf r s := rfl
@[simp] theorem exec_hfma2 (o : Args) (bf : Bool) (r : RMod) (s : State) : exec (.hfma2 o bf r) s = execHfma2 o bf r s := rfl
@[simp] theorem exec_fdot2 (o : Args) (bf : Bool) (r : RMod) (s : State) : exec (.fdot2 o bf r) s = execFdot2 o bf r s := rfl
@[simp] theorem exec_cvt (o : Args) (r : RMod) (sel : CvtSel) (s : State) : exec (.cvt o r sel) s = execCvt o r sel s := rfl
@[simp] theorem exec_bfpack (o : Args) (m : BfpWidth) (sat : Bool) (ftz : Bool) (rnd : RndSel) (s : State) : exec (.bfpack o m sat ftz rnd) s = execBfpack o m sat ftz rnd s := rfl
@[simp] theorem exec_bfunpack (o : Args) (m : BfpWidth) (sat : Bool) (rnd : RndSel) (s : State) : exec (.bfunpack o m sat rnd) s = execBfunpack o m sat rnd s := rfl
@[simp] theorem exec_rcp (o : Args) (r : RMod) (s : State) : exec (.rcp o r) s = execRcp o r s := rfl
@[simp] theorem exec_rsq (o : Args) (r : RMod) (s : State) : exec (.rsq o r) s = execRsq o r s := rfl
@[simp] theorem exec_sqrt (o : Args) (r : RMod) (s : State) : exec (.sqrt o r) s = execSqrt o r s := rfl
@[simp] theorem exec_ex2 (o : Args) (r : RMod) (s : State) : exec (.ex2 o r) s = execEx2 o r s := rfl
@[simp] theorem exec_lg2 (o : Args) (r : RMod) (s : State) : exec (.lg2 o r) s = execLg2 o r s := rfl
@[simp] theorem exec_sin (o : Args) (r : RMod) (s : State) : exec (.sin o r) s = execSin o r s := rfl
@[simp] theorem exec_cos (o : Args) (r : RMod) (s : State) : exec (.cos o r) s = execCos o r s := rfl
@[simp] theorem exec_tanh (o : Args) (r : RMod) (s : State) : exec (.tanh o r) s = execTanh o r s := rfl
@[simp] theorem exec_xlane (o : Args) (pd : Fin 8) (seg : Fin 8) (mode : XMode) (s : State) : exec (.xlane o pd seg mode) s = execXlane o pd seg mode s := rfl
@[simp] theorem exec_qswap (o : Args) (pd : Fin 8) (mode : QMode) (s : State) : exec (.qswap o pd mode) s = execQswap o pd mode s := rfl
@[simp] theorem exec_scan (o : Args) (red : RedMod) (s : State) : exec (.scan o red) s = execScan o red s := rfl
@[simp] theorem exec_wred (o : Args) (red : RedMod) (s : State) : exec (.wred o red) s = execWred o red s := rfl
@[simp] theorem exec_segscan (o : Args) (red : RedMod) (s : State) : exec (.segscan o red) s = execSegscan o red s := rfl
@[simp] theorem exec_segred (o : Args) (red : RedMod) (s : State) : exec (.segred o red) s = execSegred o red s := rfl
@[simp] theorem exec_lpeerLead (o : Args) (w64 : Bool) (s : State) : exec (.lpeerLead o w64) s = execLpeerLead o w64 s := rfl
@[simp] theorem exec_lpeerRank (o : Args) (w64 : Bool) (s : State) : exec (.lpeerRank o w64) s = execLpeerRank o w64 s := rfl
@[simp] theorem exec_nstat (o : Args) (nanp : Bool) (ftz : Bool) (rnd : RndSel) (s : State) : exec (.nstat o nanp ftz rnd) s = execNstat o nanp ftz rnd s := rfl
@[simp] theorem exec_napply (o : Args) (sh : Fin 8) (r : RMod) (s : State) : exec (.napply o sh r) s = execNapply o sh r s := rfl
@[simp] theorem exec_smaxstep (o : Args) (sh : Fin 8) (nanp : Bool) (ftz : Bool) (rnd : RndSel) (s : State) : exec (.smaxstep o sh nanp ftz rnd) s = execSmaxstep o sh nanp ftz rnd s := rfl
@[simp] theorem exec_ld (o : Args) (size : LdSize) (space : LsSpace) (s : State) : exec (.ld o size space) s = execLd o size space s := rfl
@[simp] theorem exec_ldCluster (o : Args) (size : LdSize) (s : State) : exec (.ldCluster o size) s = execLdCluster o size s := rfl
@[simp] theorem exec_st (o : Args) (size : StSize) (space : LsSpace) (s : State) : exec (.st o size space) s = execSt o size space s := rfl
@[simp] theorem exec_stCluster (o : Args) (size : StSize) (s : State) : exec (.stCluster o size) s = execStCluster o size s := rfl
@[simp] theorem exec_ldc (o : Args) (size : LdcSize) (s : State) : exec (.ldc o size) s = execLdc o size s := rfl
@[simp] theorem exec_lda (o : Args) (view : View) (fol : Bool) (s : State) : exec (.lda o view fol) s = execLda o view fol s := rfl
@[simp] theorem exec_sta (o : Args) (view : View) (fol : Bool) (s : State) : exec (.sta o view fol) s = execSta o view fol s := rfl
@[simp] theorem exec_atom (o : Args) (scope : Scope) (space : AtomSpace) (sel : AtomSel) (s : State) : exec (.atom o scope space sel) s = execAtom o scope space sel s := rfl
@[simp] theorem exec_atomRed (o : Args) (scope : Scope) (space : AtomSpace) (sel : AtomSel) (s : State) : exec (.atomRed o scope space sel) s = execAtomRed o scope space sel s := rfl
@[simp] theorem exec_ldseq (o : Args) (size : SeqSize) (nocross : Bool) (space : SeqSpace) (s : State) : exec (.ldseq o size nocross space) s = execLdseq o size nocross space s := rfl
@[simp] theorem exec_prefetch (o : Args) (lvl : PfLevel) (space : CacheSpace) (s : State) : exec (.prefetch o lvl space) s = execPrefetch o lvl space s := rfl
@[simp] theorem exec_cctlEvict (o : Args) (space : CacheSpace) (s : State) : exec (.cctlEvict o space) s = execCctlEvict o space s := rfl
@[simp] theorem exec_cctlEvictall (o : Args) (s : State) : exec (.cctlEvictall o) s = execCctlEvictall o s := rfl
@[simp] theorem exec_tcopy (o : Args) (m : CmdMods) (s : State) : exec (.tcopy o m) s = execTcopy o m s := rfl
@[simp] theorem exec_tstore (o : Args) (m : CmdMods) (s : State) : exec (.tstore o m) s = execTstore o m s := rfl
@[simp] theorem exec_tgather (o : Args) (gm : GatherMode) (sh : Bool) (n : Bool) (s : State) : exec (.tgather o gm sh n) s = execTgather o gm sh n s := rfl
@[simp] theorem exec_tscatter (o : Args) (gm : GatherMode) (sh : Bool) (n : Bool) (s : State) : exec (.tscatter o gm sh n) s = execTscatter o gm sh n s := rfl
@[simp] theorem exec_txform (o : Args) (n : Bool) (s : State) : exec (.txform o n) s = execTxform o n s := rfl
@[simp] theorem exec_tfill (o : Args) (n : Bool) (s : State) : exec (.tfill o n) s = execTfill o n s := rfl
@[simp] theorem exec_tfillTb (o : Args) (s : State) : exec (.tfillTb o) s = execTfillTb o s := rfl
@[simp] theorem exec_tfillTbinv (o : Args) (s : State) : exec (.tfillTbinv o) s = execTfillTbinv o s := rfl
@[simp] theorem exec_tcoll (o : Args) (op : CollOp) (root : Bool) (n : Bool) (s : State) : exec (.tcoll o op root n) s = execTcoll o op root n s := rfl
@[simp] theorem exec_tcancel (o : Args) (s : State) : exec (.tcancel o) s = execTcancel o s := rfl
@[simp] theorem exec_shld (o : Args) (space : SeqSpace) (s : State) : exec (.shld o space) s = execShld o space s := rfl
@[simp] theorem exec_shsync (o : Args) (s : State) : exec (.shsync o) s = execShsync o s := rfl
@[simp] theorem exec_shinfo (o : Args) (bnd : ShKind) (s : State) : exec (.shinfo o bnd) s = execShinfo o bnd s := rfl
@[simp] theorem exec_mld (o : Args) (q : Fin 8) (map : MapMode) (s : State) : exec (.mld o q map) s = execMld o q map s := rfl
@[simp] theorem exec_mma (o : Args) (m : ArrayMods) (s : State) : exec (.mma o m) s = execMma o m s := rfl
@[simp] theorem exec_mmai (o : Args) (m : ArrayMods) (s : State) : exec (.mmai o m) s = execMmai o m s := rfl
@[simp] theorem exec_mmab (o : Args) (m : ArrayMods) (s : State) : exec (.mmab o m) s = execMmab o m s := rfl
@[simp] theorem exec_mdrain (o : Args) (stall : Bool) (s : State) : exec (.mdrain o stall) s = execMdrain o stall s := rfl
@[simp] theorem exec_mzero (o : Args) (p : Bool) (s : State) : exec (.mzero o p) s = execMzero o p s := rfl
@[simp] theorem exec_mpromoI2P (o : Args) (p : Bool) (s : State) : exec (.mpromoI2P o p) s = execMpromoI2P o p s := rfl
@[simp] theorem exec_mpromoP2I (o : Args) (p : Bool) (s : State) : exec (.mpromoP2I o p) s = execMpromoP2I o p s := rfl
@[simp] theorem exec_mcfg (o : Args) (s : State) : exec (.mcfg o) s = execMcfg o s := rfl
@[simp] theorem exec_mstat (o : Args) (s : State) : exec (.mstat o) s = execMstat o s := rfl
@[simp] theorem exec_mrel (o : Args) (tb : Bool) (s : State) : exec (.mrel o tb) s = execMrel o tb s := rfl
@[simp] theorem exec_syncw (raw : RawSlot) (s : State) : exec (.syncw raw) s = execSyncw raw s := rfl
@[simp] theorem exec_imad24 (raw : RawSlot) (s : State) : exec (.imad24 raw) s = execImad24 raw s := rfl
@[simp] theorem exec_fmad16 (raw : RawSlot) (s : State) : exec (.fmad16 raw) s = execFmad16 raw s := rfl
@[simp] theorem exec_loge (raw : RawSlot) (s : State) : exec (.loge raw) s = execLoge raw s := rfl
@[simp] theorem exec_ldv (raw : RawSlot) (s : State) : exec (.ldv raw) s = execLdv raw s := rfl
@[simp] theorem exec_mma4 (raw : RawSlot) (s : State) : exec (.mma4 raw) s = execMma4 raw s := rfl
@[simp] theorem exec_illegalOpcode (words : Slot) (s : State) : exec (.illegalOpcode words) s = execIllegalOpcode words s := rfl
@[simp] theorem exec_issueSlot (core port : Nat) (s : State) : exec (.issueSlot core port) s = execIssueSlot core port s := rfl
@[simp] theorem exec_engineGlobalWrite (engine : EngineRef) (s : State) : exec (.engineGlobalWrite engine) s = execEngineGlobalWrite engine s := rfl
@[simp] theorem exec_clusterBarrierConversion (cluster bar : Nat) (s : State) : exec (.clusterBarrierConversion cluster bar) s = execClusterBarrierConversion cluster bar s := rfl
@[simp] theorem exec_joinRelease (wg warp : Nat) (s : State) : exec (.joinRelease wg warp) s = execJoinRelease wg warp s := rfl
@[simp] theorem exec_agingStep (wg warp split : Nat) (s : State) : exec (.agingStep wg warp split) s = execAgingStep wg warp split s := rfl
@[simp] theorem exec_lineFetchComplete (wg warp split : Nat) (s : State) : exec (.lineFetchComplete wg warp split) s = execLineFetchComplete wg warp split s := rfl
@[simp] theorem exec_resultDelivery (wg warp : Nat) (reg : PendReg) (s : State) : exec (.resultDelivery wg warp reg) s = execResultDelivery wg warp reg s := rfl
@[simp] theorem exec_waitWake (wg warp split : Nat) (s : State) : exec (.waitWake wg warp split) s = execWaitWake wg warp split s := rfl
@[simp] theorem exec_flumeWaiterServed (wg flume : Nat) (s : State) : exec (.flumeWaiterServed wg flume) s = execFlumeWaiterServed wg flume s := rfl
@[simp] theorem exec_tlwaitWake (wg warp split : Nat) (s : State) : exec (.tlwaitWake wg warp split) s = execTlwaitWake wg warp split s := rfl
@[simp] theorem exec_copyQueueRoom (core : Nat) (s : State) : exec (.copyQueueRoom core) s = execCopyQueueRoom core s := rfl
@[simp] theorem exec_releaseCompletion (core ix : Nat) (s : State) : exec (.releaseCompletion core ix) s = execReleaseCompletion core ix s := rfl
@[simp] theorem exec_l1Eviction (core line : Nat) (s : State) : exec (.l1Eviction core line) s = execL1Eviction core line s := rfl
@[simp] theorem exec_pageWalkComplete (ix : Nat) (s : State) : exec (.pageWalkComplete ix) s = execPageWalkComplete ix s := rfl
@[simp] theorem exec_tlbInvalidationComplete (ix : Nat) (s : State) : exec (.tlbInvalidationComplete ix) s = execTlbInvalidationComplete ix s := rfl
@[simp] theorem exec_arrayGrant (core : Nat) (s : State) : exec (.arrayGrant core) s = execArrayGrant core s := rfl
@[simp] theorem exec_arrayClock (core : Nat) (s : State) : exec (.arrayClock core) s = execArrayClock core s := rfl
@[simp] theorem exec_arrayRetire (core : Nat) (s : State) : exec (.arrayRetire core) s = execArrayRetire core s := rfl
@[simp] theorem exec_commandArrival (core ix : Nat) (s : State) : exec (.commandArrival core ix) s = execCommandArrival core ix s := rfl
@[simp] theorem exec_sectorWrite (core ix : Nat) (s : State) : exec (.sectorWrite core ix) s = execSectorWrite core ix s := rfl
@[simp] theorem exec_commandCompletion (core ix : Nat) (s : State) : exec (.commandCompletion core ix) s = execCommandCompletion core ix s := rfl
@[simp] theorem exec_collectiveCompletion (cluster : Nat) (s : State) : exec (.collectiveCompletion cluster) s = execCollectiveCompletion cluster s := rfl
@[simp] theorem exec_sourceFill (core ix n : Nat) (s : State) : exec (.sourceFill core ix n) s = execSourceFill core ix n s := rfl
@[simp] theorem exec_routineInrel (core ix n : Nat) (s : State) : exec (.routineInrel core ix n) s = execRoutineInrel core ix n s := rfl
@[simp] theorem exec_routineInwait (core ix n : Nat) (s : State) : exec (.routineInwait core ix n) s = execRoutineInwait core ix n s := rfl
@[simp] theorem exec_routineOutcommit (core ix n : Nat) (bytes : List Byte) (s : State) : exec (.routineOutcommit core ix n bytes) s = execRoutineOutcommit core ix n bytes s := rfl
@[simp] theorem exec_routineDone (core ix : Nat) (status : Word) (s : State) : exec (.routineDone core ix status) s = execRoutineDone core ix status s := rfl
@[simp] theorem exec_routineFault (core ix : Nat) (pc : DWord) (s : State) : exec (.routineFault core ix pc) s = execRoutineFault core ix pc s := rfl
@[simp] theorem exec_routineBudgetExpiry (core ix : Nat) (pc : DWord) (s : State) : exec (.routineBudgetExpiry core ix pc) s = execRoutineBudgetExpiry core ix pc s := rfl
@[simp] theorem exec_handlerEntry (wg : Nat) (s : State) : exec (.handlerEntry wg) s = execHandlerEntry wg s := rfl
@[simp] theorem exec_trapRingRecordWrite (ctx : Nat) (s : State) : exec (.trapRingRecordWrite ctx) s = execTrapRingRecordWrite ctx s := rfl
@[simp] theorem exec_breakpointMatch (wg warp split : Nat) (s : State) : exec (.breakpointMatch wg warp split) s = execBreakpointMatch wg warp split s := rfl
@[simp] theorem exec_clusterExitBarrier (cluster : Nat) (s : State) : exec (.clusterExitBarrier cluster) s = execClusterExitBarrier cluster s := rfl
@[simp] theorem exec_clusterAdmission (cores : List Nat) (s : State) : exec (.clusterAdmission cores) s = execClusterAdmission cores s := rfl
@[simp] theorem exec_preemption (cluster : Nat) (s : State) : exec (.preemption cluster) s = execPreemption cluster s := rfl
@[simp] theorem exec_readmissionLimitExpiry (cluster : Nat) (s : State) : exec (.readmissionLimitExpiry cluster) s = execReadmissionLimitExpiry cluster s := rfl
@[simp] theorem exec_contextSave (cluster : Nat) (s : State) : exec (.contextSave cluster) s = execContextSave cluster s := rfl
@[simp] theorem exec_contextRestore (image : Nat) (cores : List Nat) (s : State) : exec (.contextRestore image cores) s = execContextRestore image cores s := rfl
@[simp] theorem exec_pktNop (q : Nat) (s : State) : exec (.pktNop q) s = execPktNop q s := rfl
@[simp] theorem exec_pktLaunch (q : Nat) (s : State) : exec (.pktLaunch q) s = execPktLaunch q s := rfl
@[simp] theorem exec_pktFence (q : Nat) (s : State) : exec (.pktFence q) s = execPktFence q s := rfl
@[simp] theorem exec_pktSignal (q : Nat) (s : State) : exec (.pktSignal q) s = execPktSignal q s := rfl
@[simp] theorem exec_pktFlush (q : Nat) (s : State) : exec (.pktFlush q) s = execPktFlush q s := rfl
@[simp] theorem exec_pktHostcopy (q : Nat) (s : State) : exec (.pktHostcopy q) s = execPktHostcopy q s := rfl
@[simp] theorem exec_pktPrio (q : Nat) (s : State) : exec (.pktPrio q) s = execPktPrio q s := rfl
@[simp] theorem exec_fenceCounterRead (q entry : Nat) (s : State) : exec (.fenceCounterRead q entry) s = execFenceCounterRead q entry s := rfl
@[simp] theorem exec_fencePollTimer (q entry : Nat) (s : State) : exec (.fencePollTimer q entry) s = execFencePollTimer q entry s := rfl
@[simp] theorem exec_signalAtomic (q : Nat) (s : State) : exec (.signalAtomic q) s = execSignalAtomic q s := rfl
@[simp] theorem exec_packetCompletion (q n : Nat) (s : State) : exec (.packetCompletion q n) s = execPacketCompletion q n s := rfl
@[simp] theorem exec_doorbell (master : Master) (q : Nat) (v : Word) (page : Nat) (s : State) : exec (.doorbell master q v page) s = execDoorbell master q v page s := rfl
@[simp] theorem exec_ctxCreate (master : Master) (ctx : Nat) (s : State) : exec (.ctxCreate master ctx) s = execCtxCreate master ctx s := rfl
@[simp] theorem exec_registerWrite (master : Master) (off width : Nat) (v : DWord) (s : State) : exec (.registerWrite master off width v) s = execRegisterWrite master off width v s := rfl
@[simp] theorem exec_hostHbmAccess (off n : Nat) (w : Option (List Byte)) (s : State) : exec (.hostHbmAccess off n w) s = execHostHbmAccess off n w s := rfl
@[simp] theorem exec_qcfgWrite (master : Master) (q : Nat) (v : Word) (s : State) : exec (.qcfgWrite master q v) s = execQcfgWrite master q v s := rfl
@[simp] theorem exec_qstatStopClear (master : Master) (q : Nat) (v : Word) (s : State) : exec (.qstatStopClear master q v) s = execQstatStopClear master q v s := rfl
@[simp] theorem exec_ctxDestroy (master : Master) (ctx : Nat) (s : State) : exec (.ctxDestroy master ctx) s = execCtxDestroy master ctx s := rfl
@[simp] theorem exec_ctxSuspend (master : Master) (ctx : Nat) (s : State) : exec (.ctxSuspend master ctx) s = execCtxSuspend master ctx s := rfl
@[simp] theorem exec_ctxResume (master : Master) (ctx : Nat) (s : State) : exec (.ctxResume master ctx) s = execCtxResume master ctx s := rfl
@[simp] theorem exec_tlbcmdPage (master : Master) (ctx : Nat) (s : State) : exec (.tlbcmdPage master ctx) s = execTlbcmdPage master ctx s := rfl
@[simp] theorem exec_tlbcmdAll (master : Master) (ctx : Nat) (s : State) : exec (.tlbcmdAll master ctx) s = execTlbcmdAll master ctx s := rfl
@[simp] theorem exec_rconsWrite (master : Master) (ctx : Nat) (v : Word) (s : State) : exec (.rconsWrite master ctx v) s = execRconsWrite master ctx v s := rfl
@[simp] theorem exec_wgcmdRelease (master : Master) (ctx : Nat) (s : State) : exec (.wgcmdRelease master ctx) s = execWgcmdRelease master ctx s := rfl
@[simp] theorem exec_wgcmdKill (master : Master) (ctx : Nat) (s : State) : exec (.wgcmdKill master ctx) s = execWgcmdKill master ctx s := rfl
@[simp] theorem exec_wgcmdResumeCommand (master : Master) (ctx : Nat) (s : State) : exec (.wgcmdResumeCommand master ctx) s = execWgcmdResumeCommand master ctx s := rfl
@[simp] theorem exec_wgcmdCancelCommand (master : Master) (ctx : Nat) (s : State) : exec (.wgcmdCancelCommand master ctx) s = execWgcmdCancelCommand master ctx s := rfl
@[simp] theorem exec_rtcmdLoad (master : Master) (index : Nat) (s : State) : exec (.rtcmdLoad master index) s = execRtcmdLoad master index s := rfl
@[simp] theorem exec_rtcmdUnload (master : Master) (index : Nat) (s : State) : exec (.rtcmdUnload master index) s = execRtcmdUnload master index s := rfl
@[simp] theorem exec_compctlClr (master : Master) (die : Nat) (s : State) : exec (.compctlClr master die) s = execCompctlClr master die s := rfl
@[simp] theorem exec_ddctlEnable (master : Master) (die : Nat) (s : State) : exec (.ddctlEnable master die) s = execDdctlEnable master die s := rfl
@[simp] theorem exec_ddctlDisable (master : Master) (die : Nat) (s : State) : exec (.ddctlDisable master die) s = execDdctlDisable master die s := rfl
@[simp] theorem exec_ddctlClr (master : Master) (die : Nat) (s : State) : exec (.ddctlClr master die) s = execDdctlClr master die s := rfl
@[simp] theorem exec_ddpoolWrite (master : Master) (die : Nat) (v : DWord) (s : State) : exec (.ddpoolWrite master die v) s = execDdpoolWrite master die v s := rfl
@[simp] theorem exec_l2Writeback (line : Nat) (s : State) : exec (.l2Writeback line) s = execL2Writeback line s := rfl
@[simp] theorem exec_heldWritebackRetry (line : Nat) (s : State) : exec (.heldWritebackRetry line) s = execHeldWritebackRetry line s := rfl
@[simp] theorem exec_pcctlClr (master : Master) (core : Nat) (s : State) : exec (.pcctlClr master core) s = execPcctlClr master core s := rfl
@[simp] theorem exec_pcctlFreeze (master : Master) (core : Nat) (s : State) : exec (.pcctlFreeze master core) s = execPcctlFreeze master core s := rfl
@[simp] theorem exec_dbgcmdHold (master : Master) (core : Nat) (s : State) : exec (.dbgcmdHold master core) s = execDbgcmdHold master core s := rfl
@[simp] theorem exec_dbgcmdResume (master : Master) (core : Nat) (s : State) : exec (.dbgcmdResume master core) s = execDbgcmdResume master core s := rfl
@[simp] theorem exec_dbgcmdStep (master : Master) (core : Nat) (s : State) : exec (.dbgcmdStep master core) s = execDbgcmdStep master core s := rfl
@[simp] theorem exec_dbgcmdRead (master : Master) (core : Nat) (s : State) : exec (.dbgcmdRead master core) s = execDbgcmdRead master core s := rfl
@[simp] theorem exec_dbgcmdWrite (master : Master) (core : Nat) (s : State) : exec (.dbgcmdWrite master core) s = execDbgcmdWrite master core s := rfl
@[simp] theorem exec_trctlWrite (master : Master) (core : Nat) (v : Word) (s : State) : exec (.trctlWrite master core v) s = execTrctlWrite master core v s := rfl
@[simp] theorem exec_traceSample (core port : Nat) (s : State) : exec (.traceSample core port) s = execTraceSample core port s := rfl
@[simp] theorem exec_hgcmdClaim (master : Master) (s : State) : exec (.hgcmdClaim master) s = execHgcmdClaim master s := rfl
@[simp] theorem exec_hgcmdRelease (master : Master) (s : State) : exec (.hgcmdRelease master) s = execHgcmdRelease master s := rfl
@[simp] theorem exec_hgcmdHandOver (master target : Master) (s : State) : exec (.hgcmdHandOver master target) s = execHgcmdHandOver master target s := rfl
@[simp] theorem exec_hgmboxWrite (master : Master) (ix : Nat) (v : Word) (s : State) : exec (.hgmboxWrite master ix v) s = execHgmboxWrite master ix v s := rfl
@[simp] theorem exec_ownerPathLoss (master : Master) (s : State) : exec (.ownerPathLoss master) s = execOwnerPathLoss master s := rfl
@[simp] theorem exec_deviceReset (s : State) : exec (.deviceReset) s = execDeviceReset s := rfl
@[simp] theorem exec_rcvcmdVerifyWrite (master : Master) (s : State) : exec (.rcvcmdVerifyWrite master) s = execRcvcmdVerifyWrite master s := rfl
@[simp] theorem exec_attcmdReport (master : Master) (s : State) : exec (.attcmdReport master) s = execAttcmdReport master s := rfl
@[simp] theorem exec_keycmdLoad (master : Master) (slot : Nat) (s : State) : exec (.keycmdLoad master slot) s = execKeycmdLoad master slot s := rfl
@[simp] theorem exec_keycmdClear (master : Master) (slot : Nat) (s : State) : exec (.keycmdClear master slot) s = execKeycmdClear master slot s := rfl
@[simp] theorem exec_pmtcmdNewNonce (master : Master) (s : State) : exec (.pmtcmdNewNonce master) s = execPmtcmdNewNonce master s := rfl
@[simp] theorem exec_pmtcmdApply (master : Master) (s : State) : exec (.pmtcmdApply master) s = execPmtcmdApply master s := rfl
@[simp] theorem exec_pmtcmdAdvance (master : Master) (s : State) : exec (.pmtcmdAdvance master) s = execPmtcmdAdvance master s := rfl
@[simp] theorem exec_pwrlimWrite (master : Master) (v : Word) (s : State) : exec (.pwrlimWrite master v) s = execPwrlimWrite master v s := rfl
@[simp] theorem exec_clockThrottle (power temp mhz : Nat) (s : State) : exec (.clockThrottle power temp mhz) s = execClockThrottle power temp mhz s := rfl
@[simp] theorem exec_thermalShutdown (s : State) : exec (.thermalShutdown) s = execThermalShutdown s := rfl
@[simp] theorem exec_correctedError (code : Nat) (s : State) : exec (.correctedError code) s = execCorrectedError code s := rfl
@[simp] theorem exec_uncorrectableDataError (at_ : ErrorSite) (s : State) : exec (.uncorrectableDataError at_) s = execUncorrectableDataError at_ s := rfl
@[simp] theorem exec_hostWindowAccess (off n : Nat) (w : Option (List Byte)) (s : State) : exec (.hostWindowAccess off n w) s = execHostWindowAccess off n w s := rfl
@[simp] theorem exec_peerAccess (addr n : Nat) (act : PeerAct) (s : State) : exec (.peerAccess addr n act) s = execPeerAccess addr n act s := rfl

end Sys2Proof.Machine
end

