-- ==== Sys2Proof/Laws/Sparse.lean ====
section
/-! SUPPORT. What reading after writing gives, and that writing keeps the canonical form. -/
namespace Sys2Proof.Machine

theorem sget_serase_same {α : Type} (d : Nat → α) (m : Sparse α) (k : Nat) : sget d (serase m k) k = d k := by
  induction m with
  | nil => rfl
  | cons p r ih =>
    obtain ⟨a, x⟩ := p
    by_cases h : a = k
    · simp [serase, h, ih]
    · simp [serase, h, sget, ih]

theorem sget_serase_other {α : Type} (d : Nat → α) (m : Sparse α) (k j : Nat) (h : j ≠ k) :
    sget d (serase m k) j = sget d m j := by
  induction m with
  | nil => rfl
  | cons p r ih =>
    obtain ⟨a, x⟩ := p
    by_cases h1 : a = k
    · have : a ≠ j := fun e => h (e ▸ h1)
      simp [serase, h1, ih, sget, Ne.symm h]
    · by_cases h2 : a = j <;> simp [serase, h1, sget, h2, ih, h]

theorem sget_sinsert_same {α : Type} (d : Nat → α) (m : Sparse α) (k : Nat) (x : α) (h : sget (fun _ => none) (m.map fun p => (p.1, some p.2)) k = none) :
    sget d (sinsert m k x) k = x := by
  induction m with
  | nil => simp [sinsert, sget]
  | cons p r ih =>
    obtain ⟨a, y⟩ := p
    by_cases h1 : a = k
    · simp [sget, h1] at h
    · simp only [List.map_cons, sget, h1, if_false] at h
      by_cases h2 : k < a <;> simp [sinsert, h2, sget, h1, ih h]

theorem sget_sinsert_other {α : Type} (d : Nat → α) (m : Sparse α) (k j : Nat) (x : α) (h : j ≠ k) :
    sget d (sinsert m k x) j = sget d m j := by
  induction m with
  | nil => simp [sinsert, sget, Ne.symm h]
  | cons p r ih =>
    obtain ⟨a, y⟩ := p
    by_cases h2 : k < a
    · simp [sinsert, h2, sget, Ne.symm h]
    · by_cases h1 : a = j
      · subst h1; simp [sinsert, h2, sget]
      · simp [sinsert, h2, sget, h1, ih]

theorem serase_absent {α : Type} (m : Sparse α) (k : Nat) :
    sget (fun _ => none) ((serase m k).map fun p => (p.1, some p.2)) k = none := by
  induction m with
  | nil => rfl
  | cons p r ih =>
    obtain ⟨a, x⟩ := p
    by_cases h : a = k
    · simp [serase, h, ih]
    · simp [serase, h, sget, ih]

/-- Reading the key that was written. -/
@[simp] theorem sget_sset_same {α : Type} [DecidableEq α] (d : Nat → α) (m : Sparse α) (k : Nat) (x : α) :
    sget d (sset d m k x) k = x := by
  unfold sset
  split
  · rename_i h; rw [sget_serase_same, h]
  · exact sget_sinsert_same d _ k x (serase_absent m k)

/-- Reading another key. -/
theorem sget_sset_other {α : Type} [DecidableEq α] (d : Nat → α) (m : Sparse α) (k j : Nat) (x : α) (h : j ≠ k) :
    sget d (sset d m k x) j = sget d m j := by
  unfold sset
  split
  · exact sget_serase_other d m k j h
  · rw [sget_sinsert_other d _ k j x h, sget_serase_other d m k j h]

/-- Reading any key after a write. -/
theorem sget_sset {α : Type} [DecidableEq α] (d : Nat → α) (m : Sparse α) (k j : Nat) (x : α) :
    sget d (sset d m k x) j = if j = k then x else sget d m j := by
  by_cases h : j = k
  · simp [h]
  · simp [h, sget_sset_other d m k j x h]

theorem swfFrom_mono {α : Type} [DecidableEq α] (d : Nat → α) (m : Sparse α) (lo hi : Nat) (h : lo ≤ hi)
    (w : swfFrom d hi m = true) : swfFrom d lo m = true := by
  cases m with
  | nil => rfl
  | cons p r =>
    obtain ⟨a, x⟩ := p
    simp only [swfFrom, Bool.and_eq_true, decide_eq_true_eq, bne_iff_ne, ne_eq] at w ⊢
    exact ⟨⟨by omega, w.1.2⟩, w.2⟩

theorem swfFrom_serase {α : Type} [DecidableEq α] (d : Nat → α) (m : Sparse α) (lo k : Nat)
    (w : swfFrom d lo m = true) : swfFrom d lo (serase m k) = true := by
  induction m generalizing lo with
  | nil => rfl
  | cons p r ih =>
    obtain ⟨a, x⟩ := p
    simp only [swfFrom, Bool.and_eq_true, decide_eq_true_eq, bne_iff_ne, ne_eq] at w
    by_cases h : a = k
    · simp only [serase, h, if_true]
      exact ih lo (swfFrom_mono d r lo (a + 1) (by omega) w.2)
    · simp only [serase, h, if_false, swfFrom, Bool.and_eq_true, decide_eq_true_eq, bne_iff_ne, ne_eq]
      exact ⟨w.1, ih _ w.2⟩

theorem swfFrom_sinsert {α : Type} [DecidableEq α] (d : Nat → α) (m : Sparse α) (lo k : Nat) (x : α)
    (w : swfFrom d lo m = true) (hk : lo ≤ k) (hx : x ≠ d k)
    (hn : sget (fun _ => none) (m.map fun p => (p.1, some p.2)) k = none) :
    swfFrom d lo (sinsert m k x) = true := by
  induction m generalizing lo with
  | nil => simp [sinsert, swfFrom, hk, hx]
  | cons p r ih =>
    obtain ⟨a, y⟩ := p
    have h1 : a ≠ k := by intro e; simp [sget, e] at hn
    simp only [List.map_cons, sget, h1, if_false] at hn
    simp only [swfFrom, Bool.and_eq_true, decide_eq_true_eq, bne_iff_ne, ne_eq] at w
    by_cases h2 : k < a
    · simp only [sinsert, h2, if_true, swfFrom, Bool.and_eq_true, decide_eq_true_eq, bne_iff_ne, ne_eq]
      exact ⟨⟨hk, hx⟩, ⟨by omega, w.1.2⟩, w.2⟩
    · simp only [sinsert, h2, if_false, swfFrom, Bool.and_eq_true, decide_eq_true_eq, bne_iff_ne, ne_eq]
      exact ⟨w.1, ih (a + 1) w.2 (by omega) hn⟩

/-- A write keeps the canonical form. -/
theorem swf_sset {α : Type} [DecidableEq α] (d : Nat → α) (m : Sparse α) (k : Nat) (x : α)
    (w : swf d m = true) : swf d (sset d m k x) = true := by
  unfold sset
  split
  · exact swfFrom_serase d m 0 k w
  · rename_i h
    exact swfFrom_sinsert d _ 0 k x (swfFrom_serase d m 0 k w) (Nat.zero_le k) h (serase_absent m k)

end Sys2Proof.Machine
end

