-- ==== Sys2Proof/Laws/State.lean ====
section
/-! SUPPORT. What each update of the state leaves in each field, and what reading a part after an update gives. -/
namespace Sys2Proof.Machine

/-! ### setWg -/
@[simp] theorem State.setWg_mem (s : State) (g : Nat) (x : Workgroup) : (s.setWg g x).mem = s.mem := rfl
@[simp] theorem State.setWg_enc (s : State) (g : Nat) (x : Workgroup) : (s.setWg g x).enc = s.enc := rfl
@[simp] theorem State.setWg_poison (s : State) (g : Nat) (x : Workgroup) : (s.setWg g x).poison = s.poison := rfl
@[simp] theorem State.setWg_l2 (s : State) (g : Nat) (x : Workgroup) : (s.setWg g x).l2 = s.l2 := rfl
@[simp] theorem State.setWg_cores (s : State) (g : Nat) (x : Workgroup) : (s.setWg g x).cores = s.cores := rfl
@[simp] theorem State.setWg_grids (s : State) (g : Nat) (x : Workgroup) : (s.setWg g x).grids = s.grids := rfl
@[simp] theorem State.setWg_clusters (s : State) (g : Nat) (x : Workgroup) : (s.setWg g x).clusters = s.clusters := rfl
@[simp] theorem State.setWg_saved (s : State) (g : Nat) (x : Workgroup) : (s.setWg g x).saved = s.saved := rfl
@[simp] theorem State.setWg_ctxs (s : State) (g : Nat) (x : Workgroup) : (s.setWg g x).ctxs = s.ctxs := rfl
@[simp] theorem State.setWg_queues (s : State) (g : Nat) (x : Workgroup) : (s.setWg g x).queues = s.queues := rfl
@[simp] theorem State.setWg_timelines (s : State) (g : Nat) (x : Workgroup) : (s.setWg g x).timelines = s.timelines := rfl
@[simp] theorem State.setWg_walks (s : State) (g : Nat) (x : Workgroup) : (s.setWg g x).walks = s.walks := rfl
@[simp] theorem State.setWg_invals (s : State) (g : Nat) (x : Workgroup) : (s.setWg g x).invals = s.invals := rfl
@[simp] theorem State.setWg_served (s : State) (g : Nat) (x : Workgroup) : (s.setWg g x).served = s.served := rfl
@[simp] theorem State.setWg_ctxtab (s : State) (g : Nat) (x : Workgroup) : (s.setWg g x).ctxtab = s.ctxtab := rfl
@[simp] theorem State.setWg_ctxcmd (s : State) (g : Nat) (x : Workgroup) : (s.setWg g x).ctxcmd = s.ctxcmd := rfl
@[simp] theorem State.setWg_tlbcmd (s : State) (g : Nat) (x : Workgroup) : (s.setWg g x).tlbcmd = s.tlbcmd := rfl
@[simp] theorem State.setWg_tlbva (s : State) (g : Nat) (x : Workgroup) : (s.setWg g x).tlbva = s.tlbva := rfl
@[simp] theorem State.setWg_rtcmd (s : State) (g : Nat) (x : Workgroup) : (s.setWg g x).rtcmd = s.rtcmd := rfl
@[simp] theorem State.setWg_rtaddr (s : State) (g : Nat) (x : Workgroup) : (s.setWg g x).rtaddr = s.rtaddr := rfl
@[simp] theorem State.setWg_routines (s : State) (g : Nat) (x : Workgroup) : (s.setWg g x).routines = s.routines := rfl
@[simp] theorem State.setWg_compctl (s : State) (g : Nat) (x : Workgroup) : (s.setWg g x).compctl = s.compctl := rfl
@[simp] theorem State.setWg_compcnt (s : State) (g : Nat) (x : Workgroup) : (s.setWg g x).compcnt = s.compcnt := rfl
@[simp] theorem State.setWg_dedup (s : State) (g : Nat) (x : Workgroup) : (s.setWg g x).dedup = s.dedup := rfl
@[simp] theorem State.setWg_fleet (s : State) (g : Nat) (x : Workgroup) : (s.setWg g x).fleet = s.fleet := rfl
@[simp] theorem State.setWg_msix (s : State) (g : Nat) (x : Workgroup) : (s.setWg g x).msix = s.msix := rfl
@[simp] theorem State.setWg_msixTable (s : State) (g : Nat) (x : Workgroup) : (s.setWg g x).msixTable = s.msixTable := rfl
@[simp] theorem State.setWg_msixPending (s : State) (g : Nat) (x : Workgroup) : (s.setWg g x).msixPending = s.msixPending := rfl
@[simp] theorem State.setWg_behind (s : State) (g : Nat) (x : Workgroup) : (s.setWg g x).behind = s.behind := rfl
@[simp] theorem State.setWg_noted (s : State) (g : Nat) (x : Workgroup) : (s.setWg g x).noted = s.noted := rfl
@[simp] theorem State.setWg_lag (s : State) (g : Nat) (x : Workgroup) : (s.setWg g x).lag = s.lag := rfl
@[simp] theorem State.setWg_time (s : State) (g : Nat) (x : Workgroup) : (s.setWg g x).time = s.time := rfl
@[simp] theorem State.setWg_agenda (s : State) (g : Nat) (x : Workgroup) : (s.setWg g x).agenda = s.agenda := rfl
@[simp] theorem State.setWg_turn (s : State) (g : Nat) (x : Workgroup) : (s.setWg g x).turn = s.turn := rfl
@[simp] theorem State.setWg_cur (s : State) (g : Nat) (x : Workgroup) : (s.setWg g x).cur = s.cur := rfl
@[simp] theorem State.setWg_nextId (s : State) (g : Nat) (x : Workgroup) : (s.setWg g x).nextId = s.nextId := rfl
@[simp] theorem State.setWg_tick (s : State) (g : Nat) (x : Workgroup) : (s.setWg g x).tick = s.tick := rfl
@[simp] theorem State.setWg_draws (s : State) (g : Nat) (x : Workgroup) : (s.setWg g x).draws = s.draws := rfl
@[simp] theorem State.setWg_readData (s : State) (g : Nat) (x : Workgroup) : (s.setWg g x).readData = s.readData := rfl
@[simp] theorem State.setWg_readEnd (s : State) (g : Nat) (x : Workgroup) : (s.setWg g x).readEnd = s.readEnd := rfl

/-! ### updWg -/
@[simp] theorem State.updWg_mem (s : State) (g : Nat) (f : Workgroup → Workgroup) : (s.updWg g f).mem = s.mem := rfl
@[simp] theorem State.updWg_enc (s : State) (g : Nat) (f : Workgroup → Workgroup) : (s.updWg g f).enc = s.enc := rfl
@[simp] theorem State.updWg_poison (s : State) (g : Nat) (f : Workgroup → Workgroup) : (s.updWg g f).poison = s.poison := rfl
@[simp] theorem State.updWg_l2 (s : State) (g : Nat) (f : Workgroup → Workgroup) : (s.updWg g f).l2 = s.l2 := rfl
@[simp] theorem State.updWg_cores (s : State) (g : Nat) (f : Workgroup → Workgroup) : (s.updWg g f).cores = s.cores := rfl
@[simp] theorem State.updWg_grids (s : State) (g : Nat) (f : Workgroup → Workgroup) : (s.updWg g f).grids = s.grids := rfl
@[simp] theorem State.updWg_clusters (s : State) (g : Nat) (f : Workgroup → Workgroup) : (s.updWg g f).clusters = s.clusters := rfl
@[simp] theorem State.updWg_saved (s : State) (g : Nat) (f : Workgroup → Workgroup) : (s.updWg g f).saved = s.saved := rfl
@[simp] theorem State.updWg_ctxs (s : State) (g : Nat) (f : Workgroup → Workgroup) : (s.updWg g f).ctxs = s.ctxs := rfl
@[simp] theorem State.updWg_queues (s : State) (g : Nat) (f : Workgroup → Workgroup) : (s.updWg g f).queues = s.queues := rfl
@[simp] theorem State.updWg_timelines (s : State) (g : Nat) (f : Workgroup → Workgroup) : (s.updWg g f).timelines = s.timelines := rfl
@[simp] theorem State.updWg_walks (s : State) (g : Nat) (f : Workgroup → Workgroup) : (s.updWg g f).walks = s.walks := rfl
@[simp] theorem State.updWg_invals (s : State) (g : Nat) (f : Workgroup → Workgroup) : (s.updWg g f).invals = s.invals := rfl
@[simp] theorem State.updWg_served (s : State) (g : Nat) (f : Workgroup → Workgroup) : (s.updWg g f).served = s.served := rfl
@[simp] theorem State.updWg_ctxtab (s : State) (g : Nat) (f : Workgroup → Workgroup) : (s.updWg g f).ctxtab = s.ctxtab := rfl
@[simp] theorem State.updWg_ctxcmd (s : State) (g : Nat) (f : Workgroup → Workgroup) : (s.updWg g f).ctxcmd = s.ctxcmd := rfl
@[simp] theorem State.updWg_tlbcmd (s : State) (g : Nat) (f : Workgroup → Workgroup) : (s.updWg g f).tlbcmd = s.tlbcmd := rfl
@[simp] theorem State.updWg_tlbva (s : State) (g : Nat) (f : Workgroup → Workgroup) : (s.updWg g f).tlbva = s.tlbva := rfl
@[simp] theorem State.updWg_rtcmd (s : State) (g : Nat) (f : Workgroup → Workgroup) : (s.updWg g f).rtcmd = s.rtcmd := rfl
@[simp] theorem State.updWg_rtaddr (s : State) (g : Nat) (f : Workgroup → Workgroup) : (s.updWg g f).rtaddr = s.rtaddr := rfl
@[simp] theorem State.updWg_routines (s : State) (g : Nat) (f : Workgroup → Workgroup) : (s.updWg g f).routines = s.routines := rfl
@[simp] theorem State.updWg_compctl (s : State) (g : Nat) (f : Workgroup → Workgroup) : (s.updWg g f).compctl = s.compctl := rfl
@[simp] theorem State.updWg_compcnt (s : State) (g : Nat) (f : Workgroup → Workgroup) : (s.updWg g f).compcnt = s.compcnt := rfl
@[simp] theorem State.updWg_dedup (s : State) (g : Nat) (f : Workgroup → Workgroup) : (s.updWg g f).dedup = s.dedup := rfl
@[simp] theorem State.updWg_fleet (s : State) (g : Nat) (f : Workgroup → Workgroup) : (s.updWg g f).fleet = s.fleet := rfl
@[simp] theorem State.updWg_msix (s : State) (g : Nat) (f : Workgroup → Workgroup) : (s.updWg g f).msix = s.msix := rfl
@[simp] theorem State.updWg_msixTable (s : State) (g : Nat) (f : Workgroup → Workgroup) : (s.updWg g f).msixTable = s.msixTable := rfl
@[simp] theorem State.updWg_msixPending (s : State) (g : Nat) (f : Workgroup → Workgroup) : (s.updWg g f).msixPending = s.msixPending := rfl
@[simp] theorem State.updWg_behind (s : State) (g : Nat) (f : Workgroup → Workgroup) : (s.updWg g f).behind = s.behind := rfl
@[simp] theorem State.updWg_noted (s : State) (g : Nat) (f : Workgroup → Workgroup) : (s.updWg g f).noted = s.noted := rfl
@[simp] theorem State.updWg_lag (s : State) (g : Nat) (f : Workgroup → Workgroup) : (s.updWg g f).lag = s.lag := rfl
@[simp] theorem State.updWg_time (s : State) (g : Nat) (f : Workgroup → Workgroup) : (s.updWg g f).time = s.time := rfl
@[simp] theorem State.updWg_agenda (s : State) (g : Nat) (f : Workgroup → Workgroup) : (s.updWg g f).agenda = s.agenda := rfl
@[simp] theorem State.updWg_turn (s : State) (g : Nat) (f : Workgroup → Workgroup) : (s.updWg g f).turn = s.turn := rfl
@[simp] theorem State.updWg_cur (s : State) (g : Nat) (f : Workgroup → Workgroup) : (s.updWg g f).cur = s.cur := rfl
@[simp] theorem State.updWg_nextId (s : State) (g : Nat) (f : Workgroup → Workgroup) : (s.updWg g f).nextId = s.nextId := rfl
@[simp] theorem State.updWg_tick (s : State) (g : Nat) (f : Workgroup → Workgroup) : (s.updWg g f).tick = s.tick := rfl
@[simp] theorem State.updWg_draws (s : State) (g : Nat) (f : Workgroup → Workgroup) : (s.updWg g f).draws = s.draws := rfl
@[simp] theorem State.updWg_readData (s : State) (g : Nat) (f : Workgroup → Workgroup) : (s.updWg g f).readData = s.readData := rfl
@[simp] theorem State.updWg_readEnd (s : State) (g : Nat) (f : Workgroup → Workgroup) : (s.updWg g f).readEnd = s.readEnd := rfl

/-! ### updWarp -/
@[simp] theorem State.updWarp_mem (s : State) (g w : Nat) (f : Warp → Warp) : (s.updWarp g w f).mem = s.mem := rfl
@[simp] theorem State.updWarp_enc (s : State) (g w : Nat) (f : Warp → Warp) : (s.updWarp g w f).enc = s.enc := rfl
@[simp] theorem State.updWarp_poison (s : State) (g w : Nat) (f : Warp → Warp) : (s.updWarp g w f).poison = s.poison := rfl
@[simp] theorem State.updWarp_l2 (s : State) (g w : Nat) (f : Warp → Warp) : (s.updWarp g w f).l2 = s.l2 := rfl
@[simp] theorem State.updWarp_cores (s : State) (g w : Nat) (f : Warp → Warp) : (s.updWarp g w f).cores = s.cores := rfl
@[simp] theorem State.updWarp_grids (s : State) (g w : Nat) (f : Warp → Warp) : (s.updWarp g w f).grids = s.grids := rfl
@[simp] theorem State.updWarp_clusters (s : State) (g w : Nat) (f : Warp → Warp) : (s.updWarp g w f).clusters = s.clusters := rfl
@[simp] theorem State.updWarp_saved (s : State) (g w : Nat) (f : Warp → Warp) : (s.updWarp g w f).saved = s.saved := rfl
@[simp] theorem State.updWarp_ctxs (s : State) (g w : Nat) (f : Warp → Warp) : (s.updWarp g w f).ctxs = s.ctxs := rfl
@[simp] theorem State.updWarp_queues (s : State) (g w : Nat) (f : Warp → Warp) : (s.updWarp g w f).queues = s.queues := rfl
@[simp] theorem State.updWarp_timelines (s : State) (g w : Nat) (f : Warp → Warp) : (s.updWarp g w f).timelines = s.timelines := rfl
@[simp] theorem State.updWarp_walks (s : State) (g w : Nat) (f : Warp → Warp) : (s.updWarp g w f).walks = s.walks := rfl
@[simp] theorem State.updWarp_invals (s : State) (g w : Nat) (f : Warp → Warp) : (s.updWarp g w f).invals = s.invals := rfl
@[simp] theorem State.updWarp_served (s : State) (g w : Nat) (f : Warp → Warp) : (s.updWarp g w f).served = s.served := rfl
@[simp] theorem State.updWarp_ctxtab (s : State) (g w : Nat) (f : Warp → Warp) : (s.updWarp g w f).ctxtab = s.ctxtab := rfl
@[simp] theorem State.updWarp_ctxcmd (s : State) (g w : Nat) (f : Warp → Warp) : (s.updWarp g w f).ctxcmd = s.ctxcmd := rfl
@[simp] theorem State.updWarp_tlbcmd (s : State) (g w : Nat) (f : Warp → Warp) : (s.updWarp g w f).tlbcmd = s.tlbcmd := rfl
@[simp] theorem State.updWarp_tlbva (s : State) (g w : Nat) (f : Warp → Warp) : (s.updWarp g w f).tlbva = s.tlbva := rfl
@[simp] theorem State.updWarp_rtcmd (s : State) (g w : Nat) (f : Warp → Warp) : (s.updWarp g w f).rtcmd = s.rtcmd := rfl
@[simp] theorem State.updWarp_rtaddr (s : State) (g w : Nat) (f : Warp → Warp) : (s.updWarp g w f).rtaddr = s.rtaddr := rfl
@[simp] theorem State.updWarp_routines (s : State) (g w : Nat) (f : Warp → Warp) : (s.updWarp g w f).routines = s.routines := rfl
@[simp] theorem State.updWarp_compctl (s : State) (g w : Nat) (f : Warp → Warp) : (s.updWarp g w f).compctl = s.compctl := rfl
@[simp] theorem State.updWarp_compcnt (s : State) (g w : Nat) (f : Warp → Warp) : (s.updWarp g w f).compcnt = s.compcnt := rfl
@[simp] theorem State.updWarp_dedup (s : State) (g w : Nat) (f : Warp → Warp) : (s.updWarp g w f).dedup = s.dedup := rfl
@[simp] theorem State.updWarp_fleet (s : State) (g w : Nat) (f : Warp → Warp) : (s.updWarp g w f).fleet = s.fleet := rfl
@[simp] theorem State.updWarp_msix (s : State) (g w : Nat) (f : Warp → Warp) : (s.updWarp g w f).msix = s.msix := rfl
@[simp] theorem State.updWarp_msixTable (s : State) (g w : Nat) (f : Warp → Warp) : (s.updWarp g w f).msixTable = s.msixTable := rfl
@[simp] theorem State.updWarp_msixPending (s : State) (g w : Nat) (f : Warp → Warp) : (s.updWarp g w f).msixPending = s.msixPending := rfl
@[simp] theorem State.updWarp_behind (s : State) (g w : Nat) (f : Warp → Warp) : (s.updWarp g w f).behind = s.behind := rfl
@[simp] theorem State.updWarp_noted (s : State) (g w : Nat) (f : Warp → Warp) : (s.updWarp g w f).noted = s.noted := rfl
@[simp] theorem State.updWarp_lag (s : State) (g w : Nat) (f : Warp → Warp) : (s.updWarp g w f).lag = s.lag := rfl
@[simp] theorem State.updWarp_time (s : State) (g w : Nat) (f : Warp → Warp) : (s.updWarp g w f).time = s.time := rfl
@[simp] theorem State.updWarp_agenda (s : State) (g w : Nat) (f : Warp → Warp) : (s.updWarp g w f).agenda = s.agenda := rfl
@[simp] theorem State.updWarp_turn (s : State) (g w : Nat) (f : Warp → Warp) : (s.updWarp g w f).turn = s.turn := rfl
@[simp] theorem State.updWarp_cur (s : State) (g w : Nat) (f : Warp → Warp) : (s.updWarp g w f).cur = s.cur := rfl
@[simp] theorem State.updWarp_nextId (s : State) (g w : Nat) (f : Warp → Warp) : (s.updWarp g w f).nextId = s.nextId := rfl
@[simp] theorem State.updWarp_tick (s : State) (g w : Nat) (f : Warp → Warp) : (s.updWarp g w f).tick = s.tick := rfl
@[simp] theorem State.updWarp_draws (s : State) (g w : Nat) (f : Warp → Warp) : (s.updWarp g w f).draws = s.draws := rfl
@[simp] theorem State.updWarp_readData (s : State) (g w : Nat) (f : Warp → Warp) : (s.updWarp g w f).readData = s.readData := rfl
@[simp] theorem State.updWarp_readEnd (s : State) (g w : Nat) (f : Warp → Warp) : (s.updWarp g w f).readEnd = s.readEnd := rfl

/-! ### updSplit -/
@[simp] theorem State.updSplit_mem (s : State) (g w n : Nat) (f : Split → Split) : (s.updSplit g w n f).mem = s.mem := rfl
@[simp] theorem State.updSplit_enc (s : State) (g w n : Nat) (f : Split → Split) : (s.updSplit g w n f).enc = s.enc := rfl
@[simp] theorem State.updSplit_poison (s : State) (g w n : Nat) (f : Split → Split) : (s.updSplit g w n f).poison = s.poison := rfl
@[simp] theorem State.updSplit_l2 (s : State) (g w n : Nat) (f : Split → Split) : (s.updSplit g w n f).l2 = s.l2 := rfl
@[simp] theorem State.updSplit_cores (s : State) (g w n : Nat) (f : Split → Split) : (s.updSplit g w n f).cores = s.cores := rfl
@[simp] theorem State.updSplit_grids (s : State) (g w n : Nat) (f : Split → Split) : (s.updSplit g w n f).grids = s.grids := rfl
@[simp] theorem State.updSplit_clusters (s : State) (g w n : Nat) (f : Split → Split) : (s.updSplit g w n f).clusters = s.clusters := rfl
@[simp] theorem State.updSplit_saved (s : State) (g w n : Nat) (f : Split → Split) : (s.updSplit g w n f).saved = s.saved := rfl
@[simp] theorem State.updSplit_ctxs (s : State) (g w n : Nat) (f : Split → Split) : (s.updSplit g w n f).ctxs = s.ctxs := rfl
@[simp] theorem State.updSplit_queues (s : State) (g w n : Nat) (f : Split → Split) : (s.updSplit g w n f).queues = s.queues := rfl
@[simp] theorem State.updSplit_timelines (s : State) (g w n : Nat) (f : Split → Split) : (s.updSplit g w n f).timelines = s.timelines := rfl
@[simp] theorem State.updSplit_walks (s : State) (g w n : Nat) (f : Split → Split) : (s.updSplit g w n f).walks = s.walks := rfl
@[simp] theorem State.updSplit_invals (s : State) (g w n : Nat) (f : Split → Split) : (s.updSplit g w n f).invals = s.invals := rfl
@[simp] theorem State.updSplit_served (s : State) (g w n : Nat) (f : Split → Split) : (s.updSplit g w n f).served = s.served := rfl
@[simp] theorem State.updSplit_ctxtab (s : State) (g w n : Nat) (f : Split → Split) : (s.updSplit g w n f).ctxtab = s.ctxtab := rfl
@[simp] theorem State.updSplit_ctxcmd (s : State) (g w n : Nat) (f : Split → Split) : (s.updSplit g w n f).ctxcmd = s.ctxcmd := rfl
@[simp] theorem State.updSplit_tlbcmd (s : State) (g w n : Nat) (f : Split → Split) : (s.updSplit g w n f).tlbcmd = s.tlbcmd := rfl
@[simp] theorem State.updSplit_tlbva (s : State) (g w n : Nat) (f : Split → Split) : (s.updSplit g w n f).tlbva = s.tlbva := rfl
@[simp] theorem State.updSplit_rtcmd (s : State) (g w n : Nat) (f : Split → Split) : (s.updSplit g w n f).rtcmd = s.rtcmd := rfl
@[simp] theorem State.updSplit_rtaddr (s : State) (g w n : Nat) (f : Split → Split) : (s.updSplit g w n f).rtaddr = s.rtaddr := rfl
@[simp] theorem State.updSplit_routines (s : State) (g w n : Nat) (f : Split → Split) : (s.updSplit g w n f).routines = s.routines := rfl
@[simp] theorem State.updSplit_compctl (s : State) (g w n : Nat) (f : Split → Split) : (s.updSplit g w n f).compctl = s.compctl := rfl
@[simp] theorem State.updSplit_compcnt (s : State) (g w n : Nat) (f : Split → Split) : (s.updSplit g w n f).compcnt = s.compcnt := rfl
@[simp] theorem State.updSplit_dedup (s : State) (g w n : Nat) (f : Split → Split) : (s.updSplit g w n f).dedup = s.dedup := rfl
@[simp] theorem State.updSplit_fleet (s : State) (g w n : Nat) (f : Split → Split) : (s.updSplit g w n f).fleet = s.fleet := rfl
@[simp] theorem State.updSplit_msix (s : State) (g w n : Nat) (f : Split → Split) : (s.updSplit g w n f).msix = s.msix := rfl
@[simp] theorem State.updSplit_msixTable (s : State) (g w n : Nat) (f : Split → Split) : (s.updSplit g w n f).msixTable = s.msixTable := rfl
@[simp] theorem State.updSplit_msixPending (s : State) (g w n : Nat) (f : Split → Split) : (s.updSplit g w n f).msixPending = s.msixPending := rfl
@[simp] theorem State.updSplit_behind (s : State) (g w n : Nat) (f : Split → Split) : (s.updSplit g w n f).behind = s.behind := rfl
@[simp] theorem State.updSplit_noted (s : State) (g w n : Nat) (f : Split → Split) : (s.updSplit g w n f).noted = s.noted := rfl
@[simp] theorem State.updSplit_lag (s : State) (g w n : Nat) (f : Split → Split) : (s.updSplit g w n f).lag = s.lag := rfl
@[simp] theorem State.updSplit_time (s : State) (g w n : Nat) (f : Split → Split) : (s.updSplit g w n f).time = s.time := rfl
@[simp] theorem State.updSplit_agenda (s : State) (g w n : Nat) (f : Split → Split) : (s.updSplit g w n f).agenda = s.agenda := rfl
@[simp] theorem State.updSplit_turn (s : State) (g w n : Nat) (f : Split → Split) : (s.updSplit g w n f).turn = s.turn := rfl
@[simp] theorem State.updSplit_cur (s : State) (g w n : Nat) (f : Split → Split) : (s.updSplit g w n f).cur = s.cur := rfl
@[simp] theorem State.updSplit_nextId (s : State) (g w n : Nat) (f : Split → Split) : (s.updSplit g w n f).nextId = s.nextId := rfl
@[simp] theorem State.updSplit_tick (s : State) (g w n : Nat) (f : Split → Split) : (s.updSplit g w n f).tick = s.tick := rfl
@[simp] theorem State.updSplit_draws (s : State) (g w n : Nat) (f : Split → Split) : (s.updSplit g w n f).draws = s.draws := rfl
@[simp] theorem State.updSplit_readData (s : State) (g w n : Nat) (f : Split → Split) : (s.updSplit g w n f).readData = s.readData := rfl
@[simp] theorem State.updSplit_readEnd (s : State) (g w n : Nat) (f : Split → Split) : (s.updSplit g w n f).readEnd = s.readEnd := rfl

/-! ### updCurWg -/
@[simp] theorem State.updCurWg_mem (s : State) (f : Workgroup → Workgroup) : (s.updCurWg f).mem = s.mem := rfl
@[simp] theorem State.updCurWg_enc (s : State) (f : Workgroup → Workgroup) : (s.updCurWg f).enc = s.enc := rfl
@[simp] theorem State.updCurWg_poison (s : State) (f : Workgroup → Workgroup) : (s.updCurWg f).poison = s.poison := rfl
@[simp] theorem State.updCurWg_l2 (s : State) (f : Workgroup → Workgroup) : (s.updCurWg f).l2 = s.l2 := rfl
@[simp] theorem State.updCurWg_cores (s : State) (f : Workgroup → Workgroup) : (s.updCurWg f).cores = s.cores := rfl
@[simp] theorem State.updCurWg_grids (s : State) (f : Workgroup → Workgroup) : (s.updCurWg f).grids = s.grids := rfl
@[simp] theorem State.updCurWg_clusters (s : State) (f : Workgroup → Workgroup) : (s.updCurWg f).clusters = s.clusters := rfl
@[simp] theorem State.updCurWg_saved (s : State) (f : Workgroup → Workgroup) : (s.updCurWg f).saved = s.saved := rfl
@[simp] theorem State.updCurWg_ctxs (s : State) (f : Workgroup → Workgroup) : (s.updCurWg f).ctxs = s.ctxs := rfl
@[simp] theorem State.updCurWg_queues (s : State) (f : Workgroup → Workgroup) : (s.updCurWg f).queues = s.queues := rfl
@[simp] theorem State.updCurWg_timelines (s : State) (f : Workgroup → Workgroup) : (s.updCurWg f).timelines = s.timelines := rfl
@[simp] theorem State.updCurWg_walks (s : State) (f : Workgroup → Workgroup) : (s.updCurWg f).walks = s.walks := rfl
@[simp] theorem State.updCurWg_invals (s : State) (f : Workgroup → Workgroup) : (s.updCurWg f).invals = s.invals := rfl
@[simp] theorem State.updCurWg_served (s : State) (f : Workgroup → Workgroup) : (s.updCurWg f).served = s.served := rfl
@[simp] theorem State.updCurWg_ctxtab (s : State) (f : Workgroup → Workgroup) : (s.updCurWg f).ctxtab = s.ctxtab := rfl
@[simp] theorem State.updCurWg_ctxcmd (s : State) (f : Workgroup → Workgroup) : (s.updCurWg f).ctxcmd = s.ctxcmd := rfl
@[simp] theorem State.updCurWg_tlbcmd (s : State) (f : Workgroup → Workgroup) : (s.updCurWg f).tlbcmd = s.tlbcmd := rfl
@[simp] theorem State.updCurWg_tlbva (s : State) (f : Workgroup → Workgroup) : (s.updCurWg f).tlbva = s.tlbva := rfl
@[simp] theorem State.updCurWg_rtcmd (s : State) (f : Workgroup → Workgroup) : (s.updCurWg f).rtcmd = s.rtcmd := rfl
@[simp] theorem State.updCurWg_rtaddr (s : State) (f : Workgroup → Workgroup) : (s.updCurWg f).rtaddr = s.rtaddr := rfl
@[simp] theorem State.updCurWg_routines (s : State) (f : Workgroup → Workgroup) : (s.updCurWg f).routines = s.routines := rfl
@[simp] theorem State.updCurWg_compctl (s : State) (f : Workgroup → Workgroup) : (s.updCurWg f).compctl = s.compctl := rfl
@[simp] theorem State.updCurWg_compcnt (s : State) (f : Workgroup → Workgroup) : (s.updCurWg f).compcnt = s.compcnt := rfl
@[simp] theorem State.updCurWg_dedup (s : State) (f : Workgroup → Workgroup) : (s.updCurWg f).dedup = s.dedup := rfl
@[simp] theorem State.updCurWg_fleet (s : State) (f : Workgroup → Workgroup) : (s.updCurWg f).fleet = s.fleet := rfl
@[simp] theorem State.updCurWg_msix (s : State) (f : Workgroup → Workgroup) : (s.updCurWg f).msix = s.msix := rfl
@[simp] theorem State.updCurWg_msixTable (s : State) (f : Workgroup → Workgroup) : (s.updCurWg f).msixTable = s.msixTable := rfl
@[simp] theorem State.updCurWg_msixPending (s : State) (f : Workgroup → Workgroup) : (s.updCurWg f).msixPending = s.msixPending := rfl
@[simp] theorem State.updCurWg_behind (s : State) (f : Workgroup → Workgroup) : (s.updCurWg f).behind = s.behind := rfl
@[simp] theorem State.updCurWg_noted (s : State) (f : Workgroup → Workgroup) : (s.updCurWg f).noted = s.noted := rfl
@[simp] theorem State.updCurWg_lag (s : State) (f : Workgroup → Workgroup) : (s.updCurWg f).lag = s.lag := rfl
@[simp] theorem State.updCurWg_time (s : State) (f : Workgroup → Workgroup) : (s.updCurWg f).time = s.time := rfl
@[simp] theorem State.updCurWg_agenda (s : State) (f : Workgroup → Workgroup) : (s.updCurWg f).agenda = s.agenda := rfl
@[simp] theorem State.updCurWg_turn (s : State) (f : Workgroup → Workgroup) : (s.updCurWg f).turn = s.turn := rfl
@[simp] theorem State.updCurWg_cur (s : State) (f : Workgroup → Workgroup) : (s.updCurWg f).cur = s.cur := rfl
@[simp] theorem State.updCurWg_nextId (s : State) (f : Workgroup → Workgroup) : (s.updCurWg f).nextId = s.nextId := rfl
@[simp] theorem State.updCurWg_tick (s : State) (f : Workgroup → Workgroup) : (s.updCurWg f).tick = s.tick := rfl
@[simp] theorem State.updCurWg_draws (s : State) (f : Workgroup → Workgroup) : (s.updCurWg f).draws = s.draws := rfl
@[simp] theorem State.updCurWg_readData (s : State) (f : Workgroup → Workgroup) : (s.updCurWg f).readData = s.readData := rfl
@[simp] theorem State.updCurWg_readEnd (s : State) (f : Workgroup → Workgroup) : (s.updCurWg f).readEnd = s.readEnd := rfl

/-! ### updCurWarp -/
@[simp] theorem State.updCurWarp_mem (s : State) (f : Warp → Warp) : (s.updCurWarp f).mem = s.mem := rfl
@[simp] theorem State.updCurWarp_enc (s : State) (f : Warp → Warp) : (s.updCurWarp f).enc = s.enc := rfl
@[simp] theorem State.updCurWarp_poison (s : State) (f : Warp → Warp) : (s.updCurWarp f).poison = s.poison := rfl
@[simp] theorem State.updCurWarp_l2 (s : State) (f : Warp → Warp) : (s.updCurWarp f).l2 = s.l2 := rfl
@[simp] theorem State.updCurWarp_cores (s : State) (f : Warp → Warp) : (s.updCurWarp f).cores = s.cores := rfl
@[simp] theorem State.updCurWarp_grids (s : State) (f : Warp → Warp) : (s.updCurWarp f).grids = s.grids := rfl
@[simp] theorem State.updCurWarp_clusters (s : State) (f : Warp → Warp) : (s.updCurWarp f).clusters = s.clusters := rfl
@[simp] theorem State.updCurWarp_saved (s : State) (f : Warp → Warp) : (s.updCurWarp f).saved = s.saved := rfl
@[simp] theorem State.updCurWarp_ctxs (s : State) (f : Warp → Warp) : (s.updCurWarp f).ctxs = s.ctxs := rfl
@[simp] theorem State.updCurWarp_queues (s : State) (f : Warp → Warp) : (s.updCurWarp f).queues = s.queues := rfl
@[simp] theorem State.updCurWarp_timelines (s : State) (f : Warp → Warp) : (s.updCurWarp f).timelines = s.timelines := rfl
@[simp] theorem State.updCurWarp_walks (s : State) (f : Warp → Warp) : (s.updCurWarp f).walks = s.walks := rfl
@[simp] theorem State.updCurWarp_invals (s : State) (f : Warp → Warp) : (s.updCurWarp f).invals = s.invals := rfl
@[simp] theorem State.updCurWarp_served (s : State) (f : Warp → Warp) : (s.updCurWarp f).served = s.served := rfl
@[simp] theorem State.updCurWarp_ctxtab (s : State) (f : Warp → Warp) : (s.updCurWarp f).ctxtab = s.ctxtab := rfl
@[simp] theorem State.updCurWarp_ctxcmd (s : State) (f : Warp → Warp) : (s.updCurWarp f).ctxcmd = s.ctxcmd := rfl
@[simp] theorem State.updCurWarp_tlbcmd (s : State) (f : Warp → Warp) : (s.updCurWarp f).tlbcmd = s.tlbcmd := rfl
@[simp] theorem State.updCurWarp_tlbva (s : State) (f : Warp → Warp) : (s.updCurWarp f).tlbva = s.tlbva := rfl
@[simp] theorem State.updCurWarp_rtcmd (s : State) (f : Warp → Warp) : (s.updCurWarp f).rtcmd = s.rtcmd := rfl
@[simp] theorem State.updCurWarp_rtaddr (s : State) (f : Warp → Warp) : (s.updCurWarp f).rtaddr = s.rtaddr := rfl
@[simp] theorem State.updCurWarp_routines (s : State) (f : Warp → Warp) : (s.updCurWarp f).routines = s.routines := rfl
@[simp] theorem State.updCurWarp_compctl (s : State) (f : Warp → Warp) : (s.updCurWarp f).compctl = s.compctl := rfl
@[simp] theorem State.updCurWarp_compcnt (s : State) (f : Warp → Warp) : (s.updCurWarp f).compcnt = s.compcnt := rfl
@[simp] theorem State.updCurWarp_dedup (s : State) (f : Warp → Warp) : (s.updCurWarp f).dedup = s.dedup := rfl
@[simp] theorem State.updCurWarp_fleet (s : State) (f : Warp → Warp) : (s.updCurWarp f).fleet = s.fleet := rfl
@[simp] theorem State.updCurWarp_msix (s : State) (f : Warp → Warp) : (s.updCurWarp f).msix = s.msix := rfl
@[simp] theorem State.updCurWarp_msixTable (s : State) (f : Warp → Warp) : (s.updCurWarp f).msixTable = s.msixTable := rfl
@[simp] theorem State.updCurWarp_msixPending (s : State) (f : Warp → Warp) : (s.updCurWarp f).msixPending = s.msixPending := rfl
@[simp] theorem State.updCurWarp_behind (s : State) (f : Warp → Warp) : (s.updCurWarp f).behind = s.behind := rfl
@[simp] theorem State.updCurWarp_noted (s : State) (f : Warp → Warp) : (s.updCurWarp f).noted = s.noted := rfl
@[simp] theorem State.updCurWarp_lag (s : State) (f : Warp → Warp) : (s.updCurWarp f).lag = s.lag := rfl
@[simp] theorem State.updCurWarp_time (s : State) (f : Warp → Warp) : (s.updCurWarp f).time = s.time := rfl
@[simp] theorem State.updCurWarp_agenda (s : State) (f : Warp → Warp) : (s.updCurWarp f).agenda = s.agenda := rfl
@[simp] theorem State.updCurWarp_turn (s : State) (f : Warp → Warp) : (s.updCurWarp f).turn = s.turn := rfl
@[simp] theorem State.updCurWarp_cur (s : State) (f : Warp → Warp) : (s.updCurWarp f).cur = s.cur := rfl
@[simp] theorem State.updCurWarp_nextId (s : State) (f : Warp → Warp) : (s.updCurWarp f).nextId = s.nextId := rfl
@[simp] theorem State.updCurWarp_tick (s : State) (f : Warp → Warp) : (s.updCurWarp f).tick = s.tick := rfl
@[simp] theorem State.updCurWarp_draws (s : State) (f : Warp → Warp) : (s.updCurWarp f).draws = s.draws := rfl
@[simp] theorem State.updCurWarp_readData (s : State) (f : Warp → Warp) : (s.updCurWarp f).readData = s.readData := rfl
@[simp] theorem State.updCurWarp_readEnd (s : State) (f : Warp → Warp) : (s.updCurWarp f).readEnd = s.readEnd := rfl

/-! ### updCur -/
@[simp] theorem State.updCur_mem (s : State) (f : Split → Split) : (s.updCur f).mem = s.mem := rfl
@[simp] theorem State.updCur_enc (s : State) (f : Split → Split) : (s.updCur f).enc = s.enc := rfl
@[simp] theorem State.updCur_poison (s : State) (f : Split → Split) : (s.updCur f).poison = s.poison := rfl
@[simp] theorem State.updCur_l2 (s : State) (f : Split → Split) : (s.updCur f).l2 = s.l2 := rfl
@[simp] theorem State.updCur_cores (s : State) (f : Split → Split) : (s.updCur f).cores = s.cores := rfl
@[simp] theorem State.updCur_grids (s : State) (f : Split → Split) : (s.updCur f).grids = s.grids := rfl
@[simp] theorem State.updCur_clusters (s : State) (f : Split → Split) : (s.updCur f).clusters = s.clusters := rfl
@[simp] theorem State.updCur_saved (s : State) (f : Split → Split) : (s.updCur f).saved = s.saved := rfl
@[simp] theorem State.updCur_ctxs (s : State) (f : Split → Split) : (s.updCur f).ctxs = s.ctxs := rfl
@[simp] theorem State.updCur_queues (s : State) (f : Split → Split) : (s.updCur f).queues = s.queues := rfl
@[simp] theorem State.updCur_timelines (s : State) (f : Split → Split) : (s.updCur f).timelines = s.timelines := rfl
@[simp] theorem State.updCur_walks (s : State) (f : Split → Split) : (s.updCur f).walks = s.walks := rfl
@[simp] theorem State.updCur_invals (s : State) (f : Split → Split) : (s.updCur f).invals = s.invals := rfl
@[simp] theorem State.updCur_served (s : State) (f : Split → Split) : (s.updCur f).served = s.served := rfl
@[simp] theorem State.updCur_ctxtab (s : State) (f : Split → Split) : (s.updCur f).ctxtab = s.ctxtab := rfl
@[simp] theorem State.updCur_ctxcmd (s : State) (f : Split → Split) : (s.updCur f).ctxcmd = s.ctxcmd := rfl
@[simp] theorem State.updCur_tlbcmd (s : State) (f : Split → Split) : (s.updCur f).tlbcmd = s.tlbcmd := rfl
@[simp] theorem State.updCur_tlbva (s : State) (f : Split → Split) : (s.updCur f).tlbva = s.tlbva := rfl
@[simp] theorem State.updCur_rtcmd (s : State) (f : Split → Split) : (s.updCur f).rtcmd = s.rtcmd := rfl
@[simp] theorem State.updCur_rtaddr (s : State) (f : Split → Split) : (s.updCur f).rtaddr = s.rtaddr := rfl
@[simp] theorem State.updCur_routines (s : State) (f : Split → Split) : (s.updCur f).routines = s.routines := rfl
@[simp] theorem State.updCur_compctl (s : State) (f : Split → Split) : (s.updCur f).compctl = s.compctl := rfl
@[simp] theorem State.updCur_compcnt (s : State) (f : Split → Split) : (s.updCur f).compcnt = s.compcnt := rfl
@[simp] theorem State.updCur_dedup (s : State) (f : Split → Split) : (s.updCur f).dedup = s.dedup := rfl
@[simp] theorem State.updCur_fleet (s : State) (f : Split → Split) : (s.updCur f).fleet = s.fleet := rfl
@[simp] theorem State.updCur_msix (s : State) (f : Split → Split) : (s.updCur f).msix = s.msix := rfl
@[simp] theorem State.updCur_msixTable (s : State) (f : Split → Split) : (s.updCur f).msixTable = s.msixTable := rfl
@[simp] theorem State.updCur_msixPending (s : State) (f : Split → Split) : (s.updCur f).msixPending = s.msixPending := rfl
@[simp] theorem State.updCur_behind (s : State) (f : Split → Split) : (s.updCur f).behind = s.behind := rfl
@[simp] theorem State.updCur_noted (s : State) (f : Split → Split) : (s.updCur f).noted = s.noted := rfl
@[simp] theorem State.updCur_lag (s : State) (f : Split → Split) : (s.updCur f).lag = s.lag := rfl
@[simp] theorem State.updCur_time (s : State) (f : Split → Split) : (s.updCur f).time = s.time := rfl
@[simp] theorem State.updCur_agenda (s : State) (f : Split → Split) : (s.updCur f).agenda = s.agenda := rfl
@[simp] theorem State.updCur_turn (s : State) (f : Split → Split) : (s.updCur f).turn = s.turn := rfl
@[simp] theorem State.updCur_cur (s : State) (f : Split → Split) : (s.updCur f).cur = s.cur := rfl
@[simp] theorem State.updCur_nextId (s : State) (f : Split → Split) : (s.updCur f).nextId = s.nextId := rfl
@[simp] theorem State.updCur_tick (s : State) (f : Split → Split) : (s.updCur f).tick = s.tick := rfl
@[simp] theorem State.updCur_draws (s : State) (f : Split → Split) : (s.updCur f).draws = s.draws := rfl
@[simp] theorem State.updCur_readData (s : State) (f : Split → Split) : (s.updCur f).readData = s.readData := rfl
@[simp] theorem State.updCur_readEnd (s : State) (f : Split → Split) : (s.updCur f).readEnd = s.readEnd := rfl

/-! ### advance -/
@[simp] theorem State.advance_mem (s : State) : (s.advance).mem = s.mem := rfl
@[simp] theorem State.advance_enc (s : State) : (s.advance).enc = s.enc := rfl
@[simp] theorem State.advance_poison (s : State) : (s.advance).poison = s.poison := rfl
@[simp] theorem State.advance_l2 (s : State) : (s.advance).l2 = s.l2 := rfl
@[simp] theorem State.advance_cores (s : State) : (s.advance).cores = s.cores := rfl
@[simp] theorem State.advance_grids (s : State) : (s.advance).grids = s.grids := rfl
@[simp] theorem State.advance_clusters (s : State) : (s.advance).clusters = s.clusters := rfl
@[simp] theorem State.advance_saved (s : State) : (s.advance).saved = s.saved := rfl
@[simp] theorem State.advance_ctxs (s : State) : (s.advance).ctxs = s.ctxs := rfl
@[simp] theorem State.advance_queues (s : State) : (s.advance).queues = s.queues := rfl
@[simp] theorem State.advance_timelines (s : State) : (s.advance).timelines = s.timelines := rfl
@[simp] theorem State.advance_walks (s : State) : (s.advance).walks = s.walks := rfl
@[simp] theorem State.advance_invals (s : State) : (s.advance).invals = s.invals := rfl
@[simp] theorem State.advance_served (s : State) : (s.advance).served = s.served := rfl
@[simp] theorem State.advance_ctxtab (s : State) : (s.advance).ctxtab = s.ctxtab := rfl
@[simp] theorem State.advance_ctxcmd (s : State) : (s.advance).ctxcmd = s.ctxcmd := rfl
@[simp] theorem State.advance_tlbcmd (s : State) : (s.advance).tlbcmd = s.tlbcmd := rfl
@[simp] theorem State.advance_tlbva (s : State) : (s.advance).tlbva = s.tlbva := rfl
@[simp] theorem State.advance_rtcmd (s : State) : (s.advance).rtcmd = s.rtcmd := rfl
@[simp] theorem State.advance_rtaddr (s : State) : (s.advance).rtaddr = s.rtaddr := rfl
@[simp] theorem State.advance_routines (s : State) : (s.advance).routines = s.routines := rfl
@[simp] theorem State.advance_compctl (s : State) : (s.advance).compctl = s.compctl := rfl
@[simp] theorem State.advance_compcnt (s : State) : (s.advance).compcnt = s.compcnt := rfl
@[simp] theorem State.advance_dedup (s : State) : (s.advance).dedup = s.dedup := rfl
@[simp] theorem State.advance_fleet (s : State) : (s.advance).fleet = s.fleet := rfl
@[simp] theorem State.advance_msix (s : State) : (s.advance).msix = s.msix := rfl
@[simp] theorem State.advance_msixTable (s : State) : (s.advance).msixTable = s.msixTable := rfl
@[simp] theorem State.advance_msixPending (s : State) : (s.advance).msixPending = s.msixPending := rfl
@[simp] theorem State.advance_behind (s : State) : (s.advance).behind = s.behind := rfl
@[simp] theorem State.advance_noted (s : State) : (s.advance).noted = s.noted := rfl
@[simp] theorem State.advance_lag (s : State) : (s.advance).lag = s.lag := rfl
@[simp] theorem State.advance_time (s : State) : (s.advance).time = s.time := rfl
@[simp] theorem State.advance_agenda (s : State) : (s.advance).agenda = s.agenda := rfl
@[simp] theorem State.advance_turn (s : State) : (s.advance).turn = s.turn := rfl
@[simp] theorem State.advance_cur (s : State) : (s.advance).cur = s.cur := rfl
@[simp] theorem State.advance_nextId (s : State) : (s.advance).nextId = s.nextId := rfl
@[simp] theorem State.advance_tick (s : State) : (s.advance).tick = s.tick := rfl
@[simp] theorem State.advance_draws (s : State) : (s.advance).draws = s.draws := rfl
@[simp] theorem State.advance_readData (s : State) : (s.advance).readData = s.readData := rfl
@[simp] theorem State.advance_readEnd (s : State) : (s.advance).readEnd = s.readEnd := rfl

/-! ### waitIn -/
@[simp] theorem State.waitIn_mem (s : State) (i : Instr) (w : Wait) : (s.waitIn i w).mem = s.mem := rfl
@[simp] theorem State.waitIn_enc (s : State) (i : Instr) (w : Wait) : (s.waitIn i w).enc = s.enc := rfl
@[simp] theorem State.waitIn_poison (s : State) (i : Instr) (w : Wait) : (s.waitIn i w).poison = s.poison := rfl
@[simp] theorem State.waitIn_l2 (s : State) (i : Instr) (w : Wait) : (s.waitIn i w).l2 = s.l2 := rfl
@[simp] theorem State.waitIn_cores (s : State) (i : Instr) (w : Wait) : (s.waitIn i w).cores = s.cores := rfl
@[simp] theorem State.waitIn_grids (s : State) (i : Instr) (w : Wait) : (s.waitIn i w).grids = s.grids := rfl
@[simp] theorem State.waitIn_clusters (s : State) (i : Instr) (w : Wait) : (s.waitIn i w).clusters = s.clusters := rfl
@[simp] theorem State.waitIn_saved (s : State) (i : Instr) (w : Wait) : (s.waitIn i w).saved = s.saved := rfl
@[simp] theorem State.waitIn_ctxs (s : State) (i : Instr) (w : Wait) : (s.waitIn i w).ctxs = s.ctxs := rfl
@[simp] theorem State.waitIn_queues (s : State) (i : Instr) (w : Wait) : (s.waitIn i w).queues = s.queues := rfl
@[simp] theorem State.waitIn_timelines (s : State) (i : Instr) (w : Wait) : (s.waitIn i w).timelines = s.timelines := rfl
@[simp] theorem State.waitIn_walks (s : State) (i : Instr) (w : Wait) : (s.waitIn i w).walks = s.walks := rfl
@[simp] theorem State.waitIn_invals (s : State) (i : Instr) (w : Wait) : (s.waitIn i w).invals = s.invals := rfl
@[simp] theorem State.waitIn_served (s : State) (i : Instr) (w : Wait) : (s.waitIn i w).served = s.served := rfl
@[simp] theorem State.waitIn_ctxtab (s : State) (i : Instr) (w : Wait) : (s.waitIn i w).ctxtab = s.ctxtab := rfl
@[simp] theorem State.waitIn_ctxcmd (s : State) (i : Instr) (w : Wait) : (s.waitIn i w).ctxcmd = s.ctxcmd := rfl
@[simp] theorem State.waitIn_tlbcmd (s : State) (i : Instr) (w : Wait) : (s.waitIn i w).tlbcmd = s.tlbcmd := rfl
@[simp] theorem State.waitIn_tlbva (s : State) (i : Instr) (w : Wait) : (s.waitIn i w).tlbva = s.tlbva := rfl
@[simp] theorem State.waitIn_rtcmd (s : State) (i : Instr) (w : Wait) : (s.waitIn i w).rtcmd = s.rtcmd := rfl
@[simp] theorem State.waitIn_rtaddr (s : State) (i : Instr) (w : Wait) : (s.waitIn i w).rtaddr = s.rtaddr := rfl
@[simp] theorem State.waitIn_routines (s : State) (i : Instr) (w : Wait) : (s.waitIn i w).routines = s.routines := rfl
@[simp] theorem State.waitIn_compctl (s : State) (i : Instr) (w : Wait) : (s.waitIn i w).compctl = s.compctl := rfl
@[simp] theorem State.waitIn_compcnt (s : State) (i : Instr) (w : Wait) : (s.waitIn i w).compcnt = s.compcnt := rfl
@[simp] theorem State.waitIn_dedup (s : State) (i : Instr) (w : Wait) : (s.waitIn i w).dedup = s.dedup := rfl
@[simp] theorem State.waitIn_fleet (s : State) (i : Instr) (w : Wait) : (s.waitIn i w).fleet = s.fleet := rfl
@[simp] theorem State.waitIn_msix (s : State) (i : Instr) (w : Wait) : (s.waitIn i w).msix = s.msix := rfl
@[simp] theorem State.waitIn_msixTable (s : State) (i : Instr) (w : Wait) : (s.waitIn i w).msixTable = s.msixTable := rfl
@[simp] theorem State.waitIn_msixPending (s : State) (i : Instr) (w : Wait) : (s.waitIn i w).msixPending = s.msixPending := rfl
@[simp] theorem State.waitIn_behind (s : State) (i : Instr) (w : Wait) : (s.waitIn i w).behind = s.behind := rfl
@[simp] theorem State.waitIn_noted (s : State) (i : Instr) (w : Wait) : (s.waitIn i w).noted = s.noted := rfl
@[simp] theorem State.waitIn_lag (s : State) (i : Instr) (w : Wait) : (s.waitIn i w).lag = s.lag := rfl
@[simp] theorem State.waitIn_time (s : State) (i : Instr) (w : Wait) : (s.waitIn i w).time = s.time := rfl
@[simp] theorem State.waitIn_agenda (s : State) (i : Instr) (w : Wait) : (s.waitIn i w).agenda = s.agenda := rfl
@[simp] theorem State.waitIn_turn (s : State) (i : Instr) (w : Wait) : (s.waitIn i w).turn = s.turn := rfl
@[simp] theorem State.waitIn_cur (s : State) (i : Instr) (w : Wait) : (s.waitIn i w).cur = s.cur := rfl
@[simp] theorem State.waitIn_nextId (s : State) (i : Instr) (w : Wait) : (s.waitIn i w).nextId = s.nextId := rfl
@[simp] theorem State.waitIn_tick (s : State) (i : Instr) (w : Wait) : (s.waitIn i w).tick = s.tick := rfl
@[simp] theorem State.waitIn_draws (s : State) (i : Instr) (w : Wait) : (s.waitIn i w).draws = s.draws := rfl
@[simp] theorem State.waitIn_readData (s : State) (i : Instr) (w : Wait) : (s.waitIn i w).readData = s.readData := rfl
@[simp] theorem State.waitIn_readEnd (s : State) (i : Instr) (w : Wait) : (s.waitIn i w).readEnd = s.readEnd := rfl

/-! ### updCore -/
@[simp] theorem State.updCore_mem (s : State) (c : Nat) (f : Core → Core) : (s.updCore c f).mem = s.mem := rfl
@[simp] theorem State.updCore_enc (s : State) (c : Nat) (f : Core → Core) : (s.updCore c f).enc = s.enc := rfl
@[simp] theorem State.updCore_poison (s : State) (c : Nat) (f : Core → Core) : (s.updCore c f).poison = s.poison := rfl
@[simp] theorem State.updCore_l2 (s : State) (c : Nat) (f : Core → Core) : (s.updCore c f).l2 = s.l2 := rfl
@[simp] theorem State.updCore_wgs (s : State) (c : Nat) (f : Core → Core) : (s.updCore c f).wgs = s.wgs := rfl
@[simp] theorem State.updCore_grids (s : State) (c : Nat) (f : Core → Core) : (s.updCore c f).grids = s.grids := rfl
@[simp] theorem State.updCore_clusters (s : State) (c : Nat) (f : Core → Core) : (s.updCore c f).clusters = s.clusters := rfl
@[simp] theorem State.updCore_saved (s : State) (c : Nat) (f : Core → Core) : (s.updCore c f).saved = s.saved := rfl
@[simp] theorem State.updCore_ctxs (s : State) (c : Nat) (f : Core → Core) : (s.updCore c f).ctxs = s.ctxs := rfl
@[simp] theorem State.updCore_queues (s : State) (c : Nat) (f : Core → Core) : (s.updCore c f).queues = s.queues := rfl
@[simp] theorem State.updCore_timelines (s : State) (c : Nat) (f : Core → Core) : (s.updCore c f).timelines = s.timelines := rfl
@[simp] theorem State.updCore_walks (s : State) (c : Nat) (f : Core → Core) : (s.updCore c f).walks = s.walks := rfl
@[simp] theorem State.updCore_invals (s : State) (c : Nat) (f : Core → Core) : (s.updCore c f).invals = s.invals := rfl
@[simp] theorem State.updCore_served (s : State) (c : Nat) (f : Core → Core) : (s.updCore c f).served = s.served := rfl
@[simp] theorem State.updCore_ctxtab (s : State) (c : Nat) (f : Core → Core) : (s.updCore c f).ctxtab = s.ctxtab := rfl
@[simp] theorem State.updCore_ctxcmd (s : State) (c : Nat) (f : Core → Core) : (s.updCore c f).ctxcmd = s.ctxcmd := rfl
@[simp] theorem State.updCore_tlbcmd (s : State) (c : Nat) (f : Core → Core) : (s.updCore c f).tlbcmd = s.tlbcmd := rfl
@[simp] theorem State.updCore_tlbva (s : State) (c : Nat) (f : Core → Core) : (s.updCore c f).tlbva = s.tlbva := rfl
@[simp] theorem State.updCore_rtcmd (s : State) (c : Nat) (f : Core → Core) : (s.updCore c f).rtcmd = s.rtcmd := rfl
@[simp] theorem State.updCore_rtaddr (s : State) (c : Nat) (f : Core → Core) : (s.updCore c f).rtaddr = s.rtaddr := rfl
@[simp] theorem State.updCore_routines (s : State) (c : Nat) (f : Core → Core) : (s.updCore c f).routines = s.routines := rfl
@[simp] theorem State.updCore_compctl (s : State) (c : Nat) (f : Core → Core) : (s.updCore c f).compctl = s.compctl := rfl
@[simp] theorem State.updCore_compcnt (s : State) (c : Nat) (f : Core → Core) : (s.updCore c f).compcnt = s.compcnt := rfl
@[simp] theorem State.updCore_dedup (s : State) (c : Nat) (f : Core → Core) : (s.updCore c f).dedup = s.dedup := rfl
@[simp] theorem State.updCore_fleet (s : State) (c : Nat) (f : Core → Core) : (s.updCore c f).fleet = s.fleet := rfl
@[simp] theorem State.updCore_msix (s : State) (c : Nat) (f : Core → Core) : (s.updCore c f).msix = s.msix := rfl
@[simp] theorem State.updCore_msixTable (s : State) (c : Nat) (f : Core → Core) : (s.updCore c f).msixTable = s.msixTable := rfl
@[simp] theorem State.updCore_msixPending (s : State) (c : Nat) (f : Core → Core) : (s.updCore c f).msixPending = s.msixPending := rfl
@[simp] theorem State.updCore_behind (s : State) (c : Nat) (f : Core → Core) : (s.updCore c f).behind = s.behind := rfl
@[simp] theorem State.updCore_noted (s : State) (c : Nat) (f : Core → Core) : (s.updCore c f).noted = s.noted := rfl
@[simp] theorem State.updCore_lag (s : State) (c : Nat) (f : Core → Core) : (s.updCore c f).lag = s.lag := rfl
@[simp] theorem State.updCore_time (s : State) (c : Nat) (f : Core → Core) : (s.updCore c f).time = s.time := rfl
@[simp] theorem State.updCore_agenda (s : State) (c : Nat) (f : Core → Core) : (s.updCore c f).agenda = s.agenda := rfl
@[simp] theorem State.updCore_turn (s : State) (c : Nat) (f : Core → Core) : (s.updCore c f).turn = s.turn := rfl
@[simp] theorem State.updCore_cur (s : State) (c : Nat) (f : Core → Core) : (s.updCore c f).cur = s.cur := rfl
@[simp] theorem State.updCore_nextId (s : State) (c : Nat) (f : Core → Core) : (s.updCore c f).nextId = s.nextId := rfl
@[simp] theorem State.updCore_tick (s : State) (c : Nat) (f : Core → Core) : (s.updCore c f).tick = s.tick := rfl
@[simp] theorem State.updCore_draws (s : State) (c : Nat) (f : Core → Core) : (s.updCore c f).draws = s.draws := rfl
@[simp] theorem State.updCore_readData (s : State) (c : Nat) (f : Core → Core) : (s.updCore c f).readData = s.readData := rfl
@[simp] theorem State.updCore_readEnd (s : State) (c : Nat) (f : Core → Core) : (s.updCore c f).readEnd = s.readEnd := rfl

/-! ### updCurCore -/
@[simp] theorem State.updCurCore_mem (s : State) (f : Core → Core) : (s.updCurCore f).mem = s.mem := rfl
@[simp] theorem State.updCurCore_enc (s : State) (f : Core → Core) : (s.updCurCore f).enc = s.enc := rfl
@[simp] theorem State.updCurCore_poison (s : State) (f : Core → Core) : (s.updCurCore f).poison = s.poison := rfl
@[simp] theorem State.updCurCore_l2 (s : State) (f : Core → Core) : (s.updCurCore f).l2 = s.l2 := rfl
@[simp] theorem State.updCurCore_wgs (s : State) (f : Core → Core) : (s.updCurCore f).wgs = s.wgs := rfl
@[simp] theorem State.updCurCore_grids (s : State) (f : Core → Core) : (s.updCurCore f).grids = s.grids := rfl
@[simp] theorem State.updCurCore_clusters (s : State) (f : Core → Core) : (s.updCurCore f).clusters = s.clusters := rfl
@[simp] theorem State.updCurCore_saved (s : State) (f : Core → Core) : (s.updCurCore f).saved = s.saved := rfl
@[simp] theorem State.updCurCore_ctxs (s : State) (f : Core → Core) : (s.updCurCore f).ctxs = s.ctxs := rfl
@[simp] theorem State.updCurCore_queues (s : State) (f : Core → Core) : (s.updCurCore f).queues = s.queues := rfl
@[simp] theorem State.updCurCore_timelines (s : State) (f : Core → Core) : (s.updCurCore f).timelines = s.timelines := rfl
@[simp] theorem State.updCurCore_walks (s : State) (f : Core → Core) : (s.updCurCore f).walks = s.walks := rfl
@[simp] theorem State.updCurCore_invals (s : State) (f : Core → Core) : (s.updCurCore f).invals = s.invals := rfl
@[simp] theorem State.updCurCore_served (s : State) (f : Core → Core) : (s.updCurCore f).served = s.served := rfl
@[simp] theorem State.updCurCore_ctxtab (s : State) (f : Core → Core) : (s.updCurCore f).ctxtab = s.ctxtab := rfl
@[simp] theorem State.updCurCore_ctxcmd (s : State) (f : Core → Core) : (s.updCurCore f).ctxcmd = s.ctxcmd := rfl
@[simp] theorem State.updCurCore_tlbcmd (s : State) (f : Core → Core) : (s.updCurCore f).tlbcmd = s.tlbcmd := rfl
@[simp] theorem State.updCurCore_tlbva (s : State) (f : Core → Core) : (s.updCurCore f).tlbva = s.tlbva := rfl
@[simp] theorem State.updCurCore_rtcmd (s : State) (f : Core → Core) : (s.updCurCore f).rtcmd = s.rtcmd := rfl
@[simp] theorem State.updCurCore_rtaddr (s : State) (f : Core → Core) : (s.updCurCore f).rtaddr = s.rtaddr := rfl
@[simp] theorem State.updCurCore_routines (s : State) (f : Core → Core) : (s.updCurCore f).routines = s.routines := rfl
@[simp] theorem State.updCurCore_compctl (s : State) (f : Core → Core) : (s.updCurCore f).compctl = s.compctl := rfl
@[simp] theorem State.updCurCore_compcnt (s : State) (f : Core → Core) : (s.updCurCore f).compcnt = s.compcnt := rfl
@[simp] theorem State.updCurCore_dedup (s : State) (f : Core → Core) : (s.updCurCore f).dedup = s.dedup := rfl
@[simp] theorem State.updCurCore_fleet (s : State) (f : Core → Core) : (s.updCurCore f).fleet = s.fleet := rfl
@[simp] theorem State.updCurCore_msix (s : State) (f : Core → Core) : (s.updCurCore f).msix = s.msix := rfl
@[simp] theorem State.updCurCore_msixTable (s : State) (f : Core → Core) : (s.updCurCore f).msixTable = s.msixTable := rfl
@[simp] theorem State.updCurCore_msixPending (s : State) (f : Core → Core) : (s.updCurCore f).msixPending = s.msixPending := rfl
@[simp] theorem State.updCurCore_behind (s : State) (f : Core → Core) : (s.updCurCore f).behind = s.behind := rfl
@[simp] theorem State.updCurCore_noted (s : State) (f : Core → Core) : (s.updCurCore f).noted = s.noted := rfl
@[simp] theorem State.updCurCore_lag (s : State) (f : Core → Core) : (s.updCurCore f).lag = s.lag := rfl
@[simp] theorem State.updCurCore_time (s : State) (f : Core → Core) : (s.updCurCore f).time = s.time := rfl
@[simp] theorem State.updCurCore_agenda (s : State) (f : Core → Core) : (s.updCurCore f).agenda = s.agenda := rfl
@[simp] theorem State.updCurCore_turn (s : State) (f : Core → Core) : (s.updCurCore f).turn = s.turn := rfl
@[simp] theorem State.updCurCore_cur (s : State) (f : Core → Core) : (s.updCurCore f).cur = s.cur := rfl
@[simp] theorem State.updCurCore_nextId (s : State) (f : Core → Core) : (s.updCurCore f).nextId = s.nextId := rfl
@[simp] theorem State.updCurCore_tick (s : State) (f : Core → Core) : (s.updCurCore f).tick = s.tick := rfl
@[simp] theorem State.updCurCore_draws (s : State) (f : Core → Core) : (s.updCurCore f).draws = s.draws := rfl
@[simp] theorem State.updCurCore_readData (s : State) (f : Core → Core) : (s.updCurCore f).readData = s.readData := rfl
@[simp] theorem State.updCurCore_readEnd (s : State) (f : Core → Core) : (s.updCurCore f).readEnd = s.readEnd := rfl

/-! ### updCtx -/
@[simp] theorem State.updCtx_mem (s : State) (n : Nat) (f : Context → Context) : (s.updCtx n f).mem = s.mem := rfl
@[simp] theorem State.updCtx_enc (s : State) (n : Nat) (f : Context → Context) : (s.updCtx n f).enc = s.enc := rfl
@[simp] theorem State.updCtx_poison (s : State) (n : Nat) (f : Context → Context) : (s.updCtx n f).poison = s.poison := rfl
@[simp] theorem State.updCtx_l2 (s : State) (n : Nat) (f : Context → Context) : (s.updCtx n f).l2 = s.l2 := rfl
@[simp] theorem State.updCtx_cores (s : State) (n : Nat) (f : Context → Context) : (s.updCtx n f).cores = s.cores := rfl
@[simp] theorem State.updCtx_wgs (s : State) (n : Nat) (f : Context → Context) : (s.updCtx n f).wgs = s.wgs := rfl
@[simp] theorem State.updCtx_grids (s : State) (n : Nat) (f : Context → Context) : (s.updCtx n f).grids = s.grids := rfl
@[simp] theorem State.updCtx_clusters (s : State) (n : Nat) (f : Context → Context) : (s.updCtx n f).clusters = s.clusters := rfl
@[simp] theorem State.updCtx_saved (s : State) (n : Nat) (f : Context → Context) : (s.updCtx n f).saved = s.saved := rfl
@[simp] theorem State.updCtx_queues (s : State) (n : Nat) (f : Context → Context) : (s.updCtx n f).queues = s.queues := rfl
@[simp] theorem State.updCtx_timelines (s : State) (n : Nat) (f : Context → Context) : (s.updCtx n f).timelines = s.timelines := rfl
@[simp] theorem State.updCtx_walks (s : State) (n : Nat) (f : Context → Context) : (s.updCtx n f).walks = s.walks := rfl
@[simp] theorem State.updCtx_invals (s : State) (n : Nat) (f : Context → Context) : (s.updCtx n f).invals = s.invals := rfl
@[simp] theorem State.updCtx_served (s : State) (n : Nat) (f : Context → Context) : (s.updCtx n f).served = s.served := rfl
@[simp] theorem State.updCtx_ctxtab (s : State) (n : Nat) (f : Context → Context) : (s.updCtx n f).ctxtab = s.ctxtab := rfl
@[simp] theorem State.updCtx_ctxcmd (s : State) (n : Nat) (f : Context → Context) : (s.updCtx n f).ctxcmd = s.ctxcmd := rfl
@[simp] theorem State.updCtx_tlbcmd (s : State) (n : Nat) (f : Context → Context) : (s.updCtx n f).tlbcmd = s.tlbcmd := rfl
@[simp] theorem State.updCtx_tlbva (s : State) (n : Nat) (f : Context → Context) : (s.updCtx n f).tlbva = s.tlbva := rfl
@[simp] theorem State.updCtx_rtcmd (s : State) (n : Nat) (f : Context → Context) : (s.updCtx n f).rtcmd = s.rtcmd := rfl
@[simp] theorem State.updCtx_rtaddr (s : State) (n : Nat) (f : Context → Context) : (s.updCtx n f).rtaddr = s.rtaddr := rfl
@[simp] theorem State.updCtx_routines (s : State) (n : Nat) (f : Context → Context) : (s.updCtx n f).routines = s.routines := rfl
@[simp] theorem State.updCtx_compctl (s : State) (n : Nat) (f : Context → Context) : (s.updCtx n f).compctl = s.compctl := rfl
@[simp] theorem State.updCtx_compcnt (s : State) (n : Nat) (f : Context → Context) : (s.updCtx n f).compcnt = s.compcnt := rfl
@[simp] theorem State.updCtx_dedup (s : State) (n : Nat) (f : Context → Context) : (s.updCtx n f).dedup = s.dedup := rfl
@[simp] theorem State.updCtx_fleet (s : State) (n : Nat) (f : Context → Context) : (s.updCtx n f).fleet = s.fleet := rfl
@[simp] theorem State.updCtx_msix (s : State) (n : Nat) (f : Context → Context) : (s.updCtx n f).msix = s.msix := rfl
@[simp] theorem State.updCtx_msixTable (s : State) (n : Nat) (f : Context → Context) : (s.updCtx n f).msixTable = s.msixTable := rfl
@[simp] theorem State.updCtx_msixPending (s : State) (n : Nat) (f : Context → Context) : (s.updCtx n f).msixPending = s.msixPending := rfl
@[simp] theorem State.updCtx_behind (s : State) (n : Nat) (f : Context → Context) : (s.updCtx n f).behind = s.behind := rfl
@[simp] theorem State.updCtx_noted (s : State) (n : Nat) (f : Context → Context) : (s.updCtx n f).noted = s.noted := rfl
@[simp] theorem State.updCtx_lag (s : State) (n : Nat) (f : Context → Context) : (s.updCtx n f).lag = s.lag := rfl
@[simp] theorem State.updCtx_time (s : State) (n : Nat) (f : Context → Context) : (s.updCtx n f).time = s.time := rfl
@[simp] theorem State.updCtx_agenda (s : State) (n : Nat) (f : Context → Context) : (s.updCtx n f).agenda = s.agenda := rfl
@[simp] theorem State.updCtx_turn (s : State) (n : Nat) (f : Context → Context) : (s.updCtx n f).turn = s.turn := rfl
@[simp] theorem State.updCtx_cur (s : State) (n : Nat) (f : Context → Context) : (s.updCtx n f).cur = s.cur := rfl
@[simp] theorem State.updCtx_nextId (s : State) (n : Nat) (f : Context → Context) : (s.updCtx n f).nextId = s.nextId := rfl
@[simp] theorem State.updCtx_tick (s : State) (n : Nat) (f : Context → Context) : (s.updCtx n f).tick = s.tick := rfl
@[simp] theorem State.updCtx_draws (s : State) (n : Nat) (f : Context → Context) : (s.updCtx n f).draws = s.draws := rfl
@[simp] theorem State.updCtx_readData (s : State) (n : Nat) (f : Context → Context) : (s.updCtx n f).readData = s.readData := rfl
@[simp] theorem State.updCtx_readEnd (s : State) (n : Nat) (f : Context → Context) : (s.updCtx n f).readEnd = s.readEnd := rfl

/-! ### updQueue -/
@[simp] theorem State.updQueue_mem (s : State) (n : Nat) (f : Queue → Queue) : (s.updQueue n f).mem = s.mem := rfl
@[simp] theorem State.updQueue_enc (s : State) (n : Nat) (f : Queue → Queue) : (s.updQueue n f).enc = s.enc := rfl
@[simp] theorem State.updQueue_poison (s : State) (n : Nat) (f : Queue → Queue) : (s.updQueue n f).poison = s.poison := rfl
@[simp] theorem State.updQueue_l2 (s : State) (n : Nat) (f : Queue → Queue) : (s.updQueue n f).l2 = s.l2 := rfl
@[simp] theorem State.updQueue_cores (s : State) (n : Nat) (f : Queue → Queue) : (s.updQueue n f).cores = s.cores := rfl
@[simp] theorem State.updQueue_wgs (s : State) (n : Nat) (f : Queue → Queue) : (s.updQueue n f).wgs = s.wgs := rfl
@[simp] theorem State.updQueue_grids (s : State) (n : Nat) (f : Queue → Queue) : (s.updQueue n f).grids = s.grids := rfl
@[simp] theorem State.updQueue_clusters (s : State) (n : Nat) (f : Queue → Queue) : (s.updQueue n f).clusters = s.clusters := rfl
@[simp] theorem State.updQueue_saved (s : State) (n : Nat) (f : Queue → Queue) : (s.updQueue n f).saved = s.saved := rfl
@[simp] theorem State.updQueue_ctxs (s : State) (n : Nat) (f : Queue → Queue) : (s.updQueue n f).ctxs = s.ctxs := rfl
@[simp] theorem State.updQueue_timelines (s : State) (n : Nat) (f : Queue → Queue) : (s.updQueue n f).timelines = s.timelines := rfl
@[simp] theorem State.updQueue_walks (s : State) (n : Nat) (f : Queue → Queue) : (s.updQueue n f).walks = s.walks := rfl
@[simp] theorem State.updQueue_invals (s : State) (n : Nat) (f : Queue → Queue) : (s.updQueue n f).invals = s.invals := rfl
@[simp] theorem State.updQueue_served (s : State) (n : Nat) (f : Queue → Queue) : (s.updQueue n f).served = s.served := rfl
@[simp] theorem State.updQueue_ctxtab (s : State) (n : Nat) (f : Queue → Queue) : (s.updQueue n f).ctxtab = s.ctxtab := rfl
@[simp] theorem State.updQueue_ctxcmd (s : State) (n : Nat) (f : Queue → Queue) : (s.updQueue n f).ctxcmd = s.ctxcmd := rfl
@[simp] theorem State.updQueue_tlbcmd (s : State) (n : Nat) (f : Queue → Queue) : (s.updQueue n f).tlbcmd = s.tlbcmd := rfl
@[simp] theorem State.updQueue_tlbva (s : State) (n : Nat) (f : Queue → Queue) : (s.updQueue n f).tlbva = s.tlbva := rfl
@[simp] theorem State.updQueue_rtcmd (s : State) (n : Nat) (f : Queue → Queue) : (s.updQueue n f).rtcmd = s.rtcmd := rfl
@[simp] theorem State.updQueue_rtaddr (s : State) (n : Nat) (f : Queue → Queue) : (s.updQueue n f).rtaddr = s.rtaddr := rfl
@[simp] theorem State.updQueue_routines (s : State) (n : Nat) (f : Queue → Queue) : (s.updQueue n f).routines = s.routines := rfl
@[simp] theorem State.updQueue_compctl (s : State) (n : Nat) (f : Queue → Queue) : (s.updQueue n f).compctl = s.compctl := rfl
@[simp] theorem State.updQueue_compcnt (s : State) (n : Nat) (f : Queue → Queue) : (s.updQueue n f).compcnt = s.compcnt := rfl
@[simp] theorem State.updQueue_dedup (s : State) (n : Nat) (f : Queue → Queue) : (s.updQueue n f).dedup = s.dedup := rfl
@[simp] theorem State.updQueue_fleet (s : State) (n : Nat) (f : Queue → Queue) : (s.updQueue n f).fleet = s.fleet := rfl
@[simp] theorem State.updQueue_msix (s : State) (n : Nat) (f : Queue → Queue) : (s.updQueue n f).msix = s.msix := rfl
@[simp] theorem State.updQueue_msixTable (s : State) (n : Nat) (f : Queue → Queue) : (s.updQueue n f).msixTable = s.msixTable := rfl
@[simp] theorem State.updQueue_msixPending (s : State) (n : Nat) (f : Queue → Queue) : (s.updQueue n f).msixPending = s.msixPending := rfl
@[simp] theorem State.updQueue_behind (s : State) (n : Nat) (f : Queue → Queue) : (s.updQueue n f).behind = s.behind := rfl
@[simp] theorem State.updQueue_noted (s : State) (n : Nat) (f : Queue → Queue) : (s.updQueue n f).noted = s.noted := rfl
@[simp] theorem State.updQueue_lag (s : State) (n : Nat) (f : Queue → Queue) : (s.updQueue n f).lag = s.lag := rfl
@[simp] theorem State.updQueue_time (s : State) (n : Nat) (f : Queue → Queue) : (s.updQueue n f).time = s.time := rfl
@[simp] theorem State.updQueue_agenda (s : State) (n : Nat) (f : Queue → Queue) : (s.updQueue n f).agenda = s.agenda := rfl
@[simp] theorem State.updQueue_turn (s : State) (n : Nat) (f : Queue → Queue) : (s.updQueue n f).turn = s.turn := rfl
@[simp] theorem State.updQueue_cur (s : State) (n : Nat) (f : Queue → Queue) : (s.updQueue n f).cur = s.cur := rfl
@[simp] theorem State.updQueue_nextId (s : State) (n : Nat) (f : Queue → Queue) : (s.updQueue n f).nextId = s.nextId := rfl
@[simp] theorem State.updQueue_tick (s : State) (n : Nat) (f : Queue → Queue) : (s.updQueue n f).tick = s.tick := rfl
@[simp] theorem State.updQueue_draws (s : State) (n : Nat) (f : Queue → Queue) : (s.updQueue n f).draws = s.draws := rfl
@[simp] theorem State.updQueue_readData (s : State) (n : Nat) (f : Queue → Queue) : (s.updQueue n f).readData = s.readData := rfl
@[simp] theorem State.updQueue_readEnd (s : State) (n : Nat) (f : Queue → Queue) : (s.updQueue n f).readEnd = s.readEnd := rfl

/-! ### updGrid -/
@[simp] theorem State.updGrid_mem (s : State) (n : Nat) (f : Grid → Grid) : (s.updGrid n f).mem = s.mem := rfl
@[simp] theorem State.updGrid_enc (s : State) (n : Nat) (f : Grid → Grid) : (s.updGrid n f).enc = s.enc := rfl
@[simp] theorem State.updGrid_poison (s : State) (n : Nat) (f : Grid → Grid) : (s.updGrid n f).poison = s.poison := rfl
@[simp] theorem State.updGrid_l2 (s : State) (n : Nat) (f : Grid → Grid) : (s.updGrid n f).l2 = s.l2 := rfl
@[simp] theorem State.updGrid_cores (s : State) (n : Nat) (f : Grid → Grid) : (s.updGrid n f).cores = s.cores := rfl
@[simp] theorem State.updGrid_wgs (s : State) (n : Nat) (f : Grid → Grid) : (s.updGrid n f).wgs = s.wgs := rfl
@[simp] theorem State.updGrid_clusters (s : State) (n : Nat) (f : Grid → Grid) : (s.updGrid n f).clusters = s.clusters := rfl
@[simp] theorem State.updGrid_saved (s : State) (n : Nat) (f : Grid → Grid) : (s.updGrid n f).saved = s.saved := rfl
@[simp] theorem State.updGrid_ctxs (s : State) (n : Nat) (f : Grid → Grid) : (s.updGrid n f).ctxs = s.ctxs := rfl
@[simp] theorem State.updGrid_queues (s : State) (n : Nat) (f : Grid → Grid) : (s.updGrid n f).queues = s.queues := rfl
@[simp] theorem State.updGrid_timelines (s : State) (n : Nat) (f : Grid → Grid) : (s.updGrid n f).timelines = s.timelines := rfl
@[simp] theorem State.updGrid_walks (s : State) (n : Nat) (f : Grid → Grid) : (s.updGrid n f).walks = s.walks := rfl
@[simp] theorem State.updGrid_invals (s : State) (n : Nat) (f : Grid → Grid) : (s.updGrid n f).invals = s.invals := rfl
@[simp] theorem State.updGrid_served (s : State) (n : Nat) (f : Grid → Grid) : (s.updGrid n f).served = s.served := rfl
@[simp] theorem State.updGrid_ctxtab (s : State) (n : Nat) (f : Grid → Grid) : (s.updGrid n f).ctxtab = s.ctxtab := rfl
@[simp] theorem State.updGrid_ctxcmd (s : State) (n : Nat) (f : Grid → Grid) : (s.updGrid n f).ctxcmd = s.ctxcmd := rfl
@[simp] theorem State.updGrid_tlbcmd (s : State) (n : Nat) (f : Grid → Grid) : (s.updGrid n f).tlbcmd = s.tlbcmd := rfl
@[simp] theorem State.updGrid_tlbva (s : State) (n : Nat) (f : Grid → Grid) : (s.updGrid n f).tlbva = s.tlbva := rfl
@[simp] theorem State.updGrid_rtcmd (s : State) (n : Nat) (f : Grid → Grid) : (s.updGrid n f).rtcmd = s.rtcmd := rfl
@[simp] theorem State.updGrid_rtaddr (s : State) (n : Nat) (f : Grid → Grid) : (s.updGrid n f).rtaddr = s.rtaddr := rfl
@[simp] theorem State.updGrid_routines (s : State) (n : Nat) (f : Grid → Grid) : (s.updGrid n f).routines = s.routines := rfl
@[simp] theorem State.updGrid_compctl (s : State) (n : Nat) (f : Grid → Grid) : (s.updGrid n f).compctl = s.compctl := rfl
@[simp] theorem State.updGrid_compcnt (s : State) (n : Nat) (f : Grid → Grid) : (s.updGrid n f).compcnt = s.compcnt := rfl
@[simp] theorem State.updGrid_dedup (s : State) (n : Nat) (f : Grid → Grid) : (s.updGrid n f).dedup = s.dedup := rfl
@[simp] theorem State.updGrid_fleet (s : State) (n : Nat) (f : Grid → Grid) : (s.updGrid n f).fleet = s.fleet := rfl
@[simp] theorem State.updGrid_msix (s : State) (n : Nat) (f : Grid → Grid) : (s.updGrid n f).msix = s.msix := rfl
@[simp] theorem State.updGrid_msixTable (s : State) (n : Nat) (f : Grid → Grid) : (s.updGrid n f).msixTable = s.msixTable := rfl
@[simp] theorem State.updGrid_msixPending (s : State) (n : Nat) (f : Grid → Grid) : (s.updGrid n f).msixPending = s.msixPending := rfl
@[simp] theorem State.updGrid_behind (s : State) (n : Nat) (f : Grid → Grid) : (s.updGrid n f).behind = s.behind := rfl
@[simp] theorem State.updGrid_noted (s : State) (n : Nat) (f : Grid → Grid) : (s.updGrid n f).noted = s.noted := rfl
@[simp] theorem State.updGrid_lag (s : State) (n : Nat) (f : Grid → Grid) : (s.updGrid n f).lag = s.lag := rfl
@[simp] theorem State.updGrid_time (s : State) (n : Nat) (f : Grid → Grid) : (s.updGrid n f).time = s.time := rfl
@[simp] theorem State.updGrid_agenda (s : State) (n : Nat) (f : Grid → Grid) : (s.updGrid n f).agenda = s.agenda := rfl
@[simp] theorem State.updGrid_turn (s : State) (n : Nat) (f : Grid → Grid) : (s.updGrid n f).turn = s.turn := rfl
@[simp] theorem State.updGrid_cur (s : State) (n : Nat) (f : Grid → Grid) : (s.updGrid n f).cur = s.cur := rfl
@[simp] theorem State.updGrid_nextId (s : State) (n : Nat) (f : Grid → Grid) : (s.updGrid n f).nextId = s.nextId := rfl
@[simp] theorem State.updGrid_tick (s : State) (n : Nat) (f : Grid → Grid) : (s.updGrid n f).tick = s.tick := rfl
@[simp] theorem State.updGrid_draws (s : State) (n : Nat) (f : Grid → Grid) : (s.updGrid n f).draws = s.draws := rfl
@[simp] theorem State.updGrid_readData (s : State) (n : Nat) (f : Grid → Grid) : (s.updGrid n f).readData = s.readData := rfl
@[simp] theorem State.updGrid_readEnd (s : State) (n : Nat) (f : Grid → Grid) : (s.updGrid n f).readEnd = s.readEnd := rfl

/-! ### updCluster -/
@[simp] theorem State.updCluster_mem (s : State) (n : Nat) (f : Cluster → Cluster) : (s.updCluster n f).mem = s.mem := rfl
@[simp] theorem State.updCluster_enc (s : State) (n : Nat) (f : Cluster → Cluster) : (s.updCluster n f).enc = s.enc := rfl
@[simp] theorem State.updCluster_poison (s : State) (n : Nat) (f : Cluster → Cluster) : (s.updCluster n f).poison = s.poison := rfl
@[simp] theorem State.updCluster_l2 (s : State) (n : Nat) (f : Cluster → Cluster) : (s.updCluster n f).l2 = s.l2 := rfl
@[simp] theorem State.updCluster_cores (s : State) (n : Nat) (f : Cluster → Cluster) : (s.updCluster n f).cores = s.cores := rfl
@[simp] theorem State.updCluster_wgs (s : State) (n : Nat) (f : Cluster → Cluster) : (s.updCluster n f).wgs = s.wgs := rfl
@[simp] theorem State.updCluster_grids (s : State) (n : Nat) (f : Cluster → Cluster) : (s.updCluster n f).grids = s.grids := rfl
@[simp] theorem State.updCluster_saved (s : State) (n : Nat) (f : Cluster → Cluster) : (s.updCluster n f).saved = s.saved := rfl
@[simp] theorem State.updCluster_ctxs (s : State) (n : Nat) (f : Cluster → Cluster) : (s.updCluster n f).ctxs = s.ctxs := rfl
@[simp] theorem State.updCluster_queues (s : State) (n : Nat) (f : Cluster → Cluster) : (s.updCluster n f).queues = s.queues := rfl
@[simp] theorem State.updCluster_timelines (s : State) (n : Nat) (f : Cluster → Cluster) : (s.updCluster n f).timelines = s.timelines := rfl
@[simp] theorem State.updCluster_walks (s : State) (n : Nat) (f : Cluster → Cluster) : (s.updCluster n f).walks = s.walks := rfl
@[simp] theorem State.updCluster_invals (s : State) (n : Nat) (f : Cluster → Cluster) : (s.updCluster n f).invals = s.invals := rfl
@[simp] theorem State.updCluster_served (s : State) (n : Nat) (f : Cluster → Cluster) : (s.updCluster n f).served = s.served := rfl
@[simp] theorem State.updCluster_ctxtab (s : State) (n : Nat) (f : Cluster → Cluster) : (s.updCluster n f).ctxtab = s.ctxtab := rfl
@[simp] theorem State.updCluster_ctxcmd (s : State) (n : Nat) (f : Cluster → Cluster) : (s.updCluster n f).ctxcmd = s.ctxcmd := rfl
@[simp] theorem State.updCluster_tlbcmd (s : State) (n : Nat) (f : Cluster → Cluster) : (s.updCluster n f).tlbcmd = s.tlbcmd := rfl
@[simp] theorem State.updCluster_tlbva (s : State) (n : Nat) (f : Cluster → Cluster) : (s.updCluster n f).tlbva = s.tlbva := rfl
@[simp] theorem State.updCluster_rtcmd (s : State) (n : Nat) (f : Cluster → Cluster) : (s.updCluster n f).rtcmd = s.rtcmd := rfl
@[simp] theorem State.updCluster_rtaddr (s : State) (n : Nat) (f : Cluster → Cluster) : (s.updCluster n f).rtaddr = s.rtaddr := rfl
@[simp] theorem State.updCluster_routines (s : State) (n : Nat) (f : Cluster → Cluster) : (s.updCluster n f).routines = s.routines := rfl
@[simp] theorem State.updCluster_compctl (s : State) (n : Nat) (f : Cluster → Cluster) : (s.updCluster n f).compctl = s.compctl := rfl
@[simp] theorem State.updCluster_compcnt (s : State) (n : Nat) (f : Cluster → Cluster) : (s.updCluster n f).compcnt = s.compcnt := rfl
@[simp] theorem State.updCluster_dedup (s : State) (n : Nat) (f : Cluster → Cluster) : (s.updCluster n f).dedup = s.dedup := rfl
@[simp] theorem State.updCluster_fleet (s : State) (n : Nat) (f : Cluster → Cluster) : (s.updCluster n f).fleet = s.fleet := rfl
@[simp] theorem State.updCluster_msix (s : State) (n : Nat) (f : Cluster → Cluster) : (s.updCluster n f).msix = s.msix := rfl
@[simp] theorem State.updCluster_msixTable (s : State) (n : Nat) (f : Cluster → Cluster) : (s.updCluster n f).msixTable = s.msixTable := rfl
@[simp] theorem State.updCluster_msixPending (s : State) (n : Nat) (f : Cluster → Cluster) : (s.updCluster n f).msixPending = s.msixPending := rfl
@[simp] theorem State.updCluster_behind (s : State) (n : Nat) (f : Cluster → Cluster) : (s.updCluster n f).behind = s.behind := rfl
@[simp] theorem State.updCluster_noted (s : State) (n : Nat) (f : Cluster → Cluster) : (s.updCluster n f).noted = s.noted := rfl
@[simp] theorem State.updCluster_lag (s : State) (n : Nat) (f : Cluster → Cluster) : (s.updCluster n f).lag = s.lag := rfl
@[simp] theorem State.updCluster_time (s : State) (n : Nat) (f : Cluster → Cluster) : (s.updCluster n f).time = s.time := rfl
@[simp] theorem State.updCluster_agenda (s : State) (n : Nat) (f : Cluster → Cluster) : (s.updCluster n f).agenda = s.agenda := rfl
@[simp] theorem State.updCluster_turn (s : State) (n : Nat) (f : Cluster → Cluster) : (s.updCluster n f).turn = s.turn := rfl
@[simp] theorem State.updCluster_cur (s : State) (n : Nat) (f : Cluster → Cluster) : (s.updCluster n f).cur = s.cur := rfl
@[simp] theorem State.updCluster_nextId (s : State) (n : Nat) (f : Cluster → Cluster) : (s.updCluster n f).nextId = s.nextId := rfl
@[simp] theorem State.updCluster_tick (s : State) (n : Nat) (f : Cluster → Cluster) : (s.updCluster n f).tick = s.tick := rfl
@[simp] theorem State.updCluster_draws (s : State) (n : Nat) (f : Cluster → Cluster) : (s.updCluster n f).draws = s.draws := rfl
@[simp] theorem State.updCluster_readData (s : State) (n : Nat) (f : Cluster → Cluster) : (s.updCluster n f).readData = s.readData := rfl
@[simp] theorem State.updCluster_readEnd (s : State) (n : Nat) (f : Cluster → Cluster) : (s.updCluster n f).readEnd = s.readEnd := rfl

/-! ### updTimeline -/
@[simp] theorem State.updTimeline_mem (s : State) (ctx id : Nat) (f : Timeline → Timeline) : (s.updTimeline ctx id f).mem = s.mem := rfl
@[simp] theorem State.updTimeline_enc (s : State) (ctx id : Nat) (f : Timeline → Timeline) : (s.updTimeline ctx id f).enc = s.enc := rfl
@[simp] theorem State.updTimeline_poison (s : State) (ctx id : Nat) (f : Timeline → Timeline) : (s.updTimeline ctx id f).poison = s.poison := rfl
@[simp] theorem State.updTimeline_l2 (s : State) (ctx id : Nat) (f : Timeline → Timeline) : (s.updTimeline ctx id f).l2 = s.l2 := rfl
@[simp] theorem State.updTimeline_cores (s : State) (ctx id : Nat) (f : Timeline → Timeline) : (s.updTimeline ctx id f).cores = s.cores := rfl
@[simp] theorem State.updTimeline_wgs (s : State) (ctx id : Nat) (f : Timeline → Timeline) : (s.updTimeline ctx id f).wgs = s.wgs := rfl
@[simp] theorem State.updTimeline_grids (s : State) (ctx id : Nat) (f : Timeline → Timeline) : (s.updTimeline ctx id f).grids = s.grids := rfl
@[simp] theorem State.updTimeline_clusters (s : State) (ctx id : Nat) (f : Timeline → Timeline) : (s.updTimeline ctx id f).clusters = s.clusters := rfl
@[simp] theorem State.updTimeline_saved (s : State) (ctx id : Nat) (f : Timeline → Timeline) : (s.updTimeline ctx id f).saved = s.saved := rfl
@[simp] theorem State.updTimeline_ctxs (s : State) (ctx id : Nat) (f : Timeline → Timeline) : (s.updTimeline ctx id f).ctxs = s.ctxs := rfl
@[simp] theorem State.updTimeline_queues (s : State) (ctx id : Nat) (f : Timeline → Timeline) : (s.updTimeline ctx id f).queues = s.queues := rfl
@[simp] theorem State.updTimeline_walks (s : State) (ctx id : Nat) (f : Timeline → Timeline) : (s.updTimeline ctx id f).walks = s.walks := rfl
@[simp] theorem State.updTimeline_invals (s : State) (ctx id : Nat) (f : Timeline → Timeline) : (s.updTimeline ctx id f).invals = s.invals := rfl
@[simp] theorem State.updTimeline_served (s : State) (ctx id : Nat) (f : Timeline → Timeline) : (s.updTimeline ctx id f).served = s.served := rfl
@[simp] theorem State.updTimeline_ctxtab (s : State) (ctx id : Nat) (f : Timeline → Timeline) : (s.updTimeline ctx id f).ctxtab = s.ctxtab := rfl
@[simp] theorem State.updTimeline_ctxcmd (s : State) (ctx id : Nat) (f : Timeline → Timeline) : (s.updTimeline ctx id f).ctxcmd = s.ctxcmd := rfl
@[simp] theorem State.updTimeline_tlbcmd (s : State) (ctx id : Nat) (f : Timeline → Timeline) : (s.updTimeline ctx id f).tlbcmd = s.tlbcmd := rfl
@[simp] theorem State.updTimeline_tlbva (s : State) (ctx id : Nat) (f : Timeline → Timeline) : (s.updTimeline ctx id f).tlbva = s.tlbva := rfl
@[simp] theorem State.updTimeline_rtcmd (s : State) (ctx id : Nat) (f : Timeline → Timeline) : (s.updTimeline ctx id f).rtcmd = s.rtcmd := rfl
@[simp] theorem State.updTimeline_rtaddr (s : State) (ctx id : Nat) (f : Timeline → Timeline) : (s.updTimeline ctx id f).rtaddr = s.rtaddr := rfl
@[simp] theorem State.updTimeline_routines (s : State) (ctx id : Nat) (f : Timeline → Timeline) : (s.updTimeline ctx id f).routines = s.routines := rfl
@[simp] theorem State.updTimeline_compctl (s : State) (ctx id : Nat) (f : Timeline → Timeline) : (s.updTimeline ctx id f).compctl = s.compctl := rfl
@[simp] theorem State.updTimeline_compcnt (s : State) (ctx id : Nat) (f : Timeline → Timeline) : (s.updTimeline ctx id f).compcnt = s.compcnt := rfl
@[simp] theorem State.updTimeline_dedup (s : State) (ctx id : Nat) (f : Timeline → Timeline) : (s.updTimeline ctx id f).dedup = s.dedup := rfl
@[simp] theorem State.updTimeline_fleet (s : State) (ctx id : Nat) (f : Timeline → Timeline) : (s.updTimeline ctx id f).fleet = s.fleet := rfl
@[simp] theorem State.updTimeline_msix (s : State) (ctx id : Nat) (f : Timeline → Timeline) : (s.updTimeline ctx id f).msix = s.msix := rfl
@[simp] theorem State.updTimeline_msixTable (s : State) (ctx id : Nat) (f : Timeline → Timeline) : (s.updTimeline ctx id f).msixTable = s.msixTable := rfl
@[simp] theorem State.updTimeline_msixPending (s : State) (ctx id : Nat) (f : Timeline → Timeline) : (s.updTimeline ctx id f).msixPending = s.msixPending := rfl
@[simp] theorem State.updTimeline_behind (s : State) (ctx id : Nat) (f : Timeline → Timeline) : (s.updTimeline ctx id f).behind = s.behind := rfl
@[simp] theorem State.updTimeline_noted (s : State) (ctx id : Nat) (f : Timeline → Timeline) : (s.updTimeline ctx id f).noted = s.noted := rfl
@[simp] theorem State.updTimeline_lag (s : State) (ctx id : Nat) (f : Timeline → Timeline) : (s.updTimeline ctx id f).lag = s.lag := rfl
@[simp] theorem State.updTimeline_time (s : State) (ctx id : Nat) (f : Timeline → Timeline) : (s.updTimeline ctx id f).time = s.time := rfl
@[simp] theorem State.updTimeline_agenda (s : State) (ctx id : Nat) (f : Timeline → Timeline) : (s.updTimeline ctx id f).agenda = s.agenda := rfl
@[simp] theorem State.updTimeline_turn (s : State) (ctx id : Nat) (f : Timeline → Timeline) : (s.updTimeline ctx id f).turn = s.turn := rfl
@[simp] theorem State.updTimeline_cur (s : State) (ctx id : Nat) (f : Timeline → Timeline) : (s.updTimeline ctx id f).cur = s.cur := rfl
@[simp] theorem State.updTimeline_nextId (s : State) (ctx id : Nat) (f : Timeline → Timeline) : (s.updTimeline ctx id f).nextId = s.nextId := rfl
@[simp] theorem State.updTimeline_tick (s : State) (ctx id : Nat) (f : Timeline → Timeline) : (s.updTimeline ctx id f).tick = s.tick := rfl
@[simp] theorem State.updTimeline_draws (s : State) (ctx id : Nat) (f : Timeline → Timeline) : (s.updTimeline ctx id f).draws = s.draws := rfl
@[simp] theorem State.updTimeline_readData (s : State) (ctx id : Nat) (f : Timeline → Timeline) : (s.updTimeline ctx id f).readData = s.readData := rfl
@[simp] theorem State.updTimeline_readEnd (s : State) (ctx id : Nat) (f : Timeline → Timeline) : (s.updTimeline ctx id f).readEnd = s.readEnd := rfl

/-! ### updDd -/
@[simp] theorem State.updDd_mem (s : State) (die : Nat) (f : Dedup → Dedup) : (s.updDd die f).mem = s.mem := rfl
@[simp] theorem State.updDd_enc (s : State) (die : Nat) (f : Dedup → Dedup) : (s.updDd die f).enc = s.enc := rfl
@[simp] theorem State.updDd_poison (s : State) (die : Nat) (f : Dedup → Dedup) : (s.updDd die f).poison = s.poison := rfl
@[simp] theorem State.updDd_l2 (s : State) (die : Nat) (f : Dedup → Dedup) : (s.updDd die f).l2 = s.l2 := rfl
@[simp] theorem State.updDd_cores (s : State) (die : Nat) (f : Dedup → Dedup) : (s.updDd die f).cores = s.cores := rfl
@[simp] theorem State.updDd_wgs (s : State) (die : Nat) (f : Dedup → Dedup) : (s.updDd die f).wgs = s.wgs := rfl
@[simp] theorem State.updDd_grids (s : State) (die : Nat) (f : Dedup → Dedup) : (s.updDd die f).grids = s.grids := rfl
@[simp] theorem State.updDd_clusters (s : State) (die : Nat) (f : Dedup → Dedup) : (s.updDd die f).clusters = s.clusters := rfl
@[simp] theorem State.updDd_saved (s : State) (die : Nat) (f : Dedup → Dedup) : (s.updDd die f).saved = s.saved := rfl
@[simp] theorem State.updDd_ctxs (s : State) (die : Nat) (f : Dedup → Dedup) : (s.updDd die f).ctxs = s.ctxs := rfl
@[simp] theorem State.updDd_queues (s : State) (die : Nat) (f : Dedup → Dedup) : (s.updDd die f).queues = s.queues := rfl
@[simp] theorem State.updDd_timelines (s : State) (die : Nat) (f : Dedup → Dedup) : (s.updDd die f).timelines = s.timelines := rfl
@[simp] theorem State.updDd_walks (s : State) (die : Nat) (f : Dedup → Dedup) : (s.updDd die f).walks = s.walks := rfl
@[simp] theorem State.updDd_invals (s : State) (die : Nat) (f : Dedup → Dedup) : (s.updDd die f).invals = s.invals := rfl
@[simp] theorem State.updDd_served (s : State) (die : Nat) (f : Dedup → Dedup) : (s.updDd die f).served = s.served := rfl
@[simp] theorem State.updDd_ctxtab (s : State) (die : Nat) (f : Dedup → Dedup) : (s.updDd die f).ctxtab = s.ctxtab := rfl
@[simp] theorem State.updDd_ctxcmd (s : State) (die : Nat) (f : Dedup → Dedup) : (s.updDd die f).ctxcmd = s.ctxcmd := rfl
@[simp] theorem State.updDd_tlbcmd (s : State) (die : Nat) (f : Dedup → Dedup) : (s.updDd die f).tlbcmd = s.tlbcmd := rfl
@[simp] theorem State.updDd_tlbva (s : State) (die : Nat) (f : Dedup → Dedup) : (s.updDd die f).tlbva = s.tlbva := rfl
@[simp] theorem State.updDd_rtcmd (s : State) (die : Nat) (f : Dedup → Dedup) : (s.updDd die f).rtcmd = s.rtcmd := rfl
@[simp] theorem State.updDd_rtaddr (s : State) (die : Nat) (f : Dedup → Dedup) : (s.updDd die f).rtaddr = s.rtaddr := rfl
@[simp] theorem State.updDd_routines (s : State) (die : Nat) (f : Dedup → Dedup) : (s.updDd die f).routines = s.routines := rfl
@[simp] theorem State.updDd_compctl (s : State) (die : Nat) (f : Dedup → Dedup) : (s.updDd die f).compctl = s.compctl := rfl
@[simp] theorem State.updDd_compcnt (s : State) (die : Nat) (f : Dedup → Dedup) : (s.updDd die f).compcnt = s.compcnt := rfl
@[simp] theorem State.updDd_fleet (s : State) (die : Nat) (f : Dedup → Dedup) : (s.updDd die f).fleet = s.fleet := rfl
@[simp] theorem State.updDd_msix (s : State) (die : Nat) (f : Dedup → Dedup) : (s.updDd die f).msix = s.msix := rfl
@[simp] theorem State.updDd_msixTable (s : State) (die : Nat) (f : Dedup → Dedup) : (s.updDd die f).msixTable = s.msixTable := rfl
@[simp] theorem State.updDd_msixPending (s : State) (die : Nat) (f : Dedup → Dedup) : (s.updDd die f).msixPending = s.msixPending := rfl
@[simp] theorem State.updDd_behind (s : State) (die : Nat) (f : Dedup → Dedup) : (s.updDd die f).behind = s.behind := rfl
@[simp] theorem State.updDd_noted (s : State) (die : Nat) (f : Dedup → Dedup) : (s.updDd die f).noted = s.noted := rfl
@[simp] theorem State.updDd_lag (s : State) (die : Nat) (f : Dedup → Dedup) : (s.updDd die f).lag = s.lag := rfl
@[simp] theorem State.updDd_time (s : State) (die : Nat) (f : Dedup → Dedup) : (s.updDd die f).time = s.time := rfl
@[simp] theorem State.updDd_agenda (s : State) (die : Nat) (f : Dedup → Dedup) : (s.updDd die f).agenda = s.agenda := rfl
@[simp] theorem State.updDd_turn (s : State) (die : Nat) (f : Dedup → Dedup) : (s.updDd die f).turn = s.turn := rfl
@[simp] theorem State.updDd_cur (s : State) (die : Nat) (f : Dedup → Dedup) : (s.updDd die f).cur = s.cur := rfl
@[simp] theorem State.updDd_nextId (s : State) (die : Nat) (f : Dedup → Dedup) : (s.updDd die f).nextId = s.nextId := rfl
@[simp] theorem State.updDd_tick (s : State) (die : Nat) (f : Dedup → Dedup) : (s.updDd die f).tick = s.tick := rfl
@[simp] theorem State.updDd_draws (s : State) (die : Nat) (f : Dedup → Dedup) : (s.updDd die f).draws = s.draws := rfl
@[simp] theorem State.updDd_readData (s : State) (die : Nat) (f : Dedup → Dedup) : (s.updDd die f).readData = s.readData := rfl
@[simp] theorem State.updDd_readEnd (s : State) (die : Nat) (f : Dedup → Dedup) : (s.updDd die f).readEnd = s.readEnd := rfl

/-! ### setMemByte -/
@[simp] theorem State.setMemByte_enc (s : State) (pa : Nat) (b : Byte) : (s.setMemByte pa b).enc = s.enc := rfl
@[simp] theorem State.setMemByte_poison (s : State) (pa : Nat) (b : Byte) : (s.setMemByte pa b).poison = s.poison := rfl
@[simp] theorem State.setMemByte_l2 (s : State) (pa : Nat) (b : Byte) : (s.setMemByte pa b).l2 = s.l2 := rfl
@[simp] theorem State.setMemByte_cores (s : State) (pa : Nat) (b : Byte) : (s.setMemByte pa b).cores = s.cores := rfl
@[simp] theorem State.setMemByte_wgs (s : State) (pa : Nat) (b : Byte) : (s.setMemByte pa b).wgs = s.wgs := rfl
@[simp] theorem State.setMemByte_grids (s : State) (pa : Nat) (b : Byte) : (s.setMemByte pa b).grids = s.grids := rfl
@[simp] theorem State.setMemByte_clusters (s : State) (pa : Nat) (b : Byte) : (s.setMemByte pa b).clusters = s.clusters := rfl
@[simp] theorem State.setMemByte_saved (s : State) (pa : Nat) (b : Byte) : (s.setMemByte pa b).saved = s.saved := rfl
@[simp] theorem State.setMemByte_ctxs (s : State) (pa : Nat) (b : Byte) : (s.setMemByte pa b).ctxs = s.ctxs := rfl
@[simp] theorem State.setMemByte_queues (s : State) (pa : Nat) (b : Byte) : (s.setMemByte pa b).queues = s.queues := rfl
@[simp] theorem State.setMemByte_timelines (s : State) (pa : Nat) (b : Byte) : (s.setMemByte pa b).timelines = s.timelines := rfl
@[simp] theorem State.setMemByte_walks (s : State) (pa : Nat) (b : Byte) : (s.setMemByte pa b).walks = s.walks := rfl
@[simp] theorem State.setMemByte_invals (s : State) (pa : Nat) (b : Byte) : (s.setMemByte pa b).invals = s.invals := rfl
@[simp] theorem State.setMemByte_served (s : State) (pa : Nat) (b : Byte) : (s.setMemByte pa b).served = s.served := rfl
@[simp] theorem State.setMemByte_ctxtab (s : State) (pa : Nat) (b : Byte) : (s.setMemByte pa b).ctxtab = s.ctxtab := rfl
@[simp] theorem State.setMemByte_ctxcmd (s : State) (pa : Nat) (b : Byte) : (s.setMemByte pa b).ctxcmd = s.ctxcmd := rfl
@[simp] theorem State.setMemByte_tlbcmd (s : State) (pa : Nat) (b : Byte) : (s.setMemByte pa b).tlbcmd = s.tlbcmd := rfl
@[simp] theorem State.setMemByte_tlbva (s : State) (pa : Nat) (b : Byte) : (s.setMemByte pa b).tlbva = s.tlbva := rfl
@[simp] theorem State.setMemByte_rtcmd (s : State) (pa : Nat) (b : Byte) : (s.setMemByte pa b).rtcmd = s.rtcmd := rfl
@[simp] theorem State.setMemByte_rtaddr (s : State) (pa : Nat) (b : Byte) : (s.setMemByte pa b).rtaddr = s.rtaddr := rfl
@[simp] theorem State.setMemByte_routines (s : State) (pa : Nat) (b : Byte) : (s.setMemByte pa b).routines = s.routines := rfl
@[simp] theorem State.setMemByte_compctl (s : State) (pa : Nat) (b : Byte) : (s.setMemByte pa b).compctl = s.compctl := rfl
@[simp] theorem State.setMemByte_compcnt (s : State) (pa : Nat) (b : Byte) : (s.setMemByte pa b).compcnt = s.compcnt := rfl
@[simp] theorem State.setMemByte_dedup (s : State) (pa : Nat) (b : Byte) : (s.setMemByte pa b).dedup = s.dedup := rfl
@[simp] theorem State.setMemByte_fleet (s : State) (pa : Nat) (b : Byte) : (s.setMemByte pa b).fleet = s.fleet := rfl
@[simp] theorem State.setMemByte_msix (s : State) (pa : Nat) (b : Byte) : (s.setMemByte pa b).msix = s.msix := rfl
@[simp] theorem State.setMemByte_msixTable (s : State) (pa : Nat) (b : Byte) : (s.setMemByte pa b).msixTable = s.msixTable := rfl
@[simp] theorem State.setMemByte_msixPending (s : State) (pa : Nat) (b : Byte) : (s.setMemByte pa b).msixPending = s.msixPending := rfl
@[simp] theorem State.setMemByte_behind (s : State) (pa : Nat) (b : Byte) : (s.setMemByte pa b).behind = s.behind := rfl
@[simp] theorem State.setMemByte_noted (s : State) (pa : Nat) (b : Byte) : (s.setMemByte pa b).noted = s.noted := rfl
@[simp] theorem State.setMemByte_lag (s : State) (pa : Nat) (b : Byte) : (s.setMemByte pa b).lag = s.lag := rfl
@[simp] theorem State.setMemByte_time (s : State) (pa : Nat) (b : Byte) : (s.setMemByte pa b).time = s.time := rfl
@[simp] theorem State.setMemByte_agenda (s : State) (pa : Nat) (b : Byte) : (s.setMemByte pa b).agenda = s.agenda := rfl
@[simp] theorem State.setMemByte_turn (s : State) (pa : Nat) (b : Byte) : (s.setMemByte pa b).turn = s.turn := rfl
@[simp] theorem State.setMemByte_cur (s : State) (pa : Nat) (b : Byte) : (s.setMemByte pa b).cur = s.cur := rfl
@[simp] theorem State.setMemByte_nextId (s : State) (pa : Nat) (b : Byte) : (s.setMemByte pa b).nextId = s.nextId := rfl
@[simp] theorem State.setMemByte_tick (s : State) (pa : Nat) (b : Byte) : (s.setMemByte pa b).tick = s.tick := rfl
@[simp] theorem State.setMemByte_draws (s : State) (pa : Nat) (b : Byte) : (s.setMemByte pa b).draws = s.draws := rfl
@[simp] theorem State.setMemByte_readData (s : State) (pa : Nat) (b : Byte) : (s.setMemByte pa b).readData = s.readData := rfl
@[simp] theorem State.setMemByte_readEnd (s : State) (pa : Nat) (b : Byte) : (s.setMemByte pa b).readEnd = s.readEnd := rfl

/-! ### updFleet -/
@[simp] theorem State.updFleet_mem (s : State) (f : Fleet → Fleet) : (s.updFleet f).mem = s.mem := rfl
@[simp] theorem State.updFleet_enc (s : State) (f : Fleet → Fleet) : (s.updFleet f).enc = s.enc := rfl
@[simp] theorem State.updFleet_poison (s : State) (f : Fleet → Fleet) : (s.updFleet f).poison = s.poison := rfl
@[simp] theorem State.updFleet_l2 (s : State) (f : Fleet → Fleet) : (s.updFleet f).l2 = s.l2 := rfl
@[simp] theorem State.updFleet_cores (s : State) (f : Fleet → Fleet) : (s.updFleet f).cores = s.cores := rfl
@[simp] theorem State.updFleet_wgs (s : State) (f : Fleet → Fleet) : (s.updFleet f).wgs = s.wgs := rfl
@[simp] theorem State.updFleet_grids (s : State) (f : Fleet → Fleet) : (s.updFleet f).grids = s.grids := rfl
@[simp] theorem State.updFleet_clusters (s : State) (f : Fleet → Fleet) : (s.updFleet f).clusters = s.clusters := rfl
@[simp] theorem State.updFleet_saved (s : State) (f : Fleet → Fleet) : (s.updFleet f).saved = s.saved := rfl
@[simp] theorem State.updFleet_ctxs (s : State) (f : Fleet → Fleet) : (s.updFleet f).ctxs = s.ctxs := rfl
@[simp] theorem State.updFleet_queues (s : State) (f : Fleet → Fleet) : (s.updFleet f).queues = s.queues := rfl
@[simp] theorem State.updFleet_timelines (s : State) (f : Fleet → Fleet) : (s.updFleet f).timelines = s.timelines := rfl
@[simp] theorem State.updFleet_walks (s : State) (f : Fleet → Fleet) : (s.updFleet f).walks = s.walks := rfl
@[simp] theorem State.updFleet_invals (s : State) (f : Fleet → Fleet) : (s.updFleet f).invals = s.invals := rfl
@[simp] theorem State.updFleet_served (s : State) (f : Fleet → Fleet) : (s.updFleet f).served = s.served := rfl
@[simp] theorem State.updFleet_ctxtab (s : State) (f : Fleet → Fleet) : (s.updFleet f).ctxtab = s.ctxtab := rfl
@[simp] theorem State.updFleet_ctxcmd (s : State) (f : Fleet → Fleet) : (s.updFleet f).ctxcmd = s.ctxcmd := rfl
@[simp] theorem State.updFleet_tlbcmd (s : State) (f : Fleet → Fleet) : (s.updFleet f).tlbcmd = s.tlbcmd := rfl
@[simp] theorem State.updFleet_tlbva (s : State) (f : Fleet → Fleet) : (s.updFleet f).tlbva = s.tlbva := rfl
@[simp] theorem State.updFleet_rtcmd (s : State) (f : Fleet → Fleet) : (s.updFleet f).rtcmd = s.rtcmd := rfl
@[simp] theorem State.updFleet_rtaddr (s : State) (f : Fleet → Fleet) : (s.updFleet f).rtaddr = s.rtaddr := rfl
@[simp] theorem State.updFleet_routines (s : State) (f : Fleet → Fleet) : (s.updFleet f).routines = s.routines := rfl
@[simp] theorem State.updFleet_compctl (s : State) (f : Fleet → Fleet) : (s.updFleet f).compctl = s.compctl := rfl
@[simp] theorem State.updFleet_compcnt (s : State) (f : Fleet → Fleet) : (s.updFleet f).compcnt = s.compcnt := rfl
@[simp] theorem State.updFleet_dedup (s : State) (f : Fleet → Fleet) : (s.updFleet f).dedup = s.dedup := rfl
@[simp] theorem State.updFleet_msix (s : State) (f : Fleet → Fleet) : (s.updFleet f).msix = s.msix := rfl
@[simp] theorem State.updFleet_msixTable (s : State) (f : Fleet → Fleet) : (s.updFleet f).msixTable = s.msixTable := rfl
@[simp] theorem State.updFleet_msixPending (s : State) (f : Fleet → Fleet) : (s.updFleet f).msixPending = s.msixPending := rfl
@[simp] theorem State.updFleet_behind (s : State) (f : Fleet → Fleet) : (s.updFleet f).behind = s.behind := rfl
@[simp] theorem State.updFleet_noted (s : State) (f : Fleet → Fleet) : (s.updFleet f).noted = s.noted := rfl
@[simp] theorem State.updFleet_lag (s : State) (f : Fleet → Fleet) : (s.updFleet f).lag = s.lag := rfl
@[simp] theorem State.updFleet_time (s : State) (f : Fleet → Fleet) : (s.updFleet f).time = s.time := rfl
@[simp] theorem State.updFleet_agenda (s : State) (f : Fleet → Fleet) : (s.updFleet f).agenda = s.agenda := rfl
@[simp] theorem State.updFleet_turn (s : State) (f : Fleet → Fleet) : (s.updFleet f).turn = s.turn := rfl
@[simp] theorem State.updFleet_cur (s : State) (f : Fleet → Fleet) : (s.updFleet f).cur = s.cur := rfl
@[simp] theorem State.updFleet_nextId (s : State) (f : Fleet → Fleet) : (s.updFleet f).nextId = s.nextId := rfl
@[simp] theorem State.updFleet_tick (s : State) (f : Fleet → Fleet) : (s.updFleet f).tick = s.tick := rfl
@[simp] theorem State.updFleet_draws (s : State) (f : Fleet → Fleet) : (s.updFleet f).draws = s.draws := rfl
@[simp] theorem State.updFleet_readData (s : State) (f : Fleet → Fleet) : (s.updFleet f).readData = s.readData := rfl
@[simp] theorem State.updFleet_readEnd (s : State) (f : Fleet → Fleet) : (s.updFleet f).readEnd = s.readEnd := rfl

/-! ### signal -/
@[simp] theorem State.signal_mem (s : State) (v : Nat) : (s.signal v).mem = s.mem := rfl
@[simp] theorem State.signal_enc (s : State) (v : Nat) : (s.signal v).enc = s.enc := rfl
@[simp] theorem State.signal_poison (s : State) (v : Nat) : (s.signal v).poison = s.poison := rfl
@[simp] theorem State.signal_l2 (s : State) (v : Nat) : (s.signal v).l2 = s.l2 := rfl
@[simp] theorem State.signal_cores (s : State) (v : Nat) : (s.signal v).cores = s.cores := rfl
@[simp] theorem State.signal_wgs (s : State) (v : Nat) : (s.signal v).wgs = s.wgs := rfl
@[simp] theorem State.signal_grids (s : State) (v : Nat) : (s.signal v).grids = s.grids := rfl
@[simp] theorem State.signal_clusters (s : State) (v : Nat) : (s.signal v).clusters = s.clusters := rfl
@[simp] theorem State.signal_saved (s : State) (v : Nat) : (s.signal v).saved = s.saved := rfl
@[simp] theorem State.signal_ctxs (s : State) (v : Nat) : (s.signal v).ctxs = s.ctxs := rfl
@[simp] theorem State.signal_queues (s : State) (v : Nat) : (s.signal v).queues = s.queues := rfl
@[simp] theorem State.signal_timelines (s : State) (v : Nat) : (s.signal v).timelines = s.timelines := rfl
@[simp] theorem State.signal_walks (s : State) (v : Nat) : (s.signal v).walks = s.walks := rfl
@[simp] theorem State.signal_invals (s : State) (v : Nat) : (s.signal v).invals = s.invals := rfl
@[simp] theorem State.signal_served (s : State) (v : Nat) : (s.signal v).served = s.served := rfl
@[simp] theorem State.signal_ctxtab (s : State) (v : Nat) : (s.signal v).ctxtab = s.ctxtab := rfl
@[simp] theorem State.signal_ctxcmd (s : State) (v : Nat) : (s.signal v).ctxcmd = s.ctxcmd := rfl
@[simp] theorem State.signal_tlbcmd (s : State) (v : Nat) : (s.signal v).tlbcmd = s.tlbcmd := rfl
@[simp] theorem State.signal_tlbva (s : State) (v : Nat) : (s.signal v).tlbva = s.tlbva := rfl
@[simp] theorem State.signal_rtcmd (s : State) (v : Nat) : (s.signal v).rtcmd = s.rtcmd := rfl
@[simp] theorem State.signal_rtaddr (s : State) (v : Nat) : (s.signal v).rtaddr = s.rtaddr := rfl
@[simp] theorem State.signal_routines (s : State) (v : Nat) : (s.signal v).routines = s.routines := rfl
@[simp] theorem State.signal_compctl (s : State) (v : Nat) : (s.signal v).compctl = s.compctl := rfl
@[simp] theorem State.signal_compcnt (s : State) (v : Nat) : (s.signal v).compcnt = s.compcnt := rfl
@[simp] theorem State.signal_dedup (s : State) (v : Nat) : (s.signal v).dedup = s.dedup := rfl
@[simp] theorem State.signal_fleet (s : State) (v : Nat) : (s.signal v).fleet = s.fleet := rfl
@[simp] theorem State.signal_time (s : State) (v : Nat) : (s.signal v).time = s.time := rfl
@[simp] theorem State.signal_agenda (s : State) (v : Nat) : (s.signal v).agenda = s.agenda := rfl
@[simp] theorem State.signal_turn (s : State) (v : Nat) : (s.signal v).turn = s.turn := rfl
@[simp] theorem State.signal_cur (s : State) (v : Nat) : (s.signal v).cur = s.cur := rfl
@[simp] theorem State.signal_nextId (s : State) (v : Nat) : (s.signal v).nextId = s.nextId := rfl
@[simp] theorem State.signal_tick (s : State) (v : Nat) : (s.signal v).tick = s.tick := rfl
@[simp] theorem State.signal_draws (s : State) (v : Nat) : (s.signal v).draws = s.draws := rfl
@[simp] theorem State.signal_readData (s : State) (v : Nat) : (s.signal v).readData = s.readData := rfl
@[simp] theorem State.signal_readEnd (s : State) (v : Nat) : (s.signal v).readEnd = s.readEnd := rfl

/-! ### actAs -/
@[simp] theorem State.actAs_mem (s : State) (g w n : Nat) : (s.actAs g w n).mem = s.mem := rfl
@[simp] theorem State.actAs_enc (s : State) (g w n : Nat) : (s.actAs g w n).enc = s.enc := rfl
@[simp] theorem State.actAs_poison (s : State) (g w n : Nat) : (s.actAs g w n).poison = s.poison := rfl
@[simp] theorem State.actAs_l2 (s : State) (g w n : Nat) : (s.actAs g w n).l2 = s.l2 := rfl
@[simp] theorem State.actAs_cores (s : State) (g w n : Nat) : (s.actAs g w n).cores = s.cores := rfl
@[simp] theorem State.actAs_wgs (s : State) (g w n : Nat) : (s.actAs g w n).wgs = s.wgs := rfl
@[simp] theorem State.actAs_grids (s : State) (g w n : Nat) : (s.actAs g w n).grids = s.grids := rfl
@[simp] theorem State.actAs_clusters (s : State) (g w n : Nat) : (s.actAs g w n).clusters = s.clusters := rfl
@[simp] theorem State.actAs_saved (s : State) (g w n : Nat) : (s.actAs g w n).saved = s.saved := rfl
@[simp] theorem State.actAs_ctxs (s : State) (g w n : Nat) : (s.actAs g w n).ctxs = s.ctxs := rfl
@[simp] theorem State.actAs_queues (s : State) (g w n : Nat) : (s.actAs g w n).queues = s.queues := rfl
@[simp] theorem State.actAs_timelines (s : State) (g w n : Nat) : (s.actAs g w n).timelines = s.timelines := rfl
@[simp] theorem State.actAs_walks (s : State) (g w n : Nat) : (s.actAs g w n).walks = s.walks := rfl
@[simp] theorem State.actAs_invals (s : State) (g w n : Nat) : (s.actAs g w n).invals = s.invals := rfl
@[simp] theorem State.actAs_served (s : State) (g w n : Nat) : (s.actAs g w n).served = s.served := rfl
@[simp] theorem State.actAs_ctxtab (s : State) (g w n : Nat) : (s.actAs g w n).ctxtab = s.ctxtab := rfl
@[simp] theorem State.actAs_ctxcmd (s : State) (g w n : Nat) : (s.actAs g w n).ctxcmd = s.ctxcmd := rfl
@[simp] theorem State.actAs_tlbcmd (s : State) (g w n : Nat) : (s.actAs g w n).tlbcmd = s.tlbcmd := rfl
@[simp] theorem State.actAs_tlbva (s : State) (g w n : Nat) : (s.actAs g w n).tlbva = s.tlbva := rfl
@[simp] theorem State.actAs_rtcmd (s : State) (g w n : Nat) : (s.actAs g w n).rtcmd = s.rtcmd := rfl
@[simp] theorem State.actAs_rtaddr (s : State) (g w n : Nat) : (s.actAs g w n).rtaddr = s.rtaddr := rfl
@[simp] theorem State.actAs_routines (s : State) (g w n : Nat) : (s.actAs g w n).routines = s.routines := rfl
@[simp] theorem State.actAs_compctl (s : State) (g w n : Nat) : (s.actAs g w n).compctl = s.compctl := rfl
@[simp] theorem State.actAs_compcnt (s : State) (g w n : Nat) : (s.actAs g w n).compcnt = s.compcnt := rfl
@[simp] theorem State.actAs_dedup (s : State) (g w n : Nat) : (s.actAs g w n).dedup = s.dedup := rfl
@[simp] theorem State.actAs_fleet (s : State) (g w n : Nat) : (s.actAs g w n).fleet = s.fleet := rfl
@[simp] theorem State.actAs_msix (s : State) (g w n : Nat) : (s.actAs g w n).msix = s.msix := rfl
@[simp] theorem State.actAs_msixTable (s : State) (g w n : Nat) : (s.actAs g w n).msixTable = s.msixTable := rfl
@[simp] theorem State.actAs_msixPending (s : State) (g w n : Nat) : (s.actAs g w n).msixPending = s.msixPending := rfl
@[simp] theorem State.actAs_behind (s : State) (g w n : Nat) : (s.actAs g w n).behind = s.behind := rfl
@[simp] theorem State.actAs_noted (s : State) (g w n : Nat) : (s.actAs g w n).noted = s.noted := rfl
@[simp] theorem State.actAs_lag (s : State) (g w n : Nat) : (s.actAs g w n).lag = s.lag := rfl
@[simp] theorem State.actAs_time (s : State) (g w n : Nat) : (s.actAs g w n).time = s.time := rfl
@[simp] theorem State.actAs_agenda (s : State) (g w n : Nat) : (s.actAs g w n).agenda = s.agenda := rfl
@[simp] theorem State.actAs_turn (s : State) (g w n : Nat) : (s.actAs g w n).turn = s.turn := rfl
@[simp] theorem State.actAs_nextId (s : State) (g w n : Nat) : (s.actAs g w n).nextId = s.nextId := rfl
@[simp] theorem State.actAs_tick (s : State) (g w n : Nat) : (s.actAs g w n).tick = s.tick := rfl
@[simp] theorem State.actAs_draws (s : State) (g w n : Nat) : (s.actAs g w n).draws = s.draws := rfl
@[simp] theorem State.actAs_readData (s : State) (g w n : Nat) : (s.actAs g w n).readData = s.readData := rfl
@[simp] theorem State.actAs_readEnd (s : State) (g w n : Nat) : (s.actAs g w n).readEnd = s.readEnd := rfl

/-! ### Parts after an update -/

@[simp] theorem State.wg_setWg_same (s : State) (g : Nat) (x : Workgroup) : (s.setWg g x).wg g = x := sget_sset_same _ _ _ _
theorem State.wg_setWg_other (s : State) (g h : Nat) (x : Workgroup) (n : h ≠ g) : (s.setWg g x).wg h = s.wg h :=
  sget_sset_other _ _ _ _ _ n
@[simp] theorem State.wg_updWg_same (s : State) (g : Nat) (f : Workgroup → Workgroup) : (s.updWg g f).wg g = f (s.wg g) :=
  s.wg_setWg_same g _
theorem State.wg_updWg_other (s : State) (g h : Nat) (f : Workgroup → Workgroup) (n : h ≠ g) : (s.updWg g f).wg h = s.wg h :=
  s.wg_setWg_other g h _ n
theorem State.wg_updWg (s : State) (g h : Nat) (f : Workgroup → Workgroup) :
    (s.updWg g f).wg h = if h = g then f (s.wg g) else s.wg h := by
  by_cases n : h = g
  · simp [n]
  · simp [n, s.wg_updWg_other g h f n]
@[simp] theorem Workgroup.warp_setWarp_same (x : Workgroup) (w : Nat) (y : Warp) : (x.setWarp w y).warp w = y := sget_sset_same _ _ _ _
theorem Workgroup.warp_setWarp_other (x : Workgroup) (w v : Nat) (y : Warp) (n : v ≠ w) : (x.setWarp w y).warp v = x.warp v :=
  sget_sset_other _ _ _ _ _ n
@[simp] theorem Warp.split_setSplit_same (x : Warp) (n : Nat) (y : Split) : (x.setSplit n y).split n = y := sget_sset_same _ _ _ _
theorem Warp.split_setSplit_other (x : Warp) (n m : Nat) (y : Split) (h : m ≠ n) : (x.setSplit n y).split m = x.split m :=
  sget_sset_other _ _ _ _ _ h
@[simp] theorem State.warp_updWarp_same (s : State) (g w : Nat) (f : Warp → Warp) : (s.updWarp g w f).warp g w = f (s.warp g w) := by
  simp [State.warp, State.updWarp]
theorem State.warp_updWarp_other (s : State) (g w v : Nat) (f : Warp → Warp) (n : v ≠ w) : (s.updWarp g w f).warp g v = s.warp g v := by
  simp [State.warp, State.updWarp, Workgroup.warp_setWarp_other _ _ _ _ n]
@[simp] theorem State.split_updSplit_same (s : State) (g w n : Nat) (f : Split → Split) :
    (s.updSplit g w n f).split g w n = f (s.split g w n) := by
  simp [State.split, State.updSplit]
theorem State.split_updSplit_other (s : State) (g w n m : Nat) (f : Split → Split) (h : m ≠ n) :
    (s.updSplit g w n f).split g w m = s.split g w m := by
  simp [State.split, State.updSplit, Warp.split_setSplit_other _ _ _ _ h]
@[simp] theorem State.core_updCore_same (s : State) (c : Nat) (f : Core → Core) : (s.updCore c f).core c = f (s.core c) := sget_sset_same _ _ _ _
theorem State.core_updCore_other (s : State) (c d : Nat) (f : Core → Core) (n : d ≠ c) : (s.updCore c f).core d = s.core d :=
  sget_sset_other _ _ _ _ _ n
@[simp] theorem State.ctx_updCtx_same (s : State) (c : Nat) (f : Context → Context) : (s.updCtx c f).ctx c = f (s.ctx c) := sget_sset_same _ _ _ _
theorem State.ctx_updCtx_other (s : State) (c d : Nat) (f : Context → Context) (n : d ≠ c) : (s.updCtx c f).ctx d = s.ctx d :=
  sget_sset_other _ _ _ _ _ n
@[simp] theorem State.queue_updQueue_same (s : State) (c : Nat) (f : Queue → Queue) : (s.updQueue c f).queue c = f (s.queue c) := sget_sset_same _ _ _ _
theorem State.queue_updQueue_other (s : State) (c d : Nat) (f : Queue → Queue) (n : d ≠ c) : (s.updQueue c f).queue d = s.queue d :=
  sget_sset_other _ _ _ _ _ n
@[simp] theorem State.grid_updGrid_same (s : State) (c : Nat) (f : Grid → Grid) : (s.updGrid c f).grid c = f (s.grid c) := sget_sset_same _ _ _ _
@[simp] theorem State.cluster_updCluster_same (s : State) (c : Nat) (f : Cluster → Cluster) : (s.updCluster c f).cluster c = f (s.cluster c) :=
  sget_sset_same _ _ _ _
@[simp] theorem State.timeline_updTimeline_same (s : State) (c d : Nat) (f : Timeline → Timeline) :
    (s.updTimeline c d f).timeline c d = f (s.timeline c d) := sget_sset_same _ _ _ _
@[simp] theorem State.dd_updDd_same (s : State) (c : Nat) (f : Dedup → Dedup) : (s.updDd c f).dd c = f (s.dd c) := sget_sset_same _ _ _ _
@[simp] theorem State.memByte_setMemByte_same (s : State) (pa : Nat) (b : Byte) : (s.setMemByte pa b).memByte pa = b := sget_sset_same _ _ _ _
theorem State.memByte_setMemByte_other (s : State) (pa q : Nat) (b : Byte) (n : q ≠ pa) : (s.setMemByte pa b).memByte q = s.memByte q :=
  sget_sset_other _ _ _ _ _ n

end Sys2Proof.Machine
end

