-- ==== Sys2Proof/Laws/Registers.lean ====
section
/-! SUPPORT. Reading a register after a register is written. -/
namespace Sys2Proof.Machine

@[simp] theorem Warp.setK_splits (w : Warp) (n : Nat) (x : Word) : (w.setK n x).splits = w.splits := rfl
@[simp] theorem Warp.setV_splits (w : Warp) (l n : Nat) (x : Word) : (w.setV l n x).splits = w.splits := rfl
@[simp] theorem Warp.raise_splits (w : Warp) (f : Flags) : (w.raise f).splits = w.splits := rfl

/-- k register `m` after a write of k register `n`. -/
theorem Warp.getK_setK (w : Warp) (n m : Nat) (x : Word) : (w.setK n x).getK m = if m = n then x else w.getK m :=
  sget_sset _ _ _ _ _
@[simp] theorem Warp.getK_setK_same (w : Warp) (n : Nat) (x : Word) : (w.setK n x).getK n = x := by simp [Warp.getK_setK]

/-- A v register after a write of another or the same. -/
theorem Warp.getV_setV (w : Warp) (l n l' n' : Nat) (x : Word) :
    (w.setV l n x).getV l' n' = if l' * 256 + n' = l * 256 + n then x else w.getV l' n' := sget_sset _ _ _ _ _

/-- A pair after it is written. -/
theorem Warp.getK_setK64 (w : Warp) (n m : Nat) (x : DWord) :
    (w.setK64 n x).getK m = if m = n + 1 then x.extractLsb' 32 32 else if m = n then x.extractLsb' 0 32 else w.getK m := by
  simp [Warp.setK64, Warp.getK_setK]
theorem Warp.getK64_setK64 (w : Warp) (n : Nat) (x : DWord) : (w.setK64 n x).getK64 n = x := by
  have h : n ≠ n + 1 := by omega
  simp only [Warp.getK64, Warp.getK_setK64, if_true, if_neg h]
  apply BitVec.eq_of_getLsbD_eq
  intro i hi
  show (BitVec.extractLsb' 32 32 x ++ BitVec.extractLsb' 0 32 x : BitVec (32 + 32)).getLsbD i = x.getLsbD i
  rw [BitVec.getLsbD_append, BitVec.getLsbD_extractLsb', BitVec.getLsbD_extractLsb']
  by_cases h2 : i < 32
  · simp [h2]
  · have h3 : i - 32 < 32 := by omega
    have h4 : 32 + (i - 32) = i := by omega
    simp [h2, h3, h4]

/-- Writes of a list of words to v registers leave what they do not name. -/
theorem Warp.getV_setVs_other (w : Warp) (ws : List (Nat × Nat × Word)) (l n : Nat)
    (h : ∀ p ∈ ws, p.1 * 256 + p.2.1 ≠ l * 256 + n) : (w.setVs ws).getV l n = w.getV l n := by
  induction ws generalizing w with
  | nil => rfl
  | cons p r ih =>
    obtain ⟨a, b, x⟩ := p
    have h1 := h (a, b, x) (by simp)
    simp only at h1
    rw [Warp.setVs, ih _ (fun q hq => h q (by simp [hq])), Warp.getV_setV, if_neg (Ne.symm h1)]

/-- Each write of a list whose keys are distinct stands. -/
theorem Warp.getV_setVs_mem (w : Warp) (ws : List (Nat × Nat × Word)) (l n : Nat) (x : Word) (m : (l, n, x) ∈ ws)
    (d : (ws.map fun p => p.1 * 256 + p.2.1).Nodup) : (w.setVs ws).getV l n = x := by
  induction ws generalizing w with
  | nil => cases m
  | cons p r ih =>
    obtain ⟨a, b, y⟩ := p
    simp only [List.map_cons, List.nodup_cons] at d
    rcases List.mem_cons.1 m with e | e
    · injection e with e1 e2
      injection e2 with e2 e3
      subst e1; subst e2; subst e3
      rw [Warp.setVs, Warp.getV_setVs_other _ _ _ _ (fun q hq he => d.1 (he ▸ List.mem_map_of_mem hq)), Warp.getV_setV, if_pos rfl]
    · exact ih _ e d.2

@[simp] theorem Warp.setVs_splits (w : Warp) (ws : List (Nat × Nat × Word)) : (w.setVs ws).splits = w.splits := by
  induction ws generalizing w with
  | nil => rfl
  | cons p r ih => obtain ⟨a, b, x⟩ := p; simp [Warp.setVs, ih]

/-- Writes to v registers change nothing else of a warp. -/
theorem Warp.setVs_rest (w : Warp) (ws : List (Nat × Nat × Word)) : { w.setVs ws with v := w.v } = w := by
  induction ws generalizing w with
  | nil => rfl
  | cons p r ih =>
    obtain ⟨a, b, x⟩ := p
    exact congrArg (fun y : Warp => { y with v := w.v }) (ih (w.setV a b x))

/-- A kp register after a write of one; kp7 stays true. -/
theorem Warp.upred_setUpred (w : Warp) (n m : Nat) (b : Bool) :
    (w.setUpred n b).upred m = if m = n ∧ n < 7 then b else w.upred m := by
  by_cases hn : n < 7
  · by_cases hm : m = 7
    · subst hm; simp [Warp.upred, show ¬(7 = n) by omega]
    · by_cases h8 : m < 8
      · simp only [Warp.upred, Warp.setUpred, hn, if_true, and_true]
        by_cases e : m = n
        · subst e; cases b <;> simp [hm, h8]
        · have d : m < n ∨ ¬ m - n = 0 := by omega
          rcases d with d | d <;> cases b <;> simp [h8, e, d]
      · have e : m ≠ n := by omega
        have z : ∀ y : BitVec 8, y.getLsbD m = false := fun y => BitVec.getLsbD_of_ge _ _ (by omega)
        simp [Warp.upred, e, z]
  · simp [Warp.setUpred, hn]

/-- A p register after a write of one in some lanes; p7 stays true. -/
theorem Warp.pred_setPred (w : Warp) (n m : Nat) (lanes value : LaneMask) :
    (w.setPred n lanes value).pred m = if m = n ∧ n < 7 then (w.pred n &&& ~~~lanes) ||| (value &&& lanes) else w.pred m := by
  by_cases hn : n < 7
  · by_cases e : m = n
    · subst e
      have h7 : m ≠ 7 := by omega
      simp [Warp.setPred, Warp.pred, hn, h7]
    · simp [Warp.setPred, Warp.pred, hn, e, sget_sset_other _ _ _ _ _ e]
  · simp [Warp.setPred, hn]

end Sys2Proof.Machine
end

