-- ==== Sys2Proof/Laws/Frame.lean ====
section
/-! SUPPORT. What an instruction that writes registers of its warp and then flows on leaves alone, said once. -/
namespace Sys2Proof.Machine

/-- A change of the issuing workgroup leaves everything else as it was. -/
theorem sameElsewhere_updWg (s : State) (f : Workgroup → Workgroup) : SameElsewhere s (s.updWg s.cur.wg f) where
  rest := rfl
  groups _ h := s.wg_updWg_other _ _ f h
  scratch _ _ := rfl
  bytes _ _ _ := rfl
  home _ _ := rfl
  acc _ _ := rfl

theorem SameElsewhere.refl (s : State) : SameElsewhere s s :=
  ⟨rfl, fun _ _ => rfl, fun _ _ => rfl, fun _ _ _ => rfl, fun _ _ => rfl, fun _ _ => rfl⟩

theorem SameElsewhere.cur {s t : State} (h : SameElsewhere s t) : t.cur = s.cur := (congrArg State.cur h.rest : (t.withWgsOf s).cur = s.cur)

theorem SameElsewhere.trans {s t u : State} (h : SameElsewhere s t) (k : SameElsewhere t u) : SameElsewhere s u where
  rest := by
    have e : u.withWgsOf s = (u.withWgsOf t).withWgsOf s := rfl
    rw [e, k.rest, h.rest]
  groups g n := by rw [k.groups g (by rw [h.cur]; exact n), h.groups g n]
  scratch c a := (k.scratch c a).trans (h.scratch c a)
  bytes c y a := (k.bytes c y a).trans (h.bytes c y a)
  home y a := (k.home y a).trans (h.home y a)
  acc c e := (k.acc c e).trans (h.acc c e)

@[simp] theorem State.curWarp_updCurWarp (s : State) (f : Warp → Warp) : (s.updCurWarp f).curWarp = f s.curWarp := by
  simp [State.curWarp, State.updCurWarp]
@[simp] theorem State.curSplit_updCur (s : State) (f : Split → Split) : (s.updCur f).curSplit = f s.curSplit := by
  simp [State.curSplit, State.updCur]
@[simp] theorem State.curSplit_advance (s : State) : s.advance.curSplit = s.curSplit.advance := by simp [State.advance]
theorem State.curWarp_updCur (s : State) (f : Split → Split) :
    (s.updCur f).curWarp = s.curWarp.setSplit s.cur.split (f s.curSplit) := by
  simp [State.curWarp, State.updCur, State.updSplit, State.curSplit, State.split]
theorem State.curSplit_updCurWarp (s : State) (f : Warp → Warp) (h : (f s.curWarp).splits = s.curWarp.splits) :
    (s.updCurWarp f).curSplit = s.curSplit := by
  show (s.updCurWarp f).curWarp.split s.cur.split = s.curWarp.split s.cur.split
  rw [State.curWarp_updCurWarp]
  exact congrArg (fun m => sget (fun _ => ({} : Split)) m s.cur.split) h

theorem State.curWg_updCurWarp (s : State) (f : Warp → Warp) :
    (s.updCurWarp f).curWg = s.curWg.setWarp s.cur.warp (f s.curWarp) := State.wg_updWg_same _ _ _
theorem State.warp_updCurWarp_other (s : State) (f : Warp → Warp) (n : Nat) (h : n ≠ s.cur.warp) :
    (s.updCurWarp f).warp s.cur.wg n = s.warp s.cur.wg n := State.warp_updWarp_other _ _ _ _ _ h

theorem OnlyTouches.refl (s : State) (w : Touched) : OnlyTouches s s w :=
  ⟨.refl s, rfl, fun _ _ => rfl, fun _ _ => rfl, rfl, fun _ _ => rfl, fun _ _ _ _ => rfl, fun _ _ _ => rfl, fun _ _ => rfl, fun _ => rfl⟩

theorem OnlyTouches.trans {s t u : State} {w : Touched} (h : OnlyTouches s t w) (k : OnlyTouches t u w) : OnlyTouches s u w := by
  have c := h.elsewhere.cur
  refine ⟨h.elsewhere.trans k.elsewhere, ?_, ?_, ?_, ?_, ?_, ?_, ?_, ?_, ?_⟩
  · have e : u.curWg.withWarpsOf s.curWg = (u.curWg.withWarpsOf t.curWg).withWarpsOf s.curWg := rfl
    rw [e, k.group, h.group]
  · intro n hn; have := k.warps n (by rw [c]; exact hn); rw [c] at this; rw [this, h.warps n hn]
  · intro n hn; have := k.splits n (by rw [c]; exact hn); rw [c] at this; rw [this, h.splits n hn]
  · have e : u.curWarp.withRegsOf s.curWarp = (u.curWarp.withRegsOf t.curWarp).withRegsOf s.curWarp := rfl
    rw [e, k.warp, h.warp]
  · intro n hn; rw [k.k n hn, h.k n hn]
  · intro l n b hn; rw [k.v l n b hn, h.v l n b hn]
  · intro n l hn; rw [k.p n l hn, h.p n l hn]
  · intro n hn; rw [k.kp n hn, h.kp n hn]
  · intro hn; rw [k.flags hn, h.flags hn]

/-- A change of the issuing warp's registers. -/
theorem onlyTouches_updCurWarp {s : State} {f : Warp → Warp} {w : Touched}
    (hs : (f s.curWarp).splits = s.curWarp.splits)
    (hw : (f s.curWarp).withRegsOf s.curWarp = s.curWarp)
    (hk : ∀ n, w.k n = false → (f s.curWarp).getK n = s.curWarp.getK n)
    (hv : ∀ l n, n < 256 → w.v l n = false → (f s.curWarp).getV l n = s.curWarp.getV l n)
    (hp : ∀ n l, w.p n l = false → ((f s.curWarp).pred n).getLsbD l = (s.curWarp.pred n).getLsbD l)
    (hkp : ∀ n, w.kp n = false → (f s.curWarp).upred n = s.curWarp.upred n)
    (hf : w.flags = false → (f s.curWarp).flags = s.curWarp.flags) : OnlyTouches s (s.updCurWarp f) w where
  elsewhere := sameElsewhere_updWg s fun x => x.setWarp s.cur.warp (f (x.warp s.cur.warp))
  group := by rw [State.curWg_updCurWarp]; rfl
  warps n h := State.warp_updCurWarp_other s f n h
  splits n _ := by
    show (s.updCurWarp f).curWarp.split n = s.curWarp.split n
    rw [State.curWarp_updCurWarp]
    exact congrArg (fun m => sget (fun _ => ({} : Split)) m n) hs
  warp := by rw [State.curWarp_updCurWarp]; exact hw
  k n h := by rw [State.curWarp_updCurWarp]; exact hk n h
  v l n b h := by rw [State.curWarp_updCurWarp]; exact hv l n b h
  p n l h := by rw [State.curWarp_updCurWarp]; exact hp n l h
  kp n h := by rw [State.curWarp_updCurWarp]; exact hkp n h
  flags h := by rw [State.curWarp_updCurWarp]; exact hf h

/-- A change of the issuing split. -/
theorem onlyTouches_updCur (s : State) (f : Split → Split) (w : Touched) : OnlyTouches s (s.updCur f) w where
  elsewhere := sameElsewhere_updWg s fun x =>
    x.setWarp s.cur.warp ((x.warp s.cur.warp).setSplit s.cur.split (f ((x.warp s.cur.warp).split s.cur.split)))
  group := by
    show (s.updCurWarp fun x => x.setSplit s.cur.split (f (x.split s.cur.split))).curWg.withWarpsOf _ = _
    rw [State.curWg_updCurWarp]; rfl
  warps n h := State.warp_updCurWarp_other s _ n h
  splits n h := State.split_updSplit_other _ _ _ _ _ _ h
  warp := by rw [State.curWarp_updCur]; rfl
  k n _ := by rw [State.curWarp_updCur]; rfl
  v l n _ _ := by rw [State.curWarp_updCur]; rfl
  p n l _ := by rw [State.curWarp_updCur]; rfl
  kp n _ := by rw [State.curWarp_updCur]; rfl
  flags _ := by rw [State.curWarp_updCur]; rfl

/-- An instruction whose effect is a change `f` of its warp's registers and then sequential flow (R139) completes, and changes only
the registers that `f` changes. -/
theorem completes_regs {i : Instr} {s : State} {f : Warp → Warp} {w : Touched}
    (e : exec i s = .next (s.updCurWarp f).advance)
    (hs : (f s.curWarp).splits = s.curWarp.splits)
    (hw : (f s.curWarp).withRegsOf s.curWarp = s.curWarp)
    (hk : ∀ n, w.k n = false → (f s.curWarp).getK n = s.curWarp.getK n)
    (hv : ∀ l n, n < 256 → w.v l n = false → (f s.curWarp).getV l n = s.curWarp.getV l n)
    (hp : ∀ n l, w.p n l = false → ((f s.curWarp).pred n).getLsbD l = (s.curWarp.pred n).getLsbD l)
    (hkp : ∀ n, w.kp n = false → (f s.curWarp).upred n = s.curWarp.upred n)
    (hf : w.flags = false → (f s.curWarp).flags = s.curWarp.flags) :
    Completes i s (s.updCurWarp f).advance w where
  next := e
  flow := by rw [State.curSplit_advance, State.curSplit_updCurWarp s f hs]
  frame := (onlyTouches_updCurWarp hs hw hk hv hp hkp hf).trans (onlyTouches_updCur _ _ w)

/-- An instruction that only flows on. -/
theorem completes_advance {i : Instr} {s : State} (e : exec i s = .next s.advance) : Completes i s s.advance {} :=
  ⟨e, State.curSplit_advance s, onlyTouches_updCur s _ {}⟩

/-- What the registers of the warp read after it. -/
theorem curWarp_regs {s : State} {f : Warp → Warp} (hs : (f s.curWarp).splits = s.curWarp.splits) :
    (s.updCurWarp f).advance.curWarp = (f s.curWarp).setSplit s.cur.split s.curSplit.advance := by
  rw [State.advance, State.curWarp_updCur, State.curWarp_updCurWarp, State.curSplit_updCurWarp s f hs]; rfl

/-- An instruction that writes one k register and flows on. -/
theorem completes_setK {i : Instr} {s : State} {d : Nat} {x : Word} (e : exec i s = .next (s.updCurWarp fun w => w.setK d x).advance) :
    ∃ t, Completes i s t { k := (· == d) } ∧ t.curWarp.getK d = x := by
  refine ⟨_, completes_regs e rfl rfl ?_ (fun _ _ _ _ => rfl) (fun _ _ _ => rfl) (fun _ _ => rfl) (fun _ => rfl), ?_⟩
  · intro n h
    have : n ≠ d := by simpa using h
    simp [Warp.getK_setK, this]
  · rw [curWarp_regs rfl]; exact Warp.getK_setK_same _ _ _

/-- One that writes a k pair. -/
theorem completes_setK64 {i : Instr} {s : State} {d : Nat} {x : DWord}
    (e : exec i s = .next (s.updCurWarp fun w => w.setK64 d x).advance) :
    ∃ t, Completes i s t { k := fun n => n == d || n == d + 1 } ∧ t.curWarp.getK64 d = x := by
  refine ⟨_, completes_regs e rfl rfl ?_ (fun _ _ _ _ => rfl) (fun _ _ _ => rfl) (fun _ _ => rfl) (fun _ => rfl), ?_⟩
  · intro n h
    have : n ≠ d ∧ n ≠ d + 1 := by simpa using h
    simp [Warp.getK_setK64, this]
  · rw [curWarp_regs rfl]; exact Warp.getK64_setK64 _ _ _

end Sys2Proof.Machine
end

