-- ==== Sys2Proof/Laws/Memory.lean ====
section
/-! SUPPORT. Every operation on memory keeps its canonical form. -/
namespace Sys2Proof.Machine

theorem swfFrom_filter {α : Type} [DecidableEq α] (d : Nat → α) (m : Sparse α) (lo : Nat) (f : Nat × α → Bool)
    (w : swfFrom d lo m = true) : swfFrom d lo (m.filter f) = true := by
  induction m generalizing lo with
  | nil => rfl
  | cons p r ih =>
    obtain ⟨a, x⟩ := p
    simp only [swfFrom, Bool.and_eq_true, decide_eq_true_eq, bne_iff_ne, ne_eq] at w
    by_cases h : f (a, x) = true
    · simp only [List.filter_cons, h, if_true, swfFrom, Bool.and_eq_true, decide_eq_true_eq, bne_iff_ne, ne_eq]
      exact ⟨w.1, ih _ w.2⟩
    · simp only [List.filter_cons, h]
      exact ih lo (swfFrom_mono d r lo (a + 1) (by omega) w.2)

/-- Memory from which some addresses are taken away (a reset, a wipe). -/
theorem memWf_filter (m : List Host.Cell) (f : Host.Cell → Bool) (w : Mem.wf m = true) : Mem.wf (m.filter f) = true :=
  swfFrom_filter memDefault m 0 f w

theorem memWf_reset : Mem.wf State.reset.mem = true := rfl

theorem memWf_setMemByte (s : State) (pa : Nat) (b : Byte) (w : Mem.wf s.mem = true) : Mem.wf (s.setMemByte pa b).mem = true :=
  swf_sset memDefault s.mem pa b w

theorem memWf_setMemBytes (s : State) (pa : Nat) (bs : List Byte) (w : Mem.wf s.mem = true) : Mem.wf (s.setMemBytes pa bs).mem = true := by
  induction bs generalizing s pa with
  | nil => exact w
  | cons b r ih => exact ih _ _ (memWf_setMemByte s pa b w)

theorem memWf_setHomeByte (s : State) (a : PageAttr) (pa : Nat) (b : Byte) (w : Mem.wf s.mem = true) :
    Mem.wf (s.setHomeByte a pa b).mem = true := by
  unfold State.setHomeByte
  split
  · exact w
  · exact memWf_setMemByte s pa b w

theorem memWf_setHomeBytes (s : State) (a : PageAttr) (pa : Nat) (bs : List Byte) (w : Mem.wf s.mem = true) :
    Mem.wf (s.setHomeBytes a pa bs).mem = true := by
  induction bs generalizing s pa with
  | nil => exact w
  | cons b r ih => exact ih _ _ (memWf_setHomeByte s a pa b w)

@[simp] theorem State.markPending_mem (s : State) (line : Nat) (e : Option Nat) : (s.markPending line e).mem = s.mem := rfl
@[simp] theorem State.cross_mem (s : State) (c : Bool) (line : Nat) (d : CacheLine) : (s.cross c line d).mem = s.mem := by
  unfold State.cross; split <;> rfl
@[simp] theorem State.lowWater_mem (s : State) (die : Nat) : (s.lowWater die).mem = s.mem := by
  unfold State.lowWater
  simp only
  split
  · split <;> rfl
  · rfl

/-- A fold of acts that each keep a property keeps it. -/
theorem foldl_keeps {α β : Type} (P : α → Prop) (f : α → β → α) (l : List β) (h : ∀ a b, P a → P (f a b)) (a : α) (w : P a) :
    P (l.foldl f a) := by
  induction l generalizing a with
  | nil => exact w
  | cons b r ih => exact ih _ (h a b w)

theorem memWf_publish (s : State) (a : PageAttr) (e : Option Nat) (pa : Nat) (bs : List Byte) (w : Mem.wf s.mem = true) :
    Mem.wf (s.publish a e pa bs).mem = true := by
  unfold State.publish
  simp only
  split
  · exact foldl_keeps (fun t : State => Mem.wf t.mem = true) (fun t i => t.markPending (lineOf pa + i) e) _ (fun t i h => h) _
      (memWf_setHomeBytes _ a pa bs w)
  · exact memWf_setHomeBytes _ a pa bs w

@[simp] theorem State.setHbmKey_mem (s : State) (line : Nat) (k : Option (BitVec 512)) : (s.setHbmKey line k).mem = s.mem := by
  unfold State.setHbmKey; split <;> rfl
@[simp] theorem State.poolStore_mem (s : State) (die line : Nat) (d : CacheLine) (k : Option (BitVec 512)) (b : Bool) :
    (s.poolStore die line d k b).1.mem = s.mem := by
  unfold State.poolStore
  simp only
  split
  · rw [State.lowWater_mem]; rfl
  · rfl

@[simp] theorem State.cleanLine_mem (s : State) (line : Nat) (c : L2Line) : (s.cleanLine line c).mem = s.mem := rfl

theorem memWf_writeback (s : State) (line : Nat) (w : Mem.wf s.mem = true) : Mem.wf (s.writeback line).1.mem = true := by
  unfold State.writeback
  simp only
  split
  · exact w
  · split
    · rw [State.cleanLine_mem, State.setHbmKey_mem]; exact memWf_setMemBytes s _ _ w
    · rename_i die _
      have e := State.poolStore_mem s die line (sget (fun _ => ({} : L2Line)) s.l2 line).data (sget (fun _ => ({} : L2Line)) s.l2 line).key
        (sget (fun _ => ({} : L2Line)) s.l2 line).dedup
      split <;> rename_i h <;> rw [h] at e
      · rw [State.cleanLine_mem, e]; exact w
      · rw [e]; exact w

theorem memWf_writeThrough (s : State) (a : PageAttr) (pa : Nat) (bs : List Byte) (w : Mem.wf s.mem = true) :
    Mem.wf (s.writeThrough a pa bs).mem = true := by
  unfold State.writeThrough
  split
  · exact w
  · exact foldl_keeps (fun t : State => Mem.wf t.mem = true) _ _ (fun t _ h => memWf_writeback t _ h) _ (memWf_publish s a none pa bs w)

@[simp] theorem State.crossRange_mem (s : State) (pa n : Nat) : (s.crossRange pa n).mem = s.mem :=
  foldl_keeps (fun t : State => t.mem = s.mem) _ _ (fun t _ h => by rw [State.cross_mem]; exact h) _ rfl
@[simp] theorem State.crossLanes_mem (s : State) (core : Nat) (b : Bool) (ps : List Place) : (s.crossLanes core b ps).mem = s.mem :=
  foldl_keeps (fun t : State => t.mem = s.mem) _ _ (fun t _ h => by rw [State.cross_mem]; exact h) _ rfl
@[simp] theorem State.clearCovered_mem (s : State) (rs : List (Nat × Nat)) : (s.clearCovered rs).mem = s.mem := by
  unfold State.clearCovered; split <;> rfl
@[simp] theorem State.note_mem (s : State) (pa n : Nat) : (s.note pa n).mem = s.mem := by
  unfold State.note; split <;> rfl
@[simp] theorem State.refetch_mem (s : State) (line : Nat) : (s.refetch line).mem = s.mem := by
  unfold State.refetch; simp only; split <;> rfl

theorem memWf_putThrough (s : State) (pa : Nat) (bs : List Byte) (w : Mem.wf s.mem = true) : Mem.wf (s.putThrough pa bs).mem = true := by
  rw [State.putThrough, State.crossRange_mem]; exact memWf_writeThrough s {} pa bs w

theorem memWf_publishHeld (s : State) (core : Nat) (l : List HeldStore) (w : Mem.wf s.mem = true) :
    Mem.wf (s.publishHeld core l).mem = true := by
  induction l generalizing s with
  | nil => exact w
  | cons h r ih =>
    unfold State.publishHeld
    exact ih _ (memWf_publish s h.attr (some core) h.addr [h.byte] w)

theorem memWf_release (s : State) (core wg : Nat) (w : Mem.wf s.mem = true) : Mem.wf (s.release core wg).mem = true := by
  have h : Mem.wf ((heldLines ((s.core core).heldOf wg)).foldl (fun t l => t.cross l.2 l.1 (t.slicePlain l.1))
      (s.publishHeld core ((s.core core).heldOf wg))).mem = true :=
    foldl_keeps (fun t : State => Mem.wf t.mem = true) _ _ (fun t _ h => by rw [State.cross_mem]; exact h) _
      (memWf_publishHeld s core _ w)
  exact foldl_keeps (fun t : State => Mem.wf t.mem = true) (fun t (x : HeldStore) => t.note x.addr 1) _
    (fun t _ h => by rw [State.note_mem]; exact h) _ (by rw [State.clearCovered_mem]; exact h)

theorem memWf_holdStore (s : State) (a : PageAttr) (core wg pa : Nat) (bs : List Byte) (w : Mem.wf s.mem = true) :
    Mem.wf (s.holdStore a core wg pa bs).mem = true := by
  induction bs generalizing s pa with
  | nil => exact w
  | cons b r ih => exact ih _ _ w

theorem memWf_takeCopy (s : State) (core : Nat) (a : PageAttr) (line : Nat) (w : Mem.wf s.mem = true) :
    Mem.wf (s.takeCopy core a line).mem = true := by
  unfold State.takeCopy
  simp only
  split
  · exact w
  · rw [State.updCore_mem, State.cross_mem]; exact w

theorem memWf_markLeaf (s : State) (ea : Nat) (p : DWord) (wr : Bool) (w : Mem.wf s.mem = true) :
    Mem.wf (s.markLeaf ea p wr).1.mem = true := by
  by_cases h : p ||| 0x100 ||| (if wr then 0x200 else 0) = p
  · unfold State.markLeaf; simp only [h, if_true]; exact w
  · unfold State.markLeaf; simp only [h, if_false]; exact memWf_publish _ _ _ _ _ (by rw [State.refetch_mem]; exact w)

@[simp] theorem State.walked_mem (s : State) (ctx va : Nat) : (s.walked ctx va).mem = s.mem := by
  unfold State.walked
  exact foldl_keeps (fun t : State => t.mem = s.mem) _ _ (fun t _ h => by rw [State.cross_mem]; exact h) _ rfl

theorem memWf_walkNow (s : State) (ctx va : Nat) (a : Access) (w : Mem.wf s.mem = true) : Mem.wf (s.walkNow ctx va a).1.mem = true := by
  have w1 : Mem.wf (s.walked ctx va).mem = true := by rw [State.walked_mem]; exact w
  unfold State.walkNow
  simp only
  split
  · exact w1
  · split
    · exact w1
    · exact memWf_markLeaf _ _ _ _ w1

theorem memWf_translateNow (s : State) (ctx va : Nat) (a : Access) (w : Mem.wf s.mem = true) :
    Mem.wf (s.translateNow ctx va a).1.mem = true := by
  have h := memWf_walkNow s ctx va a w
  unfold State.translateNow
  split <;> rename_i e <;> rw [e] at h <;> exact h

theorem memWf_fetchLine (s : State) (ctx va : Nat) (w : Mem.wf s.mem = true) : Mem.wf (s.fetchLine ctx va).1.mem = true := by
  have h := memWf_translateNow s ctx va .fetch w
  unfold State.fetchLine
  split <;> rename_i e <;> rw [e] at h
  · rw [State.cross_mem]; exact h
  · exact h
  · exact h

theorem memWf_settle (s : State) (ctx fuel : Nat) (p : PC × Bool) (w : Mem.wf s.mem = true) :
    Mem.wf (s.settle ctx fuel p).1.mem = true := by
  induction fuel generalizing s p with
  | zero => exact w
  | succ n ih =>
    unfold State.settle
    split
    · exact w
    · have h := memWf_fetchLine s ctx (PC.line p.1) w
      split
      · rename_i e
        rw [e] at h
        split
        · exact h
        · exact ih _ _ h
      · rename_i e
        rw [e] at h
        exact h

@[simp] theorem State.shadow_mem (s : State) (line : Nat) : (s.shadow line).mem = s.mem := by
  unfold State.shadow; split <;> rfl

theorem memWf_hostWriteLine (s t : State) (line : Nat) (f : Nat → Option Byte) (w : Mem.wf s.mem = true)
    (h : s.hostWriteLine line f = some t) : Mem.wf t.mem = true := by
  unfold State.hostWriteLine at h
  simp only at h
  generalize hu : s.shadow line = u at h
  have wu : Mem.wf u.mem = true := by subst hu; simpa using w
  split at h
  · rename_i die _
    split at h
    · rename_i e
      cases h
      have k := congrArg (fun p : State × Bool => p.1.mem) e
      rw [State.poolStore_mem] at k
      exact k ▸ wu
    · cases h
  · simp only [Option.some.injEq] at h
    subst h
    split
    · refine memWf_setMemBytes _ _ _ ?_
      rw [State.setHbmKey_mem]
      exact wu
    · refine foldl_keeps (fun t : State => Mem.wf t.mem = true) _ _ (fun t i h => ?_) _ wu
      split
      · exact memWf_setMemByte _ _ _ h
      · exact h

end Sys2Proof.Machine
end

