-- ==== Sys2Proof/Laws/PerLane.lean ====
section
/-! SUPPORT. What a per-lane instruction (R211) leaves: its lanes' results, its flags, and its frame. -/
namespace Sys2Proof.Machine

@[simp] theorem mem_lanesOf (m : LaneMask) (l : Nat) : l ∈ lanesOf m ↔ m.getLsbD l = true := by
  simp only [lanesOf, List.mem_filter, List.mem_range, and_iff_right_iff_imp]
  intro h
  by_cases b : l < 64
  · exact b
  · simp [BitVec.getLsbD_of_ge m l (by omega)] at h

/-- A register whose writes all carry one value. -/
theorem Warp.getV_setVs_of (w : Warp) (ws : List (Nat × Nat × Word)) (l n : Nat) (x : Word)
    (h : ∀ p ∈ ws, p.1 * 256 + p.2.1 = l * 256 + n → p.2.2 = x)
    (m : ∃ p ∈ ws, p.1 * 256 + p.2.1 = l * 256 + n) : (w.setVs ws).getV l n = x := by
  induction ws generalizing w with
  | nil => obtain ⟨p, hp, _⟩ := m; cases hp
  | cons p r ih =>
    obtain ⟨a, b, y⟩ := p
    by_cases t : ∃ q ∈ r, q.1 * 256 + q.2.1 = l * 256 + n
    · exact ih _ (fun q hq => h q (by simp [hq])) t
    · have o : ∀ q ∈ r, q.1 * 256 + q.2.1 ≠ l * 256 + n := fun q hq e => t ⟨q, hq, e⟩
      obtain ⟨q, hq, e⟩ := m
      rcases List.mem_cons.1 hq with rfl | hq
      · rw [Warp.setVs, Warp.getV_setVs_other _ _ _ _ o, Warp.getV_setV, if_pos e.symm]
        exact h (a, b, y) (by simp) e
      · exact absurd e (o q hq)

@[simp] theorem Warp.setVs_k (w : Warp) (ws : List (Nat × Nat × Word)) : (w.setVs ws).k = w.k :=
  (congrArg Warp.k (w.setVs_rest ws) : ({ w.setVs ws with v := w.v } : Warp).k = w.k)
@[simp] theorem Warp.setVs_p (w : Warp) (ws : List (Nat × Nat × Word)) : (w.setVs ws).p = w.p :=
  (congrArg Warp.p (w.setVs_rest ws) : ({ w.setVs ws with v := w.v } : Warp).p = w.p)
@[simp] theorem Warp.setVs_kp (w : Warp) (ws : List (Nat × Nat × Word)) : (w.setVs ws).kp = w.kp :=
  (congrArg Warp.kp (w.setVs_rest ws) : ({ w.setVs ws with v := w.v } : Warp).kp = w.kp)
@[simp] theorem Warp.setVs_flags (w : Warp) (ws : List (Nat × Nat × Word)) : (w.setVs ws).flags = w.flags :=
  (congrArg Warp.flags (w.setVs_rest ws) : ({ w.setVs ws with v := w.v } : Warp).flags = w.flags)
theorem Warp.setVs_withRegsOf (w x : Warp) (ws : List (Nat × Nat × Word)) : (w.setVs ws).withRegsOf x = w.withRegsOf x :=
  (congrArg (fun y : Warp => y.withRegsOf x) (w.setVs_rest ws) : ({ w.setVs ws with v := w.v } : Warp).withRegsOf x = w.withRegsOf x)
theorem Warp.withRegsOf_self (w : Warp) : w.withRegsOf w = w := rfl

/-- The check of R104 changes ARITH.FLAGS alone. -/
theorem Warp.checkUninit_eq (w : Warp) (live : LaneMask) (regs : List Nat) :
    w.checkUninit live regs = { w with flags := (w.checkUninit live regs).flags } := by
  unfold Warp.checkUninit Warp.raiseUninit
  repeat' split
  all_goals rfl

theorem orFlags_getLsbD (l : List Flags) (i : Nat) : (orFlags l).getLsbD i = l.any fun f => f.getLsbD i := by
  induction l with
  | nil => simp [orFlags]
  | cons f r ih => simp [orFlags, ih]

/-- The flags that lanes outside `live` raise do not count. -/
theorem orFlags_live {act live : LaneMask} (h : ∀ l, live.getLsbD l = true → act.getLsbD l = true) (f : Nat → Flags) :
    orFlags ((lanesOf act).map fun l => if live.getLsbD l then f l else 0) = orFlags ((lanesOf live).map f) := by
  apply BitVec.eq_of_getLsbD_eq
  intro i _
  rw [orFlags_getLsbD, orFlags_getLsbD, Bool.eq_iff_iff]
  simp only [List.any_eq_true, List.mem_map, mem_lanesOf]
  constructor
  · rintro ⟨_, ⟨l, _, rfl⟩, h2⟩
    by_cases g : live.getLsbD l = true
    · exact ⟨_, ⟨l, g, rfl⟩, by simpa [g] using h2⟩
    · simp [g] at h2
  · rintro ⟨_, ⟨l, g, rfl⟩, h2⟩
    exact ⟨_, ⟨l, h l g, rfl⟩, by simpa [g] using h2⟩

theorem Warp.raise_flags (w : Warp) (f : Flags) : (w.raise f).flags = w.flags ||| f.setWidth 32 := rfl

theorem active_le_activeH (s : State) (op : Nat) (g : Guard) (l : Nat) (h : (s.active op g).getLsbD l = true) :
    (s.activeH op g).getLsbD l = true := by
  simp only [State.active, State.activeH, BitVec.getLsbD_and, BitVec.getLsbD_or, Bool.and_eq_true, Bool.or_eq_true] at *
  exact ⟨.inl h.1, h.2⟩

/-- A per-lane instruction (R211) whose lanes each give `n` words: each lane of `act` has its results, and nothing else changes but
the flags. -/
theorem completes_perLaneOn {i : Instr} {s : State} {act live : LaneMask} {d n : Nat} {regs : List Nat} {f : Nat → LaneOut}
    (e : exec i s = .next (s.perLaneOn act live d regs f)) (hl : ∀ l, live.getLsbD l = true → act.getLsbD l = true) (hn : ∀ l, act.getLsbD l = true → (f l).1.length = n) (hd : d + n ≤ 256) :
    LanesGet i s act d n (fun l => (f l).1) (s.flagsWith live regs fun l => (f l).2) := by
  let writes := ((lanesOf act).map fun l => (l, f l)).flatMap fun p => (List.range p.2.1.length).map fun i => (p.1, d + i, p.2.1.getD i 0)
  let fl := orFlags (((lanesOf act).map fun l => (l, f l)).map fun p => if live.getLsbD p.1 then p.2.2 else 0)
  have hfl : fl = orFlags ((lanesOf act).map fun l => if live.getLsbD l then (fun k => (f k).2) l else 0) := by
    simp only [fl, List.map_map]; rfl
  rw [orFlags_live hl] at hfl
  have mem : ∀ q, q ∈ writes ↔ ∃ l k, act.getLsbD l = true ∧ k < n ∧ q = (l, d + k, (f l).1.getD k 0) := by
    intro q
    simp only [writes, List.mem_flatMap, List.mem_map, List.mem_range, mem_lanesOf]
    constructor
    · rintro ⟨_, ⟨l, hl, rfl⟩, k, hk, rfl⟩
      exact ⟨l, k, hl, by rw [hn l hl] at hk; exact hk, rfl⟩
    · rintro ⟨l, k, hl, hk, rfl⟩
      exact ⟨_, ⟨l, hl, rfl⟩, k, by rw [hn l hl]; exact hk, rfl⟩
  have e' : exec i s = .next (s.updCurWarp fun w => ((w.checkUninit live regs).raise fl).setVs writes).advance := e
  have splits : (((s.curWarp.checkUninit live regs).raise fl).setVs writes).splits = s.curWarp.splits := by
    rw [Warp.setVs_splits, Warp.checkUninit_eq]; rfl
  refine ⟨_, completes_regs e' splits ?_ ?_ ?_ ?_ ?_ ?_, ?_, ?_⟩
  · rw [Warp.setVs_withRegsOf, Warp.checkUninit_eq]; rfl
  · intro k _
    show sget _ (((s.curWarp.checkUninit live regs).raise fl).setVs writes).k k = _
    rw [Warp.setVs_k, Warp.checkUninit_eq]; rfl
  · intro l r hr h
    rw [Warp.getV_setVs_other]
    · rw [Warp.checkUninit_eq]; rfl
    · intro q hq he
      obtain ⟨l', k, hl, hk, rfl⟩ := (mem q).1 hq
      simp only at he
      have h1 : l' = l := by omega
      have h2 : d + k = r := by omega
      subst h1
      have : act.getLsbD l' && d ≤ r && r < d + n := by
        rw [hl]; simp; omega
      simp [this] at h
  · intro k l _
    rw [show ((((s.curWarp.checkUninit live regs).raise fl).setVs writes).pred k) = s.curWarp.pred k by
      unfold Warp.pred; rw [Warp.setVs_p, Warp.checkUninit_eq]; rfl]
  · intro k _
    unfold Warp.upred; rw [Warp.setVs_kp, Warp.checkUninit_eq]; rfl
  · intro h; cases h
  · intro l k hl hk
    rw [curWarp_regs splits]
    show (((s.curWarp.checkUninit live regs).raise fl).setVs writes).getV l (d + k) = _
    apply Warp.getV_setVs_of
    · intro q hq he
      obtain ⟨l', k', hl', hk', rfl⟩ := (mem q).1 hq
      simp only at he
      have h1 : l' = l := by omega
      have h2 : k' = k := by omega
      subst h1; subst h2; rfl
    · exact ⟨_, (mem _).2 ⟨l, k, hl, hk, rfl⟩, rfl⟩
  · rw [curWarp_regs splits]
    show (((s.curWarp.checkUninit live regs).raise fl).setVs writes).flags = _
    rw [Warp.setVs_flags, Warp.raise_flags, hfl]; rfl

/-- A per-lane instruction of classes 010 to 100. -/
theorem lanesGet_perLane {i : Instr} {s : State} {op : Nat} {g : Guard} {d n : Nat} {regs : List Nat} {f : Nat → LaneOut}
    (e : exec i s = .next (s.perLane op g d regs f)) (hn : ∀ l, (f l).1.length = n) (hd : d + n ≤ 256) :
    LanesGet i s (s.activeH op g) d n (fun l => (f l).1) (s.flagsWith (s.active op g) regs fun l => (f l).2) :=
  completes_perLaneOn e (active_le_activeH s op g) (fun l _ => hn l) hd

end Sys2Proof.Machine
end

