-- ==== Sys2Proof/Tests/Slice0.lean ====
section
/-! SUPPORT. Tests: slots written out field by field from the encodings, ill-formed terms that the checks refuse, worked examples of the
spec, and for each statement a state that meets its hypotheses. -/
open Sys2Proof Sys2Proof.Machine
namespace Sys2Proof.Tests
set_option Elab.async false

/-! ## Slots from their fields (R143), guarded by index 7 -/

/-- The slot of opcode, DST, source fields A, B and C, and the twelve modifier bits. -/
def row (op dst a b c m : Nat) : Slot :=
  BitVec.ofNat 96 (op * 2 ^ 86 + 7 * 2 ^ 83 + dst * 2 ^ 74 + a * 2 ^ 54 + b * 2 ^ 34 + c * 2 ^ 14 + m * 2 ^ 2)
/-- The source fields of R146: a v, k or m register, an object, an immediate of four times `i`, a bank word, word `i` of the carrier. -/
def fV (n : Nat) : Nat := n
def fK (n : Nat) : Nat := 0x10000 + n
def fM (n : Nat) : Nat := 0x20000 + n
def fO (n : Nat) : Nat := 0x30000 + n
def fI (i : Nat) : Nat := 0x40000 + i
def fB (c off : Nat) : Nat := 0x80000 + c * 2 ^ 14 + off
def fT (i : Nat) : Nat := 0xF0000 + i
def v (n : Nat) : Src := .v n false false
def k (n : Nat) : Src := .k n false false
def ob (n : Nat) : Src := .obj n false
def im (i : Nat) : Src := .imm (BitVec.ofNat 20 (4 * i))
def bk (c : Fin 16) (off : Nat) : Src := .bank c (BitVec.ofNat 14 off)
def ar (d : Nat) (a b c : Src) : Args := { d := d, a := a, b := b, c := c }
/-- The carrier of the tests: its word 0 is 0x40490FDB. -/
def carrier : Slot := 0x40490FDB
def t0 : Src := .trail 0 0x40490FDB

/-- Does each slot decode to its instruction, in a warp that may issue it? -/
def reads (l : List (Slot × Instr)) : Bool :=
  l.all fun p => decode (.forOp (p.1.toNat / 2 ^ 86)) p.1 (some carrier) == .ok p.2

/-! ## Every instruction from a slot written out from its forms table -/

theorem test_decode_control : reads
    [(row 0x000 0 0 0 0 0, .nop (ar 0 .none .none .none)),
     (row 0x001 0 (fI 3) 0 0 0, .bra (ar 0 (im 3) .none .none)),
     (row 0x002 0 (fV 6) 0 0 0, .brx (ar 0 (v 6) .none .none)),
     (row 0x003 8 (fI 3) 0 0 0x80, .call (ar 8 (im 3) .none .none) true),
     (row 0x003 8 (fI 3) 0 0 0, .call (ar 8 (im 3) .none .none) false),
     (row 0x004 8 (fK 6) 0 0 0, .callx (ar 8 (k 6) .none .none) false),
     (row 0x005 0 (fK 6) 0 0 0, .ret (ar 0 (k 6) .none .none)),
     (row 0x006 0 0 0 0 0x40, .exit { g := { gfile := true, idx := 7, neg := false } }),
     (row 0x007 0 0 0 0 0, .join (ar 0 .none .none .none)),
     (row 0x008 0 (fT 0) (fI 2) 0 0x400, .loop (ar 0 t0 (.imm 9) .none)),
     (row 0x009 0 0 0 0 0, .brk (ar 0 .none .none .none)),
     (row 0x00A 2 (fK 4) (fI 2) (fK 6) 0, .yield (ar 2 (k 4) (im 2) (k 6)) .tb),
     (row 0x00A 2 (fO 0x85) (fI 2) 0 0x80, .yield (ar 2 (ob 0x85) (im 2) .none) .nempty),
     (row 0x00B 2 (fO 0x85) 0 0 0x100, .wait (ar 2 (ob 0x85) .none .none) .nfull),
     (row 0x00B 2 (fK 5) 0 (fK 6) 0x180, .wait (ar 2 (k 5) .none (k 6)) .tl),
     (row 0x00C 3 0 0 0 0, .elect (ar 3 .none .none .none)),
     (row 0x00D 3 (fO 0x8004) 0 0 0, .poll (ar 3 (.obj 4 true) .none .none) .none_),
     (row 0x00D 3 (fO 0xC) 0 0 0x100, .poll (ar 3 (ob 12) .none .none) .count),
     (row 0x00E 0 (fK 3) 0 0 0, .trap (ar 0 (k 3) .none .none)),
     (row 0x00F 0 (fI 31) 0 0 0xC00, .trapfence (ar 0 (.imm 127) .none .none))] = true := by decide +kernel

theorem test_decode_synchronisation : reads
    [(row 0x010 0 (fO 0x20) (fK 3) (fK 8) 0x08, .barInit (ar 0 (ob 0x20) (k 3) (k 8)) .wg),
     (row 0x010 0 (fO 0x20) (fK 3) (fT 0) 0x10, .barInit (ar 0 (ob 0x20) (k 3) t0) .cluster),
     (row 0x011 9 (fO 0x7F) 0 0 0, .barArrive (ar 9 (ob 0x7F) .none .none)),
     (row 0x012 0 (fO 0x21) (fK 9) 0 0, .barWait (ar 0 (ob 0x21) (k 9) .none)),
     (row 0x013 0 (fO 0x21) 0 0 0, .barSync (ar 0 (ob 0x21) .none .none)),
     (row 0x014 0 (fO 0x21) (fI 4) (fK 8) 0, .barMask (ar 0 (ob 0x21) (im 4) (k 8))),
     (row 0x018 0 (fO 0x8F) (fI 1) 0 0, .qinit (ar 0 (ob 0x8F) (im 1) .none)),
     (row 0x019 0 (fO 0x80) (fK 8) 0 0, .qpush (ar 0 (ob 0x80) (k 8) .none)),
     (row 0x01A 8 (fO 0x80) 0 0 0, .qpop (ar 8 (ob 0x80) .none .none)),
     (row 0x01B 8 (fO 0x80) 0 0 0x280, .qtry (ar 8 (ob 0x80) .none .none) 5),
     (row 0x020 0 0 0 0 0x20, .phaseRel (ar 0 .none .none .none) .device),
     (row 0x021 0 0 0 0 0x28, .phaseAcq (ar 0 .none .none .none) .system),
     (row 0x022 0 0 0 0 0x08, .fence (ar 0 .none .none .none) .wg),
     (row 0x023 10 0 0 0 0x10, .tlsig (ar 10 .none .none .none) .cluster),
     (row 0x024 0 (fB 2 5) (fK 4) 0 0x18, .tlwait (ar 0 (bk 2 5) (k 4) .none) .die),
     (row 0x028 7 (fI 0) (0) 0 0x880, .s2k (ar 7 .none .none .none) .warpid true),
     (row 0x028 8 (fI 4) (0) 0 0xC00, .s2k (ar 8 .none .none .none) .time false),
     (row 0x029 0x11 (fK 7) 0 0 0, .k2s (ar 0 (k 7) .none .none) .arithFlags),
     (row 0x02A 0 0 0 0 0x1BA, .setmode (ar 0 .none .none .none) true .ru true true true true)] = true := by decide +kernel

theorem test_decode_privileged : reads
    [(row 0x070 12 (fK 1) (fI 1) 0 0, .wstat (ar 12 (k 1) (im 1) .none)),
     (row 0x071 13 (fK 1) (fK 2) 0 0, .wregR (ar 13 (k 1) (k 2) .none)),
     (row 0x071 0 (fK 1) (fK 2) (fK 3) 0x80, .wregW (ar 0 (k 1) (k 2) (k 3))),
     (row 0x072 0 (fK 1) (fI 0) 0 0xC00, .wresume (ar 0 (k 1) (.imm 3) .none)),
     (row 0x073 0 (fK 1) 0 0 0, .wkill (ar 0 (k 1) .none .none)),
     (row 0x074 0 0 0 0 0, .eret (ar 0 .none .none .none)),
     (row 0x075 0 (fK 2) 0 0 0, .tlbinvPage (ar 0 (k 2) .none .none)),
     (row 0x075 0 0 0 0 0x80, .tlbinvAll (ar 0 .none .none .none)),
     (row 0x076 5 (fI 0) 0 0 0x800, .emuargs (ar 5 (.imm 2) .none .none)),
     (row 0x076 0 (fI 0) (fV 5) 0 0xC80, .emuargsW (ar 0 (.imm 3) (v 5) .none))] = true := by decide +kernel

theorem test_decode_uniform : reads
    [(row 0x080 4 (fK 1) (fI 2) 0 0x400, .kadd (ar 4 (k 1) (.imm 9) .none)),
     (row 0x081 4 (fB 15 0x3FFF) (fK 2) 0 0, .ksub (ar 4 (bk 15 0x3FFF) (k 2) .none)),
     (row 0x082 4 (fK 1) (fT 0) 0 0, .kmul (ar 4 (k 1) t0 .none)),
     (row 0x083 4 (fK 1) (fK 2) 0 0x40, .kmulh (ar 4 (k 1) (k 2) .none) true),
     (row 0x084 4 (fK 1) (fK 2) (fK 3) 0, .kmad (ar 4 (k 1) (k 2) (k 3))),
     (row 0x085 4 (fK 1) (fK 2) 0 0, .kshl (ar 4 (k 1) (k 2) .none)),
     (row 0x086 4 (fK 1) (fK 2) 0 0, .kshr (ar 4 (k 1) (k 2) .none)),
     (row 0x087 4 (fK 1) (fK 2) 0 0, .ksar (ar 4 (k 1) (k 2) .none)),
     (row 0x088 4 (fK 0x8001) (fK 2) 0 0, .kand (ar 4 (.k 1 true false) (k 2) .none)),
     (row 0x089 4 (fK 1) (fK 2) 0 0, .kor (ar 4 (k 1) (k 2) .none)),
     (row 0x08A 4 (fK 1) (fK 2) 0 0, .kxor (ar 4 (k 1) (k 2) .none)),
     (row 0x08B 4 (fK 1) (fK 2) 0 0x40, .kmin (ar 4 (k 1) (k 2) .none) true),
     (row 0x08C 4 (fK 1) (fK 2) 0 0, .kmax (ar 4 (k 1) (k 2) .none) false),
     (row 0x08D 4 (fK 1) (fK 2) (fO 0xB) 0, .ksel (ar 4 (k 1) (k 2) (ob 11))),
     (row 0x08E 4 (fK 0x4001) 0 0 0, .kmov (ar 4 (.k 1 false true) .none .none)),
     (row 0x08F 4 (fK 1) (fK 2) 0 0x2C0, .kcmp (ar 4 (k 1) (k 2) .none) true .ge),
     (row 0x090 4 (fK 1) 0 0 0, .kclz (ar 4 (k 1) .none .none)),
     (row 0x091 4 (fK 1) 0 0 0, .kpopc (ar 4 (k 1) .none .none)),
     (row 0x092 4 (fK 1) (fK 2) 0 0x40, .kbfe (ar 4 (k 1) (k 2) .none) true),
     (row 0x093 4 (fK 1) (fK 2) (fK 3) 0, .kbfi (ar 4 (k 1) (k 2) (k 3))),
     (row 0x0C0 4 (fK 6) (fI 2) 0 0x80, .kldGlobal (ar 4 (k 6) (im 2) .none) true),
     (row 0x0C0 4 (fK 7) 0 (fB 3 8) 0x06, .kldBank (ar 4 (k 7) .none (bk 3 8)) false)] = true := by decide +kernel

theorem test_decode_uniform_64 : reads
    [(row 0x0A0 4 (fK 2) (fK 6) 0 0, .kadd64 (ar 4 (k 2) (k 6) .none)),
     (row 0x0A1 4 (fK 2) (fK 6) 0 0, .ksub64 (ar 4 (k 2) (k 6) .none)),
     (row 0x0A2 4 (fK 2) (fK 6) 0 0, .kmul64 (ar 4 (k 2) (k 6) .none)),
     (row 0x0A3 4 (fK 2) (fK 6) 0 0, .kmulh64 (ar 4 (k 2) (k 6) .none) false),
     (row 0x0A4 4 (fK 2) (fK 6) (fK 62) 0, .kmad64 (ar 4 (k 2) (k 6) (k 62))),
     (row 0x0A5 4 (fK 2) (fK 5) 0 0, .kshl64 (ar 4 (k 2) (k 5) .none)),
     (row 0x0A6 4 (fK 2) (fK 5) 0 0, .kshr64 (ar 4 (k 2) (k 5) .none)),
     (row 0x0A7 4 (fK 2) (fK 5) 0 0, .ksar64 (ar 4 (k 2) (k 5) .none)),
     (row 0x0A8 4 (fK 2) (fK 6) 0 0, .kand64 (ar 4 (k 2) (k 6) .none)),
     (row 0x0A9 4 (fK 2) (fK 6) 0 0, .kor64 (ar 4 (k 2) (k 6) .none)),
     (row 0x0AA 4 (fK 2) (fK 6) 0 0, .kxor64 (ar 4 (k 2) (k 6) .none)),
     (row 0x0AB 4 (fK 2) (fK 6) 0 0, .kmin64 (ar 4 (k 2) (k 6) .none) false),
     (row 0x0AC 4 (fK 2) (fK 6) 0 0x40, .kmax64 (ar 4 (k 2) (k 6) .none) true),
     (row 0x0AD 4 (fK 2) (fK 6) (fO 8) 0, .ksel64 (ar 4 (k 2) (k 6) (ob 8))),
     (row 0x0AE 4 (fB 0 6) 0 0 0, .kmov64 (ar 4 (bk 0 6) .none .none)),
     (row 0x0AF 7 (fK 2) (fK 6) 0 0x100, .kcmp64 (ar 7 (k 2) (k 6) .none) false .lt),
     (row 0x0B0 5 (fK 2) 0 0 0, .kclz64 (ar 5 (k 2) .none .none)),
     (row 0x0B1 5 (fK 2) 0 0 0, .kpopc64 (ar 5 (k 2) .none .none)),
     (row 0x0B2 4 (fK 2) (fK 5) 0 0, .kbfe64 (ar 4 (k 2) (k 5) .none) false),
     (row 0x0B3 4 (fK 2) (fK 5) (fK 6) 0, .kbfi64 (ar 4 (k 2) (k 5) (k 6)))] = true := by decide +kernel

theorem test_decode_vector_integer : reads
    [(row 0x100 4 (fV 1) (fV 2) 0 0x90, .iadd (ar 4 (v 1) (v 2) .none) true true),
     (row 0x101 4 (fV 1) (fK 2) 0 0x10, .isub (ar 4 (v 1) (k 2) .none) false true),
     (row 0x102 4 (fV 1) (fB 1 2) 0 0x80, .imul (ar 4 (v 1) (bk 1 2) .none) true false),
     (row 0x103 4 (fV 1) (fV 2) 0 0, .imulh (ar 4 (v 1) (v 2) .none) false),
     (row 0x104 4 (fV 1) (fV 2) (fV 255) 0, .imad (ar 4 (v 1) (v 2) (v 255)) false false),
     (row 0x105 4 (fV 1) (fV 2) (fV 6) 0x90, .imadw (ar 4 (v 1) (v 2) (v 6)) true true),
     (row 0x106 4 (fV 1) (fV 2) 0 0, .ishl (ar 4 (v 1) (v 2) .none)),
     (row 0x107 4 (fV 1) (fV 2) 0 0, .ishr (ar 4 (v 1) (v 2) .none)),
     (row 0x108 4 (fV 1) (fV 2) 0 0, .isar (ar 4 (v 1) (v 2) .none)),
     (row 0x109 4 (fV 1) (fV 2) 0 0, .land (ar 4 (v 1) (v 2) .none)),
     (row 0x10A 4 (fV 1) (fV 2) 0 0, .lor (ar 4 (v 1) (v 2) .none)),
     (row 0x10B 4 (fV 1) (fV 2) 0 0, .lxor (ar 4 (v 1) (v 2) .none)),
     (row 0x10C 4 (fV 1) 0 0 0, .lnot (ar 4 (v 1) .none .none)),
     (row 0x10D 4 (fV 1) (fV 2) 0 0x80, .imin (ar 4 (v 1) (v 2) .none) true),
     (row 0x10E 4 (fV 1) (fV 2) 0 0, .imax (ar 4 (v 1) (v 2) .none) false),
     (row 0x10F 4 (fV 1) 0 0 0x10, .iabs (ar 4 (v 1) .none .none) true),
     (row 0x110 4 (fV 1) (fV 2) (fO 7) 0, .isel (ar 4 (v 1) (v 2) (ob 7))),
     (row 0x111 7 (fV 1) (fV 2) 0 0x85, .icmp (ar 7 (v 1) (v 2) .none) true .ge),
     (row 0x112 4 (fV 1) (fV 2) 0 0x80, .ibfe (ar 4 (v 1) (v 2) .none) true),
     (row 0x113 4 (fV 1) (fV 2) (fV 3) 0, .ibfi (ar 4 (v 1) (v 2) (v 3))),
     (row 0x114 4 (fV 1) 0 0 0, .ipopc (ar 4 (v 1) .none .none)),
     (row 0x115 4 (fV 1) 0 0 0, .iclz (ar 4 (v 1) .none .none)),
     (row 0x116 4 (fV 1) 0 0 0, .ibrev (ar 4 (v 1) .none .none)),
     (row 0x117 4 (fV 1) (fV 2) (fV 3) 0, .bpick (ar 4 (v 1) (v 2) (v 3))),
     (row 0x118 4 (fV 1) (fV 2) (fV 3) 0x110, .idp4 (ar 4 (v 1) (v 2) (v 3)) true false true),
     (row 0x119 4 (fV 1) (fV 2) (fV 3) 0x280, .idp2 (ar 4 (v 1) (v 2) (v 3)) true false true false),
     (row 0x11A 4 (fT 0) 0 0 0, .imov (ar 4 t0 .none .none))] = true := by decide +kernel

theorem test_decode_vector_float : reads
    [(row 0x180 4 (fV 0xC001) (fV 2) 0 0x3D, .fadd (ar 4 (.v 1 true true) (v 2) .none) { rnd := .rna, ftz := true, sat := true, nanp := true }),
     (row 0x181 4 (fV 1) (fV 2) 0 0, .fsub (ar 4 (v 1) (v 2) .none) {}),
     (row 0x182 4 (fV 1) (fT 0) 0 0x02, .fmul (ar 4 (v 1) t0 .none) { rnd := .rz }),
     (row 0x183 4 (fV 1) (fV 2) (fV 3) 0x10, .ffma (ar 4 (v 1) (v 2) (v 3)) { sat := true }),
     (row 0x184 4 (fV 1) (fV 2) 0 0x20, .fmin (ar 4 (v 1) (v 2) .none) true false),
     (row 0x185 4 (fV 1) (fV 2) 0 0x08, .fmax (ar 4 (v 1) (v 2) .none) false true),
     (row 0x186 0 (fV 1) (fV 2) 0 0x308, .fcmp (ar 0 (v 1) (v 2) .none) .num true),
     (row 0x187 4 (fV 1) 0 0 0, .fclass (ar 4 (v 1) .none .none)),
     (row 0x188 4 (fV 1) 0 0 0x23, .frnd (ar 4 (v 1) .none .none) true false .ru),
     (row 0x189 4 (fV 1) (fV 2) 0 0x80, .hadd2 (ar 4 (v 1) (v 2) .none) true {}),
     (row 0x18A 4 (fV 1) (fV 2) (fV 3) 0x08, .hfma2 (ar 4 (v 1) (v 2) (v 3)) false { ftz := true }),
     (row 0x18B 4 (fV 1) (fV 2) (fV 3) 0x81, .fdot2 (ar 4 (v 1) (v 2) (v 3)) true { rnd := .rne }),
     (row 0x18C 3 (fV 2) (fI 0x54) 0 0x400, .cvt (ar 3 (v 2) .none .none) {} { df := .fp16, sf := .fp32, part := 1 }),
     (row 0x18D 4 (fV 1) 0 0 0x314, .bfpack (ar 4 (v 1) .none .none) .m8 true false .rd),
     (row 0x18E 4 (fV 1) (fV 2) 0 0, .bfunpack (ar 4 (v 1) (v 2) .none) .m2 false .mode),
     (row 0x200 4 (fV 1) 0 0 0x08, .rcp (ar 4 (v 1) .none .none) { ftz := true }),
     (row 0x201 4 (fV 1) 0 0 0, .rsq (ar 4 (v 1) .none .none) {}),
     (row 0x202 4 (fV 1) 0 0 0, .sqrt (ar 4 (v 1) .none .none) {}),
     (row 0x203 4 (fV 1) 0 0 0, .ex2 (ar 4 (v 1) .none .none) {}),
     (row 0x204 4 (fV 1) 0 0 0, .lg2 (ar 4 (v 1) .none .none) {}),
     (row 0x205 4 (fV 1) 0 0 0, .sin (ar 4 (v 1) .none .none) {}),
     (row 0x206 4 (fV 1) 0 0 0, .cos (ar 4 (v 1) .none .none) {}),
     (row 0x207 4 (fV 1) 0 0 0, .tanh (ar 4 (v 1) .none .none) {})] = true := by decide +kernel

theorem test_decode_cross_lane : reads
    [(row 0x210 3 (fV 2) (fI 0x3FFFF) 0 0xCB9, .xlane (ar 3 (v 2) (.imm 0xFFFFF) .none) 1 7 .shift),
     (row 0x211 3 (fV 2) 0 0 0x382, .qswap (ar 3 (v 2) .none .none) 7 .y),
     (row 0x212 3 (fV 2) 0 0 0x10, .scan (ar 3 (v 2) .none .none) (.add true)),
     (row 0x213 3 (fV 2) 0 0 0x200, .wred (ar 3 (v 2) .none .none) .umax),
     (row 0x214 6 (fV 4) (fO 0x10) (fK 2) 0, .segscan (ar 6 (v 4) (ob 0x10) (k 2)) (.add false)),
     (row 0x215 7 (fV 4) (fO 0x10) (fK 0) 0x100, .segred (ar 7 (v 4) (ob 0x10) (k 0)) .max),
     (row 0x216 6 (fV 4) 0 0 0x100, .lpeerLead (ar 6 (v 4) .none .none) true),
     (row 0x216 7 (fV 4) 0 0 0x80, .lpeerRank (ar 7 (v 4) .none .none) false),
     (row 0x220 8 (fV 4) (fO 0x17) (fK 2) 0x21, .nstat (ar 8 (v 4) (ob 0x17) (k 2)) true false .rne),
     (row 0x221 7 (fV 4) (fV 6) (fK 2) 0x310, .napply (ar 7 (v 4) (v 6) (k 2)) 6 { sat := true }),
     (row 0x222 8 (fV 4) (fV 6) (fK 2) 0x088, .smaxstep (ar 8 (v 4) (v 6) (k 2)) 1 false true .mode)] = true := by decide +kernel

theorem test_decode_memory : reads
    [(row 0x280 8 (fV 4) (fI 16) 0 0x300, .ld (ar 8 (v 4) (im 16) .none) .b128 .global),
     (row 0x280 8 (fV 5) 0 0 0x081, .ld (ar 8 (v 5) .none .none) .s8 .slice),
     (row 0x280 8 (fV 5) (fI 1) 0 0xC03, .ldCluster (ar 8 (v 5) (.imm 7) .none) .u8),
     (row 0x281 0 (fV 5) (fT 0) (fV 7) 0x102, .st (ar 0 (v 5) t0 (v 7)) .b16 .scratch),
     (row 0x281 0 (fV 5) (fK 6) (fV 7) 0x203, .stCluster (ar 0 (v 5) (k 6) (v 7)) .b32),
     (row 0x282 8 (fV 5) 0 (fB 2 0x40) 0x286, .ldc (ar 8 (v 5) .none (bk 2 0x40)) .b64),
     (row 0x283 8 (fV 5) 0 0 0x08D, .lda (ar 8 (v 5) .none .none) .f32 true),
     (row 0x284 0 (fV 5) 0 (fV 7) 0x105, .sta (ar 0 (v 5) .none (v 7)) .i32 false),
     (row 0x285 8 (fV 4) (fI 0) (fV 7) 0x020, .atom (ar 8 (v 4) .none (v 7)) .device .global { op := .int .add false }) ,
     (row 0x286 0 (fV 5) (fI 0x12) (fV 8) 0x40B, .atomRed (ar 0 (v 5) .none (v 8)) .wg .cluster { op := .int .cas false, rank := 1 }),
     (row 0x287 8 (fV 5) (fK 2) (fO 0x11) 0x182, .ldseq (ar 8 (v 5) (k 2) (ob 0x11)) .b64 true .scratch),
     (row 0x288 0 (fV 4) 0 0 0x080, .prefetch (ar 0 (v 4) .none .none) .l2 .global),
     (row 0x289 0 (fV 5) 0 0 0x004, .cctlEvict (ar 0 (v 5) .none .none) .cistern),
     (row 0x289 0 0 0 0 0x080, .cctlEvictall (ar 0 .none .none .none))] = true := by decide +kernel

theorem test_decode_copy : reads
    [(row 0x300 10 (fB 2 0x40) (fK 16) 0 0x040, .tcopy (ar 10 (bk 2 0x40) (k 16) .none) { n := true }),
     (row 0x301 0 (fK 3) (fK 8) (fK 4) 0x380, .tstore (ar 0 (k 3) (k 8) (k 4)) { crc := true, seq := true, sh := true }),
     (row 0x302 0 (fB 2 0x40) (fK 16) (fV 5) 0x200, .tgather (ar 0 (bk 2 0x40) (k 16) (v 5)) .rows true false),
     (row 0x303 6 (fB 2 0x40) (fK 16) (fV 6) 0x048, .tscatter (ar 6 (bk 2 0x40) (k 16) (v 6)) .addr false true),
     (row 0x304 6 (fI 15) (fK 16) (fK 24) 0xC40, .txform (ar 6 (.imm 63) (k 16) (k 24)) true),
     (row 0x305 0 0 (fK 16) (fT 0) 0, .tfill (ar 0 .none (k 16) t0) false),
     (row 0x305 0 (fK 5) (fI 1) 0 0x008, .tfillTb (ar 0 (k 5) (im 1) .none)),
     (row 0x305 0 (fK 5) 0 0 0x010, .tfillTbinv (ar 0 (k 5) .none .none)),
     (row 0x306 8 0 (fK 16) 0 0x160, .tcoll (ar 8 .none (k 16) .none) .bcast true true),
     (row 0x307 0 (fK 8) 0 0 0, .tcancel (ar 0 (k 8) .none .none)),
     (row 0x310 7 (fK 6) (fI 16) 0 0, .shld (ar 7 (k 6) (im 16) .none) .global),
     (row 0x311 7 0 0 0 0, .shsync (ar 7 .none .none .none)),
     (row 0x312 9 (fO 0x17) (fI 1) 0 0x400, .shinfo (ar 9 (ob 0x17) (.imm 5) .none) .item),
     (row 0x312 9 (fO 0x10) (fK 4) 0 0x008, .shinfo (ar 9 (ob 0x10) (k 4) .none) .bound)] = true := by decide +kernel

theorem test_decode_matrix : reads
    [(row 0x380 6 (fK 8) (fT 0) (fK 3) 0x082, .mld (ar 6 (k 8) t0 (k 3)) 1 .bm),
     (row 0x381 63 (fM 0) (fK 20) (fK 8) 0x384, .mma (ar 63 (.m 0) (k 20) (k 8)) { q := 7, more := true }),
     (row 0x382 0 (fM 0) (fK 6) (fK 12) 0x032, .mmai (ar 0 (.m 0) (k 6) (k 12)) { seg := true, vs := true, trap := true }),
     (row 0x383 1 (fM 2) (fK 6) (fK 12) 0x040, .mmab (ar 1 (.m 2) (k 6) (k 12)) { p := true }),
     (row 0x384 0 0 0 0 0, .mdrain (ar 0 .none .none .none) false),
     (row 0x385 3 (fI 16) 0 0 0x040, .mzero (ar 3 (im 16) .none .none) true),
     (row 0x386 3 (fK 1) 0 0 0, .mpromoI2P (ar 3 (k 1) .none .none) false),
     (row 0x386 3 (fT 0) 0 0 0x041, .mpromoP2I (ar 3 t0 .none .none) true),
     (row 0x387 0 (fK 10) 0 0 0, .mcfg (ar 0 (k 10) .none .none)),
     (row 0x388 22 (fI 0) 0 0 0xC00, .mstat (ar 22 (.imm 3) .none .none)),
     (row 0x389 0 (fK 8) 0 0 0x001, .mrel (ar 0 (k 8) .none .none) true)] = true := by decide +kernel

/-- The retired opcodes keep their words whole (R166, R325); the reuse hint of an array instruction is its CS bit (R289). -/
theorem test_decode_retired : reads
    [(row 0x030 0 0 0 0 0, .syncw { words := row 0x030 0 0 0 0 0, carrier := some carrier }),
     (row 0x140 4 (fV 1) (fV 2) (fV 3) 0, .imad24 { words := row 0x140 4 (fV 1) (fV 2) (fV 3) 0, carrier := some carrier }),
     (row 0x1C0 4 (fV 1) (fV 2) (fV 3) 0, .fmad16 { words := row 0x1C0 4 (fV 1) (fV 2) (fV 3) 0, carrier := some carrier }),
     (row 0x240 4 (fV 1) 0 0 0, .loge { words := row 0x240 4 (fV 1) 0 0 0, carrier := some carrier }),
     (row 0x2C0 4 (fV 2) 0 0 0, .ldv { words := row 0x2C0 4 (fV 2) 0 0 0, carrier := some carrier }),
     (row 0x3C0 0 (fM 0) (fK 8) (fK 4) 0, .mma4 { words := row 0x3C0 0 (fM 0) (fK 8) (fK 4) 0, carrier := some carrier }),
     (row 0x381 0 (fM 0) (fK 20) (fK 8) 0 ||| 1, .mma { ar 0 (.m 0) (k 20) (k 8) with cs := true } {}),
     (row 0x3FF 0 0 0 0 0, .illegalOpcode (row 0x3FF 0 0 0 0 0))] = true := by decide +kernel

/-! ## Ill-formed terms: each check of `wellFormed` refuses one -/

/-- An epilogue warp of a level 2 kernel with 64 registers, outside a handler, with flume 0 and shape register 0 declared. -/
def epiCx : DecodeCtx :=
  { role := .epi, width := 32, regs := 64, inHandler := false, level := 2, transl := false, barriers := 8,
    flumes := some (.epi, .copy) :: List.replicate 15 none, shapes := true :: List.replicate 7 false }

theorem test_wellformed : [Instr.nop {}, .imad (ar 63 (v 1) (v 2) (.inlit 7)) false false, .imadw (ar 2 (v 1) (v 2) (v 6)) true true, .qpush (ar 0 (ob 0x80) (k 2) .none),
    .join {}, .barSync (ar 0 (ob 0x27) .none .none)].map (·.wellFormed { epiCx with level := 3 }) = List.replicate 6 true := by decide +kernel

/-- No form: an event of another agent is no instruction of a warp. Level, role and privilege (R23). -/
theorem test_illformed_issue : [Instr.deviceReset, .imadw (ar 2 (v 1) (v 2) (v 6)) true true, .tcopy (ar 0 (bk 2 0x40) (k 16) .none) {}, .eret {}].map
    (·.wellFormed epiCx) = List.replicate 4 false := by decide +kernel

/-- Registers beyond the budget, as destination and as each source (R23, check 4). -/
theorem test_illformed_budget : [Instr.imov (ar 64 (v 1) .none .none), .imov (ar 1 (v 64) .none .none), .iadd (ar 1 (v 1) (v 64) .none) false false,
    .imad (ar 1 (v 1) (v 1) (v 64)) false false].map (·.wellFormed epiCx) = List.replicate 4 false := by decide +kernel

/-- A destination out of its file or odd, operands that the form refuses, two literals or carriers that disagree (R145 to R151). -/
theorem test_illformed_operands : [Instr.kadd (ar 64 (k 1) (k 2) .none), .kadd64 (ar 3 (k 2) (k 4) .none), .kadd (ar 4 (v 1) (k 2) .none), .kadd (ar 4 (k 1) .none .none),
    .kadd (ar 4 (k 1) (k 2) (k 3)), .imov (ar 4 (.inlit 7) .none .none), .kmad (ar 4 (im 1) (im 2) (k 3)), .imad (ar 4 (v 1) (.inlit 7) (.inlit 8)) false false,
    .kmad (ar 4 (k 1) (.trail 0 1) (.trail 0 2)), .xlane (ar 4 (.v 2 true false) (k 1) .none) 7 7 .pick, .kbfi (ar 4 (k 1) (.k 2 false true) (ob 8))].map
    (·.wellFormed epiCx) = List.replicate 11 false := by decide +kernel

/-- A per-lane guard file where the class has none, a hint that is not accepted, a guard on JOIN, an in-word literal beside modifiers (R144, R150, R152, R178). -/
theorem test_illformed_modifiers : [Instr.kadd { ar 4 (k 1) (k 2) .none with g := { gfile := true, idx := 7, neg := false } }, .iadd { ar 4 (v 1) (.inlit 7) .none with cs := true } false false,
    .join { g := { gfile := false, idx := 1, neg := false } }, .iadd (ar 4 (v 1) (.inlit 7) .none) true false].map
    (·.wellFormed epiCx) = List.replicate 4 false := by decide +kernel

/-- Checks of an entry: a barrier that the kernel has not, a flume that it has not declared or that this role does not push, a shape register that it has not, a segment wider than
the warp, an array window beyond the last m register (R153 and the entries). -/
theorem test_illformed_entry : [Instr.barSync (ar 0 (ob 0x28) .none .none), .qpush (ar 0 (ob 0x81) (k 2) .none), .qpop (ar 2 (ob 0x80) .none .none),
    .segscan (ar 6 (v 4) (ob 0x11) (k 2)) (.add false), .xlane (ar 4 (v 2) (k 1) .none) 7 6 .pick].map (·.wellFormed { epiCx with level := 3 }) = List.replicate 5 false := by
  decide +kernel

/-- A well-formed instruction is decoded from its words; a slot of a refused one is refused by name. -/
theorem test_refused : decode epiCx (row 0x0A0 3 (fK 2) (fK 6) 0 0) none = .err (.operand 0) ∧ decode epiCx (row 0x300 0 (fB 2 0x40) (fK 16) 0 0) none = .err .role ∧
    decode epiCx (row 0x105 4 (fV 1) (fV 2) (fV 6) 0) none = .ok (.illegalOpcode (row 0x105 4 (fV 1) (fV 2) (fV 6) 0)) ∧ decode epiCx (row 0x074 0 0 0 0 0) none = .err .privilege ∧
    decode epiCx (row 0x11A 64 (fV 1) 0 0 0) none = .err (.budget 0 64) := by decide +kernel

/-! ## States that meet the hypotheses of the statements -/

/-- A kernel with slices of 64 bytes. -/
def kernel : BitVec 1024 := placedKernel ||| (0x40 : BitVec 1024) <<< 80
/-- A state whose warp may issue opcode `op`: one workgroup of one warp, in context 0, whose page of 1 GiB maps addresses to themselves and
stands in the TLB of core 0; its flash, which the model leaves open, is empty. -/
def st (op : Nat) : State :=
  let s := State.reset.placeFetch (op * 2 ^ 86)
  ({ s with fleet := { s.fleet with flash := [] } }.updWg 0 fun g => { g with kdesc := kernel, slices := 0x20000 }).updCore 0 fun c =>
    { c with tlb := [{ ctx := 0, va := 0, bits := 30, pte := 0x31F }] }
/-- The same with k registers written: numbers and values. -/
def withK (s : State) (l : List (Nat × Word)) : State := s.updWarp 0 0 fun w => l.foldl (fun w p => w.setK p.1 p.2) w
/-- The same with the mask `m`. -/
def masked (s : State) (m : LaneMask) : State := s.updSplit 0 0 0 fun x => { x with mask := m }
/-- A guard that holds in no lane: p0, or kp0, is false. -/
def never : Guard := { gfile := false, idx := 0, neg := false }
/-- Operands under that guard. -/
def off (o : Args) : Args := { o with g := never }

theorem all_lanes {m : LaneMask} {P : Nat → Prop} (h : ∀ l < 64, m.getLsbD l = true → P l) : ∀ l, m.getLsbD l = true → P l :=
  fun l hl => h l (Nat.lt_of_not_le fun h64 => by simp [BitVec.getLsbD_of_ge m l h64] at hl) hl

theorem wit_UniformResults32 : (st 0x080).acts 0x080 (ar 63 (k 1) (k 2) (k 3)).g = true := by decide +kernel
theorem wit_UniformResults64 : (st 0x0A0).acts 0x080 (ar 62 (k 2) (k 6) (k 62)).g = true := by decide +kernel
theorem wit_UniformCompareAndFalseGuard : (st 0x08F).acts 0x080 (ar 7 (k 1) (k 2) .none).g = true ∧ (st 0x08F).acts 0x080 (off (ar 7 (k 1) (k 2) .none)).g = false ∧
    (6 < 7 ∧ ¬7 < 7) := by decide +kernel
theorem wit_VectorExact : (ar 255 (v 1) (v 2) (v 3)).d < 256 := by decide
theorem wit_VectorBitsWideAndCompare : (ar 255 (v 1) (v 2) (v 3)).d < 256 ∧ (ar 254 (v 1) (v 2) (v 4)).d + 1 < 256 := by decide
theorem wit_FloatResults : (ar 255 (v 1) (v 2) (v 3)).d < 256 := by decide
theorem wit_FloatCompareAndPacked : (ar 255 (v 1) (v 2) (v 3)).d < 256 := by decide
/-- A 64-bit result, each last part of a narrower one, and a BFPACK whose second destination is the last register. -/
theorem wit_ConversionAndBlockPack : (numFmt .int64).width = 64 ∧ (ar 254 (v 1) .none .none).d + 1 < 256 ∧
    ((numFmt .fp16).width < 64 ∧ (numFmt .fp16).width * 1 + (numFmt .fp16).width ≤ 32) ∧ ((numFmt .int8).width < 64 ∧ (numFmt .int8).width * 3 + (numFmt .int8).width ≤ 32) ∧
    ((numFmt .fp32).width < 64 ∧ (numFmt .fp32).width * 0 + (numFmt .fp32).width ≤ 32) := by decide +kernel

/-- The brackets of `RoundingIsExact` around a magnitude: `lo` and its successor. -/
def brackets (f : FFmt) (m : Nat) (e : Int) (lo : Nat) : Bool :=
  let mag (b : Nat) : Nat := if b < 2 ^ f.fbits then b else (2 ^ f.fbits + b % 2 ^ f.fbits) * 2 ^ (b / 2 ^ f.fbits - 1)
  let scaleB (b : Nat) : Nat := mag b * 2 ^ (f.minExp - e).toNat
  let exact := m * 2 ^ (e - f.minExp).toNat
  decide (lo + 1 ≤ f.maxBits) && decide (scaleB lo ≤ exact) && decide (exact < scaleB (lo + 1))
/-- A tie, an exact value, the least and the greatest pair of neighbours, a subnormal; an exact zero sum, of unlike zeros and of opposite values. -/
theorem wit_RoundingIsExact : brackets fp32 (2 ^ 24 + 1) 0 0x4B800000 = true ∧ brackets fp32 3 0 0x40400000 = true ∧ brackets fp16 1 (-25) 0 = true ∧
    brackets fp32 0xFFFFFE 104 0x7F7FFFFE = true ∧ brackets bf16 5 (-135) 1 = true ∧ brackets e4m3 0x0F 5 0x7E = false ∧ brackets e4m3 0x1B 4 0x7D = true ∧
    ((1 : Int) * (3 : Nat) + (-1) * (3 : Nat) = 0) := by decide +kernel

/-- A kernel of level 3 and one with LEGACY16. -/
theorem wit_LaneMoves : (ar 255 (v 2) (k 1) .none).d < 256 ∧ (st 0x210).curWg.legacy16 = false ∧
    ((st 0x210).updWg 0 fun g => { g with kdesc := kernel ||| (1 : BitVec 1024) <<< 22 }).curWg.legacy16 = true := by decide +kernel
theorem wit_ScanReduceAndPeers : (ar 255 (v 2) .none .none).d < 256 ∧ (ar 254 (v 2) .none .none).d + 1 < 256 := by decide

/-- The shape of R234's example, sequences of 5, 0 and 3 rows, bound to sh0; `cross` is its crossing policy. -/
def shape (cross : Nat) : ShapeReg :=
  { declared := true, max := 64, bound := true, addr := 0x100, space := 2, image := { rows := 8, nseq := 3, cross := cross, fill := 0xAB, bounds := [0, 5, 5, 8] } }
/-- A state with it. -/
def shaped (op cross : Nat) : State := (st op).updWg 0 fun g => { g with shapes := sset (fun _ => {}) g.shapes 0 (shape cross) }

theorem wit_SegmentedCombine : (ar 255 (v 4) (ob 0x10) (k 2)).d < 256 ∧ (ar 255 (v 4) (ob 0x10) (k 2)).b = .obj (0x10 + 0) false ∧
    ((shaped 0x214 0).curWg.shape 0).bound = true := by decide +kernel
theorem wit_Normalisation : ((shaped 0x220 0).curWg.shape 0).bound = true ∧ (ar 253 (v 4) (ob 0x10) (k 2)).d + 2 < 256 ∧
    (ar 253 (v 4) (ob 0x10) (k 2)).b = .obj (0x10 + 0) false ∧ (ar 255 (v 4) (v 6) (k 2)).d < 256 ∧ (ar 255 (v 4) (v 6) (k 2)).b = .v 6 false false := by decide +kernel
theorem wit_SoftmaxStep : (ar 253 (v 4) (v 6) (k 2)).d + 2 < 256 ∧ ((shaped 0x222 0).curWg.shape 0).bound = true := by decide +kernel

/-- Loads and stores of the last word of a slice, of the scratchpad and of the only member's scratchpad. -/
def edge : State := withK (st 0x280) [(1, 60), (2, 0xFFFC)]
theorem wit_ScratchpadLoadsAndStores : (ar 255 (k 1) .none (v 7)).d + LdSize.b32.regs ≤ 256 ∧
    (∀ l, (edge.active 0x280 .always).getLsbD l = true →
      ((edge.opnd .bits (k 1) l).setWidth 64 + edge.opnd64 .bits .none l).toNat + 4 ≤ edge.curWg.sliceBytes ∧
        ((edge.opnd .bits (k 1) l).setWidth 64 + edge.opnd64 .bits .none l).toNat % 4 = 0) ∧
    (∀ l, (edge.active 0x281 .always).getLsbD l = true →
      ((edge.opnd .bits (k 2) l).setWidth 64 + edge.opnd64 .bits .none l).toNat + 4 ≤ edge.curWg.userBytes ∧
        ((edge.opnd .bits (k 2) l).setWidth 64 + edge.opnd64 .bits .none l).toNat % 4 = 0) ∧
    (∀ l, (edge.active 0x281 .always).getLsbD l = true → (edge.opnd .bits (im 0) l).toNat < edge.curWg.size ∧
      (edge.opnd .bits (k 2) l).toNat + 4 ≤ (edge.wg (edge.member 0 (edge.opnd .bits (im 0) l).toNat)).userBytes ∧ (edge.opnd .bits (k 2) l).toNat % 4 = 0) := by
  and_intros
  all_goals first | decide +kernel | exact all_lanes (by decide +kernel)

/-- A load and a store of global memory at 0x50000, and of the cistern at its end, by every lane. -/
def glob : State := (withK (st 0x280) [(4, 0x50000), (5, 0), (6, 0xFFFC)]).updCtx 0 fun c => { c with csLen := 1 }
theorem wit_GlobalLoadsAndStores : (ar 255 (k 4) .none (v 7)).d + LdSize.b32.regs ≤ 256 ∧ glob.activeH 0x280 .always = glob.active 0x280 .always ∧
    (∀ l, (glob.active 0x280 .always).getLsbD l = true →
      glob.locate 0 0 l 0 0 (glob.laneAddr (ar 255 (k 4) .none (v 7)) 0 true l) 4 .read = .ok (.mem 0x50000 {}) ∧ glob.poisoned 0x50000 4 = false ∧ 0x50000 % 4 = 0) ∧
    (∀ l, (glob.active 0x280 .always).getLsbD l = true →
      glob.locate 0 0 l 4 0 (glob.laneAddr (ar 255 (k 6) .none (v 7)) 4 true l) 4 .read = .ok (.mem (Config.cisternBase + 0xFFFC) {}) ∧
        glob.poisoned (Config.cisternBase + 0xFFFC) 4 = false ∧ (Config.cisternBase + 0xFFFC) % 4 = 0) ∧
    (∀ l, (glob.active 0x281 .always).getLsbD l = true →
      glob.locate 0 0 l 0 0 (glob.laneAddr (ar 0 (k 4) .none (v 7)) 0 true l) 4 .write = .ok (.mem 0x50000 {}) ∧ ({} : PageAttr).stream = false) := by
  and_intros
  all_goals first | decide +kernel | exact all_lanes (by decide +kernel)

/-- The last word of a bank, the first address beyond it, a misaligned one; a KLD of global memory. -/
def bank (x : Word) : State := withK (st 0x282) [(1, x), (4, 0x50000), (5, 0)]
def bankAddr (s : State) (l : Nat) : Nat := (BitVec.ofNat 64 (4 * 0x40) + (s.opnd .bits (k 1) l).setWidth 64 + s.opnd64 .bits .none l).toNat
theorem wit_BankAndUniformLoads : (ar 255 (k 1) .none (bk 2 0x40)).c = .bank 2 0x40 ∧ (ar 255 (k 1) .none (bk 2 0x40)).d + LdcSize.b32.regs ≤ 256 ∧
    (∀ l, ((bank 0xFEFC).active 0x282 .always).getLsbD l = true → bankAddr (bank 0xFEFC) l + 4 ≤ 65536 ∧ bankAddr (bank 0xFEFC) l % 4 = 0) ∧
    (((bank 0xFF00).active 0x282 .always).getLsbD 0 = true ∧ bankAddr (bank 0xFF00) 0 + 4 > 65536) ∧ bankAddr (bank 2) 0 % 4 ≠ 0 ∧
    (bank 0).acts 0x0C0 .always = true ∧
    (bank 0).locate 0 0 0 0 0 ((bank 0).laneAddr (ar 8 (k 4) .none .none) 0 true 0) 4 .read = .ok (.mem 0x50000 {}) ∧ (bank 0).poisoned 0x50000 4 = false ∧ 0x50000 % 4 = 0 := by
  and_intros
  all_goals first | decide +kernel | exact all_lanes (by decide +kernel)

/-- The last entry of the workgroup's windows and the first beyond them; a workgroup of a pair for .FOL. -/
def accIx (s : State) (l : Nat) : Nat := ((s.opnd .bits (k 1) l).setWidth 64 + s.opnd64 .bits .none l).toNat
def accAt (x : Word) : State := (withK (st 0x283) [(1, x)]).updWg 0 fun g => { g with kdesc := g.kdesc ||| (1 : BitVec 1024) <<< 23 }
theorem wit_AccumulatorAccess : (accAt 0).curWg.paired = true ∧ (ar 254 (k 1) .none (v 8)).d + 2 ≤ 256 ∧
    (∀ l, ((accAt 131071).active 0x283 .always).getLsbD l = true → accIx (accAt 131071) l < (accAt 131071).curWg.windows * 16384) ∧
    (∀ l, ((accAt 131071).active 0x284 .always).getLsbD l = true → accIx (accAt 131071) l < (accAt 131071).curWg.windows * 16384) ∧
    ((accAt 131072).active 0x283 .always).getLsbD 0 = true ∧ ¬accIx (accAt 131072) 0 < (accAt 131072).curWg.windows * 16384 := by
  and_intros
  all_goals first | decide +kernel | exact all_lanes (by decide +kernel)

/-- Two lanes with an atomic each, on the last two words of the scratchpad; lane 31 alone with one on global memory. -/
def atoms : State := (masked (st 0x285) 3).updWarp 0 0 fun w => (w.setV 0 1 0xFFFC).setV 1 1 0xFFF8
def atom1 : State := withK (masked (st 0x285) 0x80000000) [(4, 0x50000), (5, 0)]
theorem wit_Atomics :
    (∀ l, (atoms.active 0x285 .always).getLsbD l = true → (atoms.opnd .bits (v 1) l).toNat + 4 ≤ atoms.curWg.userBytes ∧ (atoms.opnd .bits (v 1) l).toNat % 4 = 0) ∧
    (∀ l < 64, ∀ j < 64, (atoms.active 0x285 .always).getLsbD l = true → (atoms.active 0x285 .always).getLsbD j = true →
      (atoms.opnd .bits (v 1) l).toNat = (atoms.opnd .bits (v 1) j).toNat → l = j) ∧
    atom1.active 0x285 .always = 1#64 <<< 31 ∧
    atom1.locate 0 0 31 0 0 (atom1.laneAddr (ar 255 (k 4) .none (v 7)) 0 false 31) 4 .atomic = .ok (.mem 0x50000 {}) ∧ isHbm 0x50000 = true ∧ 0x50000 % 4 = 0 ∧
    (∀ line, atom1.lineKey line = none) ∧ atom1.poisoned 0x50000 4 = false ∧ ({} : PageAttr).stream = false ∧ atom1.Prompt ∧ atoms.Prompt := by
  refine ⟨all_lanes ?_, ?_, ?_, ?_, ?_, ?_, fun line => ?_, ?_⟩
  case refine_7 => unfold State.lineKey; split <;> rfl
  all_goals and_intros
  all_goals decide +kernel

/-- LDSEQ over rows 0 to 3 of one sequence, and over rows 4 to 7, which cross; with the policies of filling and of faulting. -/
def rag (mask : LaneMask) (cross : Nat) : State := withK (masked (shaped 0x287 cross) mask) [(1, 0xFFFC), (2, 0)]
def ragSeq (s : State) (l : Nat) : Option Nat := (s.curWg.shape 0).image.seq ((s.uni (k 2)).toNat + l)
theorem wit_RaggedLoad : (ar 255 (k 1) (k 2) (ob 0x10)).d + SeqSize.b32.regs ≤ 256 ∧ (ar 255 (k 1) (k 2) (ob 0x10)).c = .obj (0x10 + 0) false ∧
    ((rag 0xF 1).curWg.shape 0).bound = true ∧ (rag 0xF 1).activeH 0x287 .always = (rag 0xF 1).active 0x287 .always ∧
    ((rag 0xF 1).active 0x287 .always).getLsbD 0 = true ∧ (∀ l < 4, ragSeq (rag 0xF 1) l = ragSeq (rag 0xF 1) 0) ∧
    (ragSeq (rag 0xF0 2) 5 ≠ ragSeq (rag 0xF0 2) 4 ∧ ((rag 0xF0 2).curWg.shape 0).image.cross = 2) ∧
    (ragSeq (rag 0xF0 1) 5 ≠ ragSeq (rag 0xF0 1) 4 ∧ ((rag 0xF0 1).curWg.shape 0).image.cross = 1) ∧
    ((rag 0xF0 1).active 0x287 .always).getLsbD 4 = true ∧ (∀ j < 4, ((rag 0xF0 1).active 0x287 .always).getLsbD j = false) ∧
    (∀ l, ((rag 0xF 1).active 0x287 .always).getLsbD l = true → ((rag 0xF 1).opnd .bits (k 1) l).toNat + 4 ≤ (rag 0xF 1).curWg.userBytes ∧
      ((rag 0xF 1).opnd .bits (k 1) l).toNat % 4 = 0) := by
  and_intros
  all_goals first | decide +kernel | exact all_lanes (by decide +kernel)

/-- A core that holds a line. -/
theorem wit_CacheHints : let s := (st 0x289).updCore 0 fun c => { c with copies := [(7, { live := true, data := 1 })] }
    s.acts 0x289 .always = true ∧ (sget (fun _ => ({} : LineCopy)) s.curCore.copies 7).live = true := by decide +kernel

/-- Lane 1 with an address beyond the scratchpad after a good lane 0; lane 0 with a global address that its core's TLB does not hold. -/
def bad : State := (st 0x280).updWarp 0 0 fun w => (w.setV 0 1 0).setV 1 1 0x10000
def missing : State := (glob).updCore 0 fun c => { c with tlb := [] }
theorem wit_LaneFaultIsPrecise : (bad.active 0x280 .always).getLsbD 1 = true ∧
    (∀ j < 1, (bad.active 0x280 .always).getLsbD j = true → ∃ p, bad.locate 0 0 j 2 0 (bad.laneAddr (ar 8 (v 1) .none .none) 2 true j) 1 .read = .ok p) ∧
    bad.locate 0 0 1 2 0 (bad.laneAddr (ar 8 (v 1) .none .none) 2 true 1) 1 .read = .fault { code := 0x20, addr := 0x10000, data := 2 } ∧
    bad.locate 0 0 1 2 0 (bad.laneAddr (ar 8 (v 1) .none .none) 2 true 1) 1 .write = .fault { code := 0x20, addr := 0x10000, data := 2 } ∧
    (missing.active 0x280 .always).getLsbD 0 = true ∧ (missing.active 0x281 .always).getLsbD 0 = true ∧
    missing.locate 0 0 0 0 0 (missing.laneAddr (ar 8 (k 4) .none .none) 0 true 0) 4 .read = .miss ∧
    missing.locate 0 0 0 0 0 (missing.laneAddr (ar 8 (k 4) .none .none) 0 true 0) 4 .write = .miss := by
  and_intros
  all_goals first | decide +kernel | skip
  intro j hj _
  obtain rfl : j = 0 := by omega
  exact ⟨.sp 0 0, by decide +kernel⟩

theorem pair_of {α β : Type} {p : α × β} {b : β} {P : α → Prop} (h : p.2 = b) (hp : P p.1) : ∃ a, p = (a, b) ∧ P a := ⟨p.1, Prod.ext rfl h, hp⟩

/-- A line of NOPs of which slots 0, 2, 3 and 4 may be transferred to and slot 1 is a carrier. -/
def nops (op : Nat) : State := (st op).setMemBytes placedLine (toBytes 64 (Line.withParity (BitVec.ofNat 512 (2 ^ 19 + 2 ^ 27 * 29))).toNat)
/-- The issuing split changed. -/
def withSplit (s : State) (f : Split → Split) : State := s.updSplit 0 0 0 f
/-- Every entry of the warp's split table in use. -/
def full (s : State) : State := [1, 2, 3].foldl (fun s n => s.updSplit 0 0 n fun x => { x with live := true }) s
/-- p1 true in lane 0 alone, and a guard on it. -/
def half (s : State) : State := s.updWarp 0 0 fun w => { w with p := [(1, 1)] }
def g1 : Guard := { gfile := false, idx := 1, neg := false }
/-- A deferral record. -/
def drec (arrived : Bool) (pc : PC) : DeferRec := { arrived := arrived, pc := pc, mask := 2 }
def tgtOf (d : Nat) (s : State) : Nat → DWord := fun _ => (s.dispTarget (.imm (BitVec.ofNat 20 d))).setWidth 64

/-- A branch under a false guard, to a slot that is no target, by all lanes, by one lane with a free entry, with none, with four deferral records. -/
theorem wit_Transfers : (nops 1).active 1 never = 0 ∧
    (∃ s1, (nops 1).checkTargets 0 (tgtOf 1 (nops 1)) (lanesOf ((nops 1).active 1 .always)) [] = (s1, some (targetFault 0x40001, 0)) ∧ True) ∧
    (∃ s1, (nops 1).checkTargets 0 (tgtOf 2 (nops 1)) (lanesOf ((nops 1).active 1 .always)) [] = (s1, none) ∧
      (nops 1).curSplit.live = true ∧ ((nops 1).active 1 .always).getLsbD 0 = true ∧
        (nops 1).active 1 .always &&& laneSet (fun l => tgtOf 2 (nops 1) l == tgtOf 2 (nops 1) 0) = (nops 1).curSplit.mask) ∧
    (∃ s1, (half (nops 1)).checkTargets 0 (tgtOf 2 (nops 1)) (lanesOf ((half (nops 1)).active 1 g1)) [] = (s1, none) ∧
      s1.traces 0 0 4 = false ∧ (s1.core 0).late = [] ∧ (half (nops 1)).active 1 g1 = 1 ∧ (half (nops 1)).curSplit.mask ≠ 1 ∧ (half (nops 1)).curWarp.freeEntry = some 1) ∧
    ((full (nops 1)).curWarp.freeEntry = none ∧ (full (nops 1)).curSplit.defer.length < 4) ∧
    4 ≤ (withSplit (full (nops 1)) fun x => { x with defer := List.replicate 4 (drec false 0) }).curSplit.defer.length := by
  refine ⟨?a, pair_of ?b trivial, pair_of ?c ?d, pair_of ?e ?f, ?g, ?h⟩ <;> decide +kernel

/-- An EXIT by one lane, by all with a deferral record, beside another split, as the warp's and the workgroup's last. -/
theorem wit_ExitsAndJoins_exit : (half (st 6)).curSplit.mask &&& ~~~((half (st 6)).active 6 g1) ≠ 0 ∧ (st 6).curSplit.mask &&& ~~~((st 6).active 6 .always) = 0 ∧
    (st 6).traces 0 0 4 = false ∧ (withSplit (st 6) fun x => { x with defer := [drec false 0x40000] }).curSplit.defer = [drec false 0x40000] ∧
    ((st 6).curSplit.defer = [] ∧ (st 6).curSplit.handler = false) ∧ ((full (st 6)).split 0 0 3).live = true ∧
    (∀ m, m < 4 → m ≠ 0 → ((st 6).split 0 0 m).live = false) ∧ (∀ p ∈ (st 6).curWg.warps, p.1 ≠ 0 → p.2.exited = true) := by decide +kernel

/-- A split that waits at the same JOIN. -/
def joiner (s : State) (loops : List LoopRec) : State :=
  s.updSplit 0 0 1 fun _ => { live := true, st := .joinWait, pc := s.curSplit.pc, mask := 2, loops := loops }
def joinsWith (s : State) (m : Nat) : Bool :=
  m != 0 && (s.split 0 0 m).live && (s.split 0 0 m).st == .joinWait && (s.split 0 0 m).pc == s.curSplit.pc
theorem wit_ExitsAndJoins_join : (st 7).curSplit.defer = [] ∧ (∀ m < 4, joinsWith (st 7) m = false) ∧ joinsWith (joiner (st 7) []) 1 = true ∧
    ((joiner (st 7) []).split 0 0 1).loops = (joiner (st 7) []).curSplit.loops ∧ (st 7).curSplit.live = true ∧ ((joiner (st 7) []).core 0).late = [] ∧ (joiner (st 7) []).traces 0 0 4 = false ∧
    ((joiner (st 7) [{ first := 0, endLine := 0, endSlot := 0, count := 1 }]).split 0 0 1).loops ≠ (st 7).curSplit.loops ∧
    (drec false 0x40000).arrived = false ∧ ((drec true 0x40002).pc ≠ (st 7).curSplit.pc ∧ (drec true 0x40000).pc = (st 7).curSplit.pc) := by decide +kernel

/-- A LOOP in slot 0 over slot 2, with slot 3 as its exit; the same inside a loop that ends there; one with its end before its first slot; a record about to end at the LOOP's own slot. -/
def outerRec (n : Word) : LoopRec := { first := 0x40000, endLine := 0, endSlot := 2, count := n }
def hereRec (n : Word) : LoopRec := { first := 0x40000, endLine := 0, endSlot := 0, count := n }
def atLine (s : State) : State := withSplit s fun x => { x with line := some (0x40000, Line.withParity (BitVec.ofNat 512 (2 ^ 19 + 2 ^ 27 * 29))) }
def inLoop (s : State) (r : LoopRec) : State := withSplit s fun x => { x with loops := [r] }
theorem wit_Loops : (withSplit (nops 8) fun x => { x with defer := [drec false 0] }).curSplit.defer ≠ [] ∧
    4 ≤ (withSplit (nops 8) fun x => { x with loops := List.replicate 4 (outerRec 1) }).curSplit.loops.length ∧
    (∃ s1, (atLine (nops 8)).loopCheck (.imm 0) = (s1, .illegal 3) ∧ True) ∧ (∃ s1, (atLine (nops 8)).loopCheck (.imm 2) = (s1, .ok 0x40002 0x40002 0x40003) ∧ True) ∧
    (∃ s1, (inLoop (atLine (nops 8)) (outerRec 2)).loopCheck (.imm 2) = (s1, .ok 0x40002 0x40002 0x40003) ∧ True) ∧
    ((nops 8).uni (k 5) = 0 ∧ (withK (nops 8) [(5, 0xFFFFFFFF)]).uni (k 5) ≠ 0) ∧ (outerRec 2).endsAt 0x40002 = true ∧ (outerRec 2).count ≠ 1 ∧
    (hereRec 1).endsAt (nops 8).curSplit.pc = true ∧ ((hereRec 1).count = 1 ∧ (hereRec 2).count ≠ 1) := by
  and_intros
  all_goals first | decide +kernel | exact all_lanes (by decide +kernel) | exact pair_of (by decide +kernel) trivial
/-- BRK without a loop, by all lanes, by one with and without a free entry. -/
theorem wit_Loops_brk : (nops 9).active 9 never = 0 ∧ ((nops 9).active 9 .always ≠ 0 ∧ (nops 9).curSplit.loops = []) ∧
    (∃ s1, (inLoop (nops 9) (outerRec 2)).pcAfter 0 (outerRec 2).endPc = (s1, .inl 0x40003) ∧ s1.traces 0 0 4 = false ∧ (s1.core 0).late = []) ∧
    (inLoop (nops 9) (outerRec 2)).active 9 .always = (nops 9).curSplit.mask ∧ (half (nops 9)).active 9 g1 ≠ (nops 9).curSplit.mask ∧
    ((full (half (nops 9))).curWarp.freeEntry = none ∧ (half (nops 9)).curWarp.freeEntry = some 1 ∧ (nops 9).curSplit.live = true) := by
  and_intros
  all_goals first | decide +kernel | exact pair_of (by decide +kernel) (by decide +kernel)

/-- A transaction barrier at the end of the user area, in phase 3. -/
def barred (op : Nat) (pend : Nat) : State := (st op).setTbar 0 0xFFF0 ((TBar.init pend).setField 0 4 3)
/-- Flume 0 with `n` handles, between the epilogue role and `r`. -/
def flumed (op n : Nat) (p c : Role) : State :=
  (st op).updWg 0 fun g => { g with flumes := [(0, { declared := true, prod := p, cons := c, max := 4, depth := 4, items := (List.range n).map (BitVec.ofNat 64) })] }
def gone (s : State) (r : Role) : Bool := s.curWg.warps.all fun p => p.2.role != r || p.2.exited
/-- WAIT.TB on a barrier of another phase, of this one, and on none; .NEMPTY and .NFULL with and without handles and far roles; .TL with and without the number reached, of every
kind of timeline at its last number. -/
theorem wit_WaitAndYield : (barred 11 1).acts 0x00B never = false ∧ (barred 11 1).acts 0x00B .always = true ∧
    (0xFFF0 + 16 ≤ (barred 11 1).curWg.userBytes ∧ 0xFFF0 % 16 = 0) ∧ ((0, (st 11).curWarp) ∈ (st 11).curWg.warps ∧ ∀ p ∈ (st 11).curWg.warps, p.1 = 0 → p.2 = (st 11).curWarp) ∧
    (((barred 11 1).tbar 0 0xFFF0).mark = 0xB7 ∧ ((barred 11 1).tbar 0 0xFFF0).valid = true ∧ ((barred 11 1).tbar 0 0xFFF0).poison = false ∧ ((barred 11 1).tbar 0 0xFFF0).phase = 3) ∧
    ((st 11).tbar 0 0xFFF0).mark ≠ 0xB7 ∧ ((flumed 11 1 .copy .epi).curWg.flume 0).items ≠ [] ∧ ((flumed 11 0 .copy .epi).curWg.flume 0).items = [] ∧
    ((flumed 11 3 .epi .copy).curWg.flume 0).items.length < 4 ∧ ((flumed 11 4 .epi .copy).curWg.flume 0).items.length = 4 ∧
    gone (flumed 11 0 .copy .epi) .copy = true ∧ gone (flumed 11 0 .epi .epi) .epi = false ∧
    ((79 / 2 ^ 28 = 0 ∧ 79 < 80) ∧ ((2 ^ 28 + 1) / 2 ^ 28 = 1 ∧ (2 ^ 28 + 1) % 2 ^ 28 < 2) ∧ ((2 ^ 29 + 4095) / 2 ^ 28 = 2 ∧ (2 ^ 29 + 4095) % 2 ^ 28 < 4096)) ∧
    ((st 11).timeline 0 79).count = 0 ∧
    (∃ s1, (nops 10).checkTarget 0 ((nops 10).dispTarget (.imm 2)) = (s1, none) ∧ True) := by
  and_intros
  all_goals first | decide +kernel | exact all_lanes (by decide +kernel) | exact pair_of (by decide +kernel) trivial
/-- A split that waits in the issuing warp: its pending instruction and what it waits for. -/
def waiting (s : State) (i : Instr) (w : Wait) : State := withSplit s fun x => { x with st := .wait, pend := some i, wait := w }
theorem wit_WaitAndYield_wake : let i := Instr.wait (ar 0 (ob 0x80) .none .none) .nempty
    (((waiting (flumed 11 1 .copy .epi) i (.nempty 0)).waitHolds 0 (.nempty 0)).1 = true ∧ ((waiting (flumed 11 0 .copy .epi) i (.nempty 0)).waitHolds 0 (.nempty 0)).1 = false) ∧
    ((waiting (flumed 11 1 .copy .epi) i (.nempty 0)).curSplit.live = true ∧ (waiting (flumed 11 1 .copy .epi) i (.nempty 0)).curSplit.pend = some i ∧
      (waiting (flumed 11 1 .copy .epi) i (.nempty 0)).frozen 0 0 0 = false) := by decide +kernel

/-- Barrier 0 in generation 1, with the given count, arrivals and mask. -/
def barrier (op count arrivals : Nat) (mask : LaneMask) : State :=
  (st op).updWg 0 fun g => { g with bars := [(0, { count := count, mask := mask, gen := 1, arrivals := arrivals })] }
/-- A non-member, a member that is not the last, the last; a generation that has completed and one that has not; a count and a mask that are legal at their ends and ones that are not; an
arrived barrier; one with a waiting split; a workgroup of another rank. -/
theorem wit_NamedBarriers : (barrier 16 1 0 1).acts 0x010 never = false ∧ (barrier 16 1 0 1).acts 0x010 .always = true ∧ ((barrier 16 1 0 1).barrier 0 0).cluster = false ∧
    ((barrier 16 1 0 2).barrier 0 0).mask.getLsbD 0 = false ∧ ((barrier 16 2 0 1).barrier 0 0).arrivals + 1 ≠ ((barrier 16 2 0 1).barrier 0 0).count ∧
    ((barrier 16 2 1 1).barrier 0 0).arrivals + 1 = ((barrier 16 2 1 1).barrier 0 0).count ∧ (barrier 16 2 1 1).curSplit.st = .run ∧
    (1 ≤ (((barrier 18 1 0 1).barrier 0 0).gen - 0).toNat ∧ (((barrier 18 1 0 1).barrier 0 0).gen - 0).toNat < 2 ^ 31) ∧
    ¬(1 ≤ (((barrier 18 1 0 1).barrier 0 0).gen - 1).toNat ∧ (((barrier 18 1 0 1).barrier 0 0).gen - 1).toNat < 2 ^ 31) ∧
    ((withK (st 16) [(1, 65535), (2, 1)]).uni (k 1)).toNat = 65535 ∧ (withK (st 16) [(1, 65535), (2, 1)]).uni64 (k 2) ≠ 0 ∧
    (((withK (st 16) [(1, 65536)]).uni (k 1)).toNat = 65536 ∧ (st 16).uni64 (k 2) = 0) ∧ ((barrier 16 2 1 1).barrier 0 0).arrivals ≠ 0 ∧
    ((0, 0) ∈ (waiting (barrier 16 1 0 1) (.barSync (ar 0 (ob 0x20) .none .none)) (.barrier 0 1)).curWg.splitKeys ∧
      ((waiting (barrier 16 1 0 1) (.barSync (ar 0 (ob 0x20) .none .none)) (.barrier 0 1)).split 0 0 0).wait = .barrier 0 1 ∧
      (waiting (barrier 16 1 0 1) (.barSync (ar 0 (ob 0x20) .none .none)) (.barrier 0 1)).frozen 0 0 0 = false ∧ (barrier 16 2 1 1).arrayUndone 0 0 = false ∧
      (barrier 16 1 0 1).arrayUndone 0 0 = false) ∧
    (∀ p ∈ (barrier 16 1 0 1).curWg.splitKeys, ((barrier 16 1 0 1).split 0 p.1 p.2).st ≠ .wait) ∧
    ((barrier 16 1 0 1).curWg.rank = 0 ∧ ((barrier 16 1 0 1).updWg 0 fun g => { g with rank := 1 }).curWg.rank ≠ 0) ∧ (255 : LaneMask).toNat < 256 := by
  and_intros <;> decide +kernel

/-- A depth of the most and one beyond it; a flume with room, full and empty, its far role there or gone; nobody waits. -/
theorem wit_Flumes : let s := flumed 24 3 .epi .copy
    (s.acts 0x018 never = false ∧ s.acts 0x018 .always = true ∧ (s.curWg.flume 0).waiters = []) ∧ ((s.uni (im 1)).toNat ≤ (s.curWg.flume 0).max ∧ (s.curWg.flume 0).max < (s.uni (im 2)).toNat) ∧
    (s.arrayBusy 0 0 = false ∧ (s.curWg.flume 0).items.length < (s.curWg.flume 0).depth) ∧ (s.curWg.flume 0).items = 0 :: [1, 2] ∧
    ((flumed 24 4 .epi .epi).curWg.flume 0).depth ≤ ((flumed 24 4 .epi .epi).curWg.flume 0).items.length ∧ ((flumed 24 0 .epi .epi).curWg.flume 0).items = [] ∧
    (gone (flumed 24 4 .epi .epi) .epi = false ∧ gone (flumed 24 4 .epi .copy) .copy = true ∧ gone (flumed 24 0 .copy .epi) .copy = true) ∧
    ((0, s.curWarp) ∈ s.curWg.warps ∧ ∀ p ∈ s.curWg.warps, p.1 = 0 → p.2 = s.curWarp) := by decide +kernel
/-- No split of any number waits on a flume: none waits at all. -/
theorem wit_Flumes_qinit : ∀ w m, (((flumed 24 3 .epi .copy).split 0 w m).st = .wait → ((flumed 24 3 .epi .copy).split 0 w m).wait ≠ .nempty 0 ∧
    ((flumed 24 3 .epi .copy).split 0 w m).wait ≠ .nfull 0) := by
  intro w m h
  cases w with
  | succ w => exact absurd h (by show ¬(SplitState.run = .wait); decide)
  | zero =>
    cases m with
    | succ m => exact absurd h (by show ¬(SplitState.run = .wait); decide)
    | zero => exact absurd h (by decide +kernel)

theorem wit_OrderingAndTimelines : (st 0x20).acts 0x020 never = false ∧ (st 0x20).acts 0x020 .always = true ∧ (st 0x20).arrayUndone 0 0 = false ∧
    (((st 0x23).timeline 0 0).count = ((st 0x23).timeline 0 0).last ∧ ((st 0x23).timeline 0 0).done = []) ∧ ctxIdOk 79 = true ∧ ctxIdOk 80 = false ∧
    (((st 0x24).uni64 (k 2)).toNat = 0) ∧ (((withK (st 0x24) [(2, 1)]).uni64 (k 2)).toNat ≠ 0 ∧ ((st 0x24).timeline 0 79).count < ((withK (st 0x24) [(2, 1)]).uni64 (k 2)).toNat) ∧
    ((withK (st 0x24) [(2, 1)]).uni64 (k 2)).toNat ≤ (((st 0x24).updTimeline 0 79 fun _ => { count := 1, last := 1 }).timeline 0 79).count := by decide +kernel

/-- Joins that may go on and one that may not; pushes and pops that are served; a TLWAIT; a barrier conversion; a release with a held store. -/
theorem wit_WaitsEnd : let s := withSplit (st 7) fun x => { x with st := .joinWait }
    (s.curSplit.live = true ∧ (∀ m, m < 4 → (s.split 0 0 m).live = true → (s.split 0 0 m).st = .joinWait ∧ 0 ≤ m)) ∧ (st 7).curSplit.st ≠ .joinWait ∧
    (let t := (waiting (flumed 25 3 .epi .copy) (.qpush (ar 0 (ob 0x80) (k 8) .none)) (.push 0 9)).updWg 0 fun g => { g with
        flumes := [(0, { declared := true, prod := .epi, cons := .copy, max := 4, depth := 4, items := [1], waiters := [(0, 0)] })] }
     t.curSplit.st = .wait ∧ t.frozen 0 0 0 = false ∧ ((t.wg 0).flume 0).waiters.head? = some (0, 0) ∧ t.curSplit.wait = .push 0 9 ∧ ((t.wg 0).flume 0).items.length < ((t.wg 0).flume 0).depth ∧
       (waiting t (.qpop (ar 8 (ob 0x80) .none .none)) (.pop 0)).curSplit.pend = some (.qpop (ar 8 (ob 0x80) .none .none)) ∧ ((t.wg 0).flume 0).items = 1 :: []) ∧
    (let t := waiting (st 0x24) (.tlwait (ar 0 (k 1) (k 2) .none) .device) (.counter 79 1)
     t.curSplit.live = true ∧ t.frozen 0 0 0 = false ∧ t.curSplit.wait = .counter 79 1 ∧ (t.timeline 0 79).count < 1 ∧ 1 ≤ ((t.updTimeline 0 79 fun _ => { count := 1, last := 1 }).timeline 0 79).count) ∧
    (let t := (waiting (st 0x10) (.barInit (ar 0 (ob 0x22) (k 1) (k 2)) .cluster) .convert).updCluster 5 fun _ => { live := true, wgs := [0], converting := [(2, 3, 7)] }
     (t.cluster 5).converting = [(2, 3, 7)] ∧ ((7 : LaneMask).getLsbD (t.wg 0).rank = true ∧ (6 : LaneMask).getLsbD (t.wg 0).rank = false) ∧ t.frozen 0 0 0 = false ∧ 0 ∈ (t.cluster 5).wgs ∧ (0, 0) ∈ (t.wg 0).splitKeys ∧ t.curSplit.wait = .convert) ∧
    (let t := (waiting (st 0x20) (.phaseRel {} .device) .release).updCore 0 fun c => { c with
        releases := [{ wg := 0, who := some (0, 0), scope := .device }], unpub := [{ addr := 0x50000, byte := 7, wg := 0 }] }
     (t.core 0).releases[0]? = some { wg := 0, who := some (0, 0), scope := .device } ∧
       (∀ h ∈ (t.core 0).unpub.filter fun h => h.wg == 0, h.attr.key = none ∧ isCached h.addr = true) ∧ t.curSplit.wait = .release ∧ t.frozen 0 0 0 = false ∧ t.enc = []) := by decide +kernel

theorem wit_ElectAndPoll : (st 0xC).active 0x00C never = 0 ∧ (st 0xC).active 0x00C .always ≠ 0 ∧ (6 < 7 ∧ ¬7 < 7) := by decide +kernel

/-- A legal and an illegal rounding mode for K2S, at the boundary; the lowest lane of the mask. -/
theorem wit_SpecialRegisters : (st 0x28).active 0x028 never = 0 ∧ (st 0x28).active 0x028 .always ≠ 0 ∧ (ar 254 .none .none .none).d + 1 < 256 ∧
    ((masked (st 0x28) 0xFFFF0000).curSplit.mask.getLsbD 16 = true ∧ ∀ j < 16, (masked (st 0x28) 0xFFFF0000).curSplit.mask.getLsbD j = false) ∧
    ((((withK (st 0x29) [(1, 4)]).uni (k 1)).extractLsb' 0 3).toNat ≤ 4 ∧ 4 < (((withK (st 0x29) [(1, 5)]).uni (k 1)).extractLsb' 0 3).toNat) := by decide +kernel

/-- A kernel that declares trap entries. -/
def trapped (op : Nat) : State := (st op).updWg 0 fun g => { g with kdesc := g.kdesc &&& (BitVec.ofNat 1024 (2 ^ 224 - 1)) }
/-- A chain of the issuing warp with an instruction. -/
def aChain (suspended : Bool) : Chain := { wg := 0, warp := 0, path := .integer, op := 0x382, cfg := 0x80010400, todo := [{ pc := 0x40000, steps := 64 }], suspended := suspended }
def chained (s : State) (c : Chain) : State := s.updCore 0 fun x => { x with chain := some c }
/-- The three ways of a trap: no trap entry, one, in a handler; codes at the boundary; a busy array; flags that TRAPFENCE meets and not. -/
theorem wit_TakingATrap : (st 0xE).traces 0 0 3 = false ∧ (st 0xE).curSplit.handler = false ∧ (st 0xE).curWg.kdesc.toNat / 2 ^ (224 + 32 * 2) % 2 ^ 32 = 0xFFFFFFFF ∧
    (trapped 0xE).curWg.kdesc.toNat / 2 ^ (224 + 32 * 2) % 2 ^ 32 ≠ 0xFFFFFFFF ∧ (st 0x74).curSplit.handler = true ∧
    ((st 0xE).acts 0x00E never = false ∧ (st 0xE).acts 0x00E .always = true) ∧
    (((withK (st 0xE) [(1, 65535)]).uni (k 1)).toNat ≤ 65535 ∧ 65535 < ((withK (st 0xE) [(1, 65536)]).uni (k 1)).toNat) ∧
    ((chained (st 0xF) (aChain false)).arrayBusy 0 0 = true ∧ (st 0xF).arrayBusy 0 0 = false) ∧
    (((st 0xF).curWarp.flags &&& (st 0xF).uni (k 1)).toNat % 128 = 0 ∧
      (((withK (st 0xF) [(1, 1)]).updWarp 0 0 fun w => { w with flags := 1 }).curWarp.flags &&& (withK (st 0xF) [(1, 1)]).uni (k 1)).toNat % 128 ≠ 0) := by decide +kernel

/-- A split in its workgroup's trap queue, with or without a handler that runs; a split in its handler. -/
def queued (h : Option (Nat × Nat)) : State :=
  (withSplit (trapped 0) fun x => { x with st := .inTrap, trap := some { code := 0x18 }, resume := 0x40002 }).updWg 0 fun g => { g with trapQueue := [(0, 0)], handler := h }
def handling : State :=
  (withSplit (st 0x74) fun x => { x with handler := true, bank := List.replicate 16 7, resume := 0x40002 }).updWg 0 fun g => { g with handler := some (0, 0) }
theorem wit_HandlersEnterAndLeave : (((queued none).wg 0).trapQueue = (0, 0) :: [] ∧ ((queued none).wg 0).handler = none ∧ (queued none).curSplit.emu = none ∧
      (queued none).curSplit.trap = some { code := 0x18 }) ∧ ((queued (some (0, 1))).wg 0).handler ≠ none ∧ handling.acts 0x074 never = false ∧
    (handling.acts 0x074 .always = true ∧ handling.curSplit.handler = true ∧ handling.curSplit.holdNext = none ∧ handling.curSplit.bank.length = 16 ∧
      handling.curWg.handler = some (0, 0) ∧ handling.stoppedChain 0 0 0 handling.curSplit.resume = none ∧ handling.progressBad 0 0 0 = false) := by decide +kernel

/-- A handler, with a second warp of which split 0 is in a trap and split 1 runs. -/
def second : State :=
  (withK handling [(1, 1), (2, 0), (3, 2 ^ 28 + 63), (4, 31 * 2 ^ 16 + 255), (6, 6 * 2 ^ 28), (8, 3)]).updWarp 0 1 fun _ =>
    { live := true, role := .epi, width := 32, regs := 256, splits := [(0, { live := true, mask := 1, st := .inTrap, resume := 0x40002 }), (1, { live := true, mask := 2 })] }
/-- The emulated instruction of the tests: IMAD24 v4, v1, v2, v3. -/
def raw24 : RawSlot := { words := row 0x140 4 (fV 1) (fV 2) (fV 3) 0, carrier := none }
def anEmu (active : LaneMask) : Emu := { instr := .imad24 raw24, pc := 0x40000, active := active, helpers := 0, mode := 0, loops := [] }
theorem wit_PrivilegedInstructions : second.acts 0x070 never = false ∧ second.acts 0x070 .always = true ∧ (second.warp 0 7).live = false ∧ (second.warp 0 1).live = true ∧
    ((second.uni (k 2)).toNat < 4 ∧ (second.uni (k 8)).toNat = 3 ∧ ((second.warp 0 1).split 0).defer.length < 8) ∧ (second.uni (k 3)).toNat = 2 ^ 28 + 63 ∧
    (255 < (second.warp 0 1).regs ∧ 31 < (second.warp 0 1).width ∧ (second.uni (k 4)).toNat = 31 * 2 ^ 16 + 255) ∧ 6 * 2 ^ 28 ≤ (second.uni (k 6)).toNat ∧
    ((second.split 0 1 0).live = true ∧ (second.split 0 1 0).st = .inTrap ∧ (second.split 0 1 0).handler = false ∧ (second.split 0 1 0).holdNext = none ∧
      second.stoppedChain 0 1 0 (second.split 0 1 0).resume = none ∧ second.progressBad 0 1 0 = false) ∧ ((second.split 0 1 1).live = true ∧ (second.split 0 1 1).st ≠ .inTrap) ∧
    ((second.warp 0 1).exited = false ∧ second.curSplit.st = .run) ∧
    (let t := withSplit second fun x => { x with emu := some (anEmu 3) }
     t.curSplit.emu = some (anEmu 3) ∧ t.emuArgs (anEmu 3) = some (ar 4 (v 1) (v 2) (v 3))) ∧ second.curSplit.emu = none := by decide +kernel
/-- Invalidations by the driver and by a split that waits. -/
theorem wit_PrivilegedInstructions_tlb : let s := { waiting (st 0x75) (.tlbinvAll {}) .inval with
      invals := [{ ctx := 0, page := none, who := none }, { ctx := 0, page := some 0x50000, who := some (0, 0, 0) }] }
    s.invals[0]? = some { ctx := 0, page := none, who := none } ∧ s.invals[1]? = some { ctx := 0, page := some 0x50000, who := some (0, 0, 0) } ∧
      s.curSplit.live = true ∧ s.curSplit.wait = .inval ∧ s.curSplit.pend = some (.tlbinvAll {}) ∧ s.frozen 0 0 0 = false ∧
      (waiting s (.tlbinvPage {}) .inval).curSplit.pend = some (.tlbinvPage {}) := by decide +kernel

theorem wit_RetiredOpcodes : let s (m : LaneMask) : State := (withSplit (queued none) fun x => { x with emu := some (anEmu m) })
    ((st 0x140).traces 0 0 3 = false ∧ (st 0x140).curSplit.handler = false) ∧
    (((s 3).wg 0).trapQueue = (0, 0) :: [] ∧ ((s 3).wg 0).handler = none ∧ (s 3).curSplit.emu = some (anEmu 3) ∧ (s 3).curSplit.handler = false ∧ (s 3).curSplit.holdNext = none) ∧
    ((anEmu 0).active = 0 ∧ (anEmu 3).active ≠ 0) ∧
    (rawModern (Raw.ofSlot raw24.words)).map (fun m => decodeFields ((s 3).decodeCtx 0 0 0) m raw24.carrier) = some (.ok (.imad (ar 4 (v 1) (v 2) (v 3)) false false)) := by
  decide +kernel

/-! ### Commands -/

/-- A copy warp with the block of a TFILL in k16 to k23: a tile of `rows` rows and 32 columns of INT32 at 0x1000, slot 511, whose barrier lies at the end of the user area. -/
def filling (op rows : Nat) : State :=
  (withK (st op) [(16, 0xFFF00040), (17, 0xFF80), (18, 6), (22, 0xFFFFFFFF), (23, BitVec.ofNat 32 (rows + 32 * 2 ^ 16)), (5, 0xFFF0), (6, 65535), (7, 65536), (8, 0xFFF4), (9, 1)]).setTbar 0 0xFFF0 (TBar.init 1)
def fillArgs : Args := ar 0 .none (k 16) (k 6)
def accepts (r : State × Accept) : Bool := match r.2 with | .ok c _ => c.ctx == 0 | _ => false
def trapsOn (r : State × Accept) : Bool := match r.2 with | .trap _ _ _ => true | _ => false
/-- A full queue of commands. -/
def busyCopy (s : State) : State := s.updCore 0 fun c => { c with cmds := List.replicate 32 { kind := .tfill, wg := 0, warp := 0, pc := 0, ctx := 0, number := 9 } }
theorem wit_CommandsAreAccepted : (filling 0x305 1).acts 0x305 never = false ∧ (filling 0x305 1).acts 0x305 .always = true ∧
    (((filling 0x305 1).core 0).cmds.length < Config.copyQueue ∧ ((filling 0x305 1).core 0).copyWait = []) ∧ accepts ((filling 0x305 1).acceptFill fillArgs) = true ∧
    trapsOn ((filling 0x305 0).acceptFill fillArgs) = true ∧ Config.copyQueue ≤ ((busyCopy (filling 0x305 1)).core 0).cmds.length := by decide +kernel

/-- The largest tile of the statement that fits, with all its rows and columns valid; barriers at the end of the user area and beyond it; counts of 1, 65,535 and 65,536. -/
theorem wit_TileFillAndBarriers : let s := filling 0x305 256
    let b (i : Nat) : Nat := (s.curWarp.getK (16 + i)).toNat
    (b 2 ≤ 6 ∧ b 3 = 0 ∧ b 4 = 0 ∧ b 5 = 0 ∧ b 7 / 2 ^ 29 = 0 ∧ b 7 / 2 ^ 9 % 2 ^ 7 = 0 ∧ b 7 % 2 ^ 9 = 256 ∧ b 7 / 2 ^ 16 % 2 ^ 13 = 32) ∧
    b 0 % 2 ^ 20 * 64 + 255 * ((32 * 4 + 63) / 64 * 64) + 32 * 4 ≤ s.curWg.userBytes ∧ (b 0 / 2 ^ 20 + b 1 % 16 * 2 ^ 12) * 16 = 0xFFF0 ∧ 0xFFF0 + 16 ≤ s.curWg.userBytes ∧
    ((s.tbar 0 0xFFF0).mark = 0xB7 ∧ (s.tbar 0 0xFFF0).valid = true) ∧ (s.acts 0x305 never = false ∧ s.acts 0x305 .always = true) ∧
    ((s.uni (k 5)).toNat = 0xFFF0 ∧ (s.uni (k 6)).toNat = 65535 ∧ (s.uni (k 7)).toNat = 65536 ∧ (s.uni (k 9)).toNat = 1) ∧ s.curWg.userBytes < (s.uni (k 8)).toNat + 16 := by
  decide +kernel

/-- A command of core 0, and a state that holds it. -/
def cmd0 : Cmd := { kind := .tfill, wg := 0, warp := 0, pc := 0x40000, ctx := 0, number := 1, bar := some 0xFFF0, phase := 3, sectors := 1 }
def holds (op : Nat) (c : Cmd) (pend : Nat) : State := (barred op pend).updCore 0 fun x => { x with cmds := [c] }
def puts (a : Nat) (space : Nat) (sector : Bool) : Work := { space := space, puts := [{ row := 0, addr := a, cell := .lit 7 }], sector := sector }
/-- Arrivals that match and one that does not; a sector of work; a global write; a completed command; the queue's room; a collective of two. -/
theorem wit_CommandsRun : let s := holds 0x305 cmd0 1
    (s.core 0).cmds[0]? = some cmd0 ∧ (s.wg 0).core = 0 ∧ (s.ctx 0).pending = [] ∧ ((s.tbar 0 0xFFF0).mark = 0xB7 ∧ (s.tbar 0 0xFFF0).valid = true ∧ (s.tbar 0 0xFFF0).phase = cmd0.phase) ∧
    (s.tbar 0 0xFFF0).pend ≠ 0 ∧ ((holds 0x305 cmd0 0).tbar 0 0xFFF0).pend = 0 ∧ (((s.wg 0).ctx = cmd0.ctx) ∧ (s.ctx 0).ringFull = false) ∧
    (let c := { cmd0 with arrived := true, todo := [puts 0xFFE0 2 true] }
     c.suspended = false ∧ c.counted = [] ∧ 0xFFE0 < (s.wg 0).userBytes ∧ (s.wg 0).user + 0xFFE0 < (s.wg 0).user + 0xFFF0) ∧
    (let c := { cmd0 with kind := .txform, arrived := true, todo := [puts 0x50000 0 false] }
     let t := holds 0x305 c 1
     globalFault 0x50000 1 = none ∧ t.lineKey (lineOf 0x50000) = none ∧ t.translate 0 0 0x50000 .write = .ok 0x50000 {} ∧
       (t.publish {} none 0x50000 [7]).translate 0 0 0x50000 .write = .ok 0x50000 {} ∧ c.crc = none) ∧
    (let c := { cmd0 with arrived := true }
     (∀ l ∈ c.heldBack, s.isHeld l = false) ∧ c.kind ≠ .tcoll ∧ c.routine = none ∧ c.todo = [] ∧ (∀ d ∈ ((holds 0x305 c 1).core 0).cmds, d = c) ∧ (s.timeline 0 0).done = [] ∧ c.number = (s.timeline 0 0).count + 1) ∧
    (let t := (waiting s (.tfill fillArgs false) .copyRoom).updCore 0 fun c => { c with copyWait := [(0, 0, 0)] }
     (t.core 0).copyWait = (0, 0, 0) :: [] ∧ t.frozen 0 0 0 = false ∧ (t.core 0).cmds.length < Config.copyQueue ∧ t.curSplit.live = true ∧ t.curSplit.wait = .copyRoom) := by
  intro s; and_intros <;> decide +kernel
/-- Two workgroups of a cluster on cores 0 and 1 with a collective each. -/
def coll (wg : Nat) : Cmd :=
  { cmd0 with kind := .tcoll, wg := wg, handle := 0x3FC, coll := some (.sumi, false), arrived := true, bar := some 0x100, block := List.replicate 8 0,
              todo := [{ space := 2, puts := (List.range 4).map fun j => { row := 0, addr := 0xFF00 + j, cell := .lit 0 }, sector := true }] }
def two : State :=
  let s := st 0x306
  { s with wgs := [(0, s.wg 0), (1, { s.wg 0 with core := 1 })], cores := [(0, { cmds := [coll 0] }), (1, { cmds := [coll 1] })], clusters := [(3, { live := true, wgs := [0, 1] })] }
theorem wit_CommandsRun_coll : (two.cluster 3).wgs = [0, 1] ∧ (two.wg 1).core = 1 ∧ (two.core 0).cmds = [coll 0] ∧ (two.core 1).cmds = [coll 1] ∧ (coll 1).agrees (coll 0) = true ∧
    (0x100 + 16 ≤ handleBase (coll 0).handle ∧ handleBase (coll 0).handle = 0xFF00 ∧ 0xFF00 + 4 ≤ (two.wg 0).userBytes) ∧
    ∃ h ∈ ((st 0x306).updCluster 3 fun _ => { live := true, wgs := [0] }).cluster 3 |>.wgs, ((st 0x306).updCluster 3 fun _ => { live := true, wgs := [0] }).memberColl h = none := by
  and_intros
  all_goals decide +kernel

/-- A routine with four bytes in its window, all its destination but two bytes committed. -/
def rout (waits : Option Nat) : Routine :=
  { index := 1, id := 0x200, ver := 1, src := (2, 0x200), srcLen := 0x10008, dst := (0, 0x50000), dstLen := 16, filled := 4, released := 0, committed := 14, window := [1, 2, 3, 4], waits := waits }
def routed (waits : Option Nat) : State := holds 0x304 { cmd0 with kind := .txform, arrived := true, routine := some (rout waits) } 1
theorem wit_RoutineCommands : (((routed none).core 0).cmds[0]?.bind (·.routine)) = some (rout none) ∧ (rout none).done = none ∧ (rout (some 8)).waits = some 8 ∧
    ((rout none).filled + 4 ≤ (rout none).srcLen ∧ (rout none).filled - (rout none).released + 65532 ≤ 65536) ∧
    (routed none).engBytes 0 2 (0x200 + 4) 2 none = (routed none, .inl [0, 0]) ∧
    (4 ≤ (rout none).filled - (rout none).released ∧ (rout none).filled - (rout none).released < 5) ∧
    ((rout none).committed + 2 ≤ (rout none).dstLen ∧ (rout none).dstLen < (rout none).committed + 3) ∧ ([1, 2] : List Byte).length = 2 ∧
    ¬((rout none).id = 0x101 ∧ (rout none).ver = 1) ∧ (rout none).dst.1 = 0 := by decide +kernel

/-- The shape record of R234's example at 0x100 of the scratchpad, and one whose table falls. -/
def recorded (op : Nat) (last : Nat) : State :=
  (withK (shaped op 0) [(1, 0x100), (2, 3), (3, 4)]).updCore 0 fun c =>
    c.spWrite 0x100 (toBytes 64 (0x0003015C + 8 * 2 ^ 32 + 5 * 2 ^ 64 + 0xAB * 2 ^ 96) ++ toBytes 16 (5 * 2 ^ 32 + 5 * 2 ^ 64 + last * 2 ^ 96))
def shapeRead (s : State) : Option (List Byte × List Nat) := match (s.readShape 2 0x100).2 with | .ok h b => some (h, b) | _ => none
theorem wit_ShapeRegisters : (recorded 0x310 8).acts 0x310 never = false ∧ (recorded 0x310 8).acts 0x310 .always = true ∧ (recorded 0x310 8).laneAddr (ar 0 (k 1) .none .none) 2 true 0 = 0x100 ∧
    (shapeRead (recorded 0x310 8) = some (toBytes 64 (0x0003015C + 8 * 2 ^ 32 + 5 * 2 ^ 64 + 0xAB * 2 ^ 96), [0, 5, 5, 8])) ∧
    ((0x015C % 256 = 0x5C ∧ 0x015C / 256 % 16 = 1 ∧ 0x015C / 2 ^ 14 ≠ 3 ∧ 0x015C / 2 ^ 12 % 4 ≠ 3) ∧ [0, 5, 5, 8].Pairwise (· ≤ ·) ∧ 3 ≤ ((recorded 0x310 8).curWg.shape 0).max) ∧
    ((shapeRead (recorded 0x310 9)).map (·.2) = some [0, 5, 5, 9]) ∧
    (((recorded 0x311 8).curWg.shape 0).bound = true ∧ ((recorded 0x311 8).curWg.shape 0).space = 2 ∧ ((recorded 0x311 8).curWg.shape 0).addr = 0x100 ∧ ((recorded 0x311 8).curWg.shape 1).bound = false) ∧
    (((recorded 0x312 8).uni (k 2)).toNat ≤ ((recorded 0x312 8).curWg.shape 0).image.nseq ∧ ((recorded 0x312 8).curWg.shape 0).image.nseq < ((recorded 0x312 8).uni (k 3)).toNat) ∧
    ((recorded 0x312 8).uni (im 1)).toNat ≤ 5 := by decide +kernel

/-! ### The matrix unit -/

/-- A pair of values in window 7, whose sum is exact, a NaN, and integers at the ends of the range that promotes without a tail. -/
def windows (op : Nat) : State :=
  (withK (st op) [(1, 0), (2, 1), (3, 65), (4, 0x80010400), (5, 3), (6, 4), (7, 0x17FF), (8, 0x1800)]).updCore 0 fun c =>
    { c with acc := [(114688, 0x330000003F800000), (114689, 0x7FC00000), (131070, BitVec.ofInt 64 (-(2 ^ 24))), (131071, 2 ^ 24)] }
def ar7 (n : Nat) : Args := ar 7 (k n) .none .none
theorem wit_MatrixConfigurationAndPromotion : let s := windows 0x387
    s.acts 0x387 never = false ∧ s.acts 0x387 .always = true ∧
    (0x80010400 % 2 ^ 7 = 0 ∧ 0x80010400 / 2 ^ 7 % 2 ^ 6 = 8 ∧ 0x80010400 / 2 ^ 13 % 2 ^ 7 = 8 ∧ 0x80010400 / 2 ^ 20 = 2048 ∧ (s.uni (k 4)).toNat = 0x80010400 ∧ (s.uni (k 1)).toNat / 2 ^ 20 = 0) ∧
    ((s.uni (k 5)).toNat = 3 ∧ (s.uni (k 7)).toNat = 0x17FF ∧ (s.uni (k 6)).toNat = 4 ∧ (s.uni (k 8)).toNat = 0x1800) ∧ (s.core 0).chain = none ∧ (s.core 0).queue = [] ∧
    ((chained s { aChain false with warp := 1 }).core 0).chain = some { aChain false with warp := 1 } ∧
    (let c := { aChain false with stash := [(2047, 0x800001)] }
     let t := s.updCore 0 fun k => { k with queue := [c] }
     (t.core 0).chain = none ∧ (t.core 0).queue.head? = some c ∧ c.warp = t.cur.warp ∧ c.stash ≠ []) ∧
    (let t := chained s (aChain true)
     (t.core 0).chain = some (aChain true) ∧ (aChain true).wg = t.cur.wg ∧ (aChain true).warp = t.cur.warp ∧ t.arrayBusy 0 0 = true ∧ s.arrayBusy 0 0 = false) ∧
    ((s.uni (k 2)).toNat = 1 ∧ 7 + 1 ≤ s.curWg.windows ∧ s.curWg.windows < 8 + 1 ∧ s.windowBusy 0 0 7 1 = false ∧ 64 < (s.uni (k 3)).toNat ∧ s.curWg.paired = false) ∧
    s.acts 0x386 .always = true ∧ swf (fun _ => (0 : Entry)) (s.core 0).acc = true ∧
    ((s.core 0).entry 131070 = BitVec.ofInt 64 (-(2 ^ 24)) ∧ (s.core 0).entry 131071 = BitVec.ofInt 64 (2 ^ 24) ∧ 7 * 16384 ≤ 114688 ∧ 131071 < 8 * 16384) ∧
    (fp32.value false (((s.core 0).entry 114688).extractLsb' 0 32).toNat = .fin false (2 ^ 23) (-23) ∧ fp32.value false (((s.core 0).entry 114688).extractLsb' 32 32).toNat = .fin false (2 ^ 23) (-48)) ∧
    (fp32.value false (((s.core 0).entry 114689).extractLsb' 0 32).toNat).isNan = true := by decide +kernel

/-- A tile of 128 rows of 64 values of BF16 from byte 0 in slot 3, and the last 32 rows and columns that an MLD of 8 slabs may name beyond it. -/
def tiled (op : Nat) : State :=
  (withK (st op) [(16, 0), (17, 0x180), (18, 0), (19, 224 * 2 ^ 16 + 32), (20, 0x800080), (21, 0), (22, 0), (23, 0)]).updWg 0 fun g =>
    { g with tiles := [(3, { fmt := 0, cols := 64, rows := 128 })] }
theorem wit_TileLoadsIntoMRegisters : let s := tiled 0x380
    let slot := sget (fun _ => ({} : TileSlot)) s.curWg.tiles ((s.uni64 (k 16)).toNat / 2 ^ 39 % 2 ^ 9)
    s.acts 0x380 .always = true ∧ slot.rows = 128 ∧ slot.fmt ≤ 1 ∧ (∀ b, b < 8 → slot.bands.toNat / 2 ^ (4 * b) % 16 = slot.fmt) ∧
    ((s.uni (k 19)).toNat / 2 ^ 16 = 224 ∧ 224 % 32 = 0 ∧ (s.uni (k 19)).toNat % 2 ^ 16 % 32 = 0) ∧ 128 * ((64 * 2 + 63) / 64 * 64) ≤ s.curWg.userBytes := by decide +kernel

/-- The same with an m register whose bands hold BF16. -/
def loaded (op : Nat) (bands : BitVec 16) : State := (tiled op).updWarp 0 0 fun w => { w with m := [(4, { bands := bands, gen := 1 })] }
def arrayArgs : Args := ar 2 (.m 4) (k 16) (k 20)
/-- Its chain, which accepts a continuation. -/
def bfChain : Chain :=
  { wg := 0, warp := 0, path := .float, op := 0x381, cfg := 0x80010400, window := 2, counts := 0x800080, fmtA := List.replicate 4 [0], fmtB := List.replicate 4 0, openMore := true,
    todo := [{ pc := 0x40000, steps := 32, done := 32 }] }
def checkOf (s : State) : Option AccFault := s.arrayCheck 0x381 .float arrayArgs {} (s.arrayOps arrayArgs {})
theorem wit_ArrayInstructionsIssue : let s := loaded 0x381 0
    (Instr.mma arrayArgs {}, 0x381, ArrayPath.float) ∈ [(Instr.mma arrayArgs {}, 0x381, ArrayPath.float), (.mmai arrayArgs {}, 0x382, .integer), (.mmab arrayArgs {}, 0x383, .bfp)] ∧
    (checkOf (loaded 0x381 0xF000)).isSome = true ∧ checkOf s = none ∧
    (let o := off arrayArgs
     s.acts 0x381 o.g = false ∧ s.arrayCheck 0x381 .float o {} (s.arrayOps o {}) = none ∧
       ((loaded 0x381 0xF000).arrayCheck 0x381 .float o {} ((loaded 0x381 0xF000).arrayOps o {})).isSome = true) ∧ s.acts 0x381 never = false ∧ s.acts 0x381 .always = true ∧ s.openChain 0 0 = none ∧
    ((s.core 0).chain = none ∧ (s.core 0).lent = false ∧ (s.core 0).queue = []) ∧
    (let t := chained s { bfChain with warp := 1, openMore := false }
     checkOf t = none ∧ t.openChain 0 0 = none ∧ (t.core 0).chain ≠ none) ∧
    (let t := chained s bfChain
     checkOf t = none ∧ (t.core 0).chain = some bfChain ∧ bfChain.openMore = true ∧ bfChain.suspended = false ∧ bfChain.trapMode = false) := by
  and_intros <;> decide +kernel

/-- An integer instruction with four k-steps of its eight performed, whose PE (0, 0) stands at the most that four products of 1 leave room for; rows 0 of A and B are ones. -/
def ones : MReg := { bands := 0x4444, gen := 1, rows := [(0, { data := 0x0101010101010101 })] }
def intInstr (done : Nat) : ArrayInstr :=
  { pc := 0x40000, a := [ones], slot := { fmt := 4, bands := 0x44444444, cols := 64, rows := 128 }, steps := 8, done := done, rows := 128, cols := 128 }
def intChain (done pe : Nat) : Chain :=
  { wg := 0, warp := 0, path := .integer, op := 0x382, cfg := 0x80010400, window := 2, todo := [intInstr done], steps := 4, pe := if pe = 0 then [] else [(0, BitVec.ofNat 32 pe)] }
def inArray (c : Chain) : State := chained ((st 0x384).updCore 0 fun k => k.spWrite 0 [1, 1, 1, 1, 1, 1, 1, 1]) c
def productsFit (s : State) (c : Chain) (i : ArrayInstr) : Bool :=
  let a (r x : Nat) : Int := (((i.a.getD (x / 64) {}).row r).data.extractLsb' (8 * (x % 64)) 8).toInt
  let b (j x : Nat) : Int := ((s.core 0).sp (j * i.slot.pitch + x)).toInt
  (List.range 2).all fun r => (List.range 128).all fun j =>
    let sum : Int := signedBits (c.reg (r * 128 + j)) 0 18 + (a r 4 * b j 4 + a r 5 * b j 5 + a r 6 * b j 6 + a r 7 * b j 7)
    decide (-(2 ^ 17) ≤ sum ∧ sum < 2 ^ 17)
theorem wit_ArrayRuns : (let c := { intChain 0 0 with todo := [{ intInstr 0 with waits := false }] }
     let s := (waiting (st 0x382) (.mmai arrayArgs {}) .perform).updCore 0 fun k => { k with queue := [c] }
     (s.core 0).queue = c :: [] ∧ c.mods.p = false ∧ (s.core 0).chain = none ∧ (s.core 0).lent = false ∧ s.curSplit.live = true ∧ s.curSplit.st = .wait ∧ s.curSplit.wait = .perform) ∧
    (let c := intChain 4 (2 ^ 17 - 4)
     let i := intInstr 4
     let s := inArray c
     (s.core 0).chain = some c ∧ (s.wg c.wg).core = 0 ∧ c.todo = i :: [] ∧ i.done < i.steps ∧ i.a ≠ [] ∧ i.rows ≤ 128 ∧ i.cols ≤ 128 ∧ (i.reg 0 0).band 0 = 4 ∧ (s.core 0).spill = [] ∧
       i.base + i.slot.rows * i.slot.pitch ≤ (s.wg c.wg).userBytes ∧ i.kb + i.steps ≤ i.slot.cols ∧ i.done % 4 = 0 ∧ i.steps % 4 = 0 ∧ (c.steps + 4) / cfgD c.cfg = c.steps / cfgD c.cfg ∧
       productsFit s c i = true ∧ signedBits (c.reg 0) 0 18 + 4 = 2 ^ 17 - 1) ∧
    (let c := intChain 8 (2 ^ 17 + 1)
     let s := inArray c
     (s.core 0).chain = some c ∧ (c.pe.map (·.1)).Nodup ∧ (∀ p ∈ c.pe, p.1 < 16384 ∧ p.2.toNat ≠ 0) ∧ (intInstr 8).done = (intInstr 8).steps ∧ c.openMore = false ∧ c.maskv = 1 ∧
       s.acts 0x384 .always = true ∧ s.arrayRuns 0 0 = false ∧ (inArray (intChain 4 1)).arrayRuns 0 0 = true ∧ ((st 0x384).core 0).chain = none) := by decide +kernel

/-! ### Events -/

def withDebug (s : State) (f : Debug → Debug) : State := s.updDebug 0 f
/-- Sampling of port 0 in a ring of 64 records of which `used` are in use; a breakpoint in entry 3 whose match has action `act`. -/
def sampling (used : Word) : State :=
  withDebug (st 0) fun d => { d with trctl := 0x80000020, clocks := [(0, 256)], trbase := 0x100000, trprod := used, slots := [(0, { due := true })] }
def broken (act : Nat) : State := withDebug (st 0) fun d => { d with bppc := [(3, 0x40000)], bpcfg := [(3, BitVec.ofNat 32 (2 ^ 31 + act * 2 ^ 29 + 2 ^ 7))] }
def bpHits (s : State) (b : Nat) : Bool :=
  let d := (s.core 0).dbg
  let c := sget (fun _ => 0) d.bpcfg b
  let pc := (sget (fun _ => 0) d.bppc b).toNat % 2 ^ 57
  decide (c.getLsbD 31 = true ∧ c.toNat / 2 ^ 8 % 2 ^ 8 = (s.wg 0).ctx ∧ (c.getLsbD 7 = true ∨ c.toNat % 2 ^ 7 = 0) ∧ pc / 8 % 8 = 0 ∧ pc % 8 < 5 ∧ pc = s.curSplit.pc.toNat)
def fetched (s : State) : Bool := match s.fetchLine 0 0x40000 with | (s1, .inl _) => decide (s1.wgs = s.wgs) | _ => false
theorem wit_IssueEvents : (∃ p ∈ (atLine (st 0)).present 0 0, (atLine (st 0)).isReady p.1 p.2.1 p.2.2 = true) ∧ (st 0).present 0 1 = [] ∧
    ((st 0).present 0 0 = [(0, 0, 0)] ∧ [(0, 0, 0)].Nodup ∧ ((st 0).portSlot 0 0).due = false ∧ ((st 0).portSlot 0 1).due = false ∧ (st 0).isReady 0 0 0 = false ∧ (st 0).leafOf 0 0 0 = some 5) ∧
    (let s := sampling 63
     (s.core 0).dbg.trctl.getLsbD 31 = true ∧ (s.core 0).dbg.trctl.getLsbD 5 = true ∧ sget (fun _ => 0) (s.core 0).dbg.clocks 0 = 256 ∧ (s.core 0).dbg.trctl.toNat / 2 ^ 16 % 16 = 0 ∧
       (s.portSlot 0 0).due = true ∧ s.pairOpen 0 0 = false ∧ s.meetsArea (0x100000 + 64 * 63) 64 = false ∧ (s.portSlot 0 0).who = none ∧ (s.core 0).dbg.trdrop = 0 ∧ ((s.core 0).dbg.trprod - (s.core 0).dbg.trcons).toNat = 63 ∧
       (((sampling 64).core 0).dbg.trprod - ((sampling 64).core 0).dbg.trcons).toNat = 2 ^ (0 + 6)) ∧
    (let s := broken 0
     0 = (s.wg 0).core ∧ s.curSplit.live = true ∧ s.curSplit.st = .run ∧ s.curSplit.seq = false ∧ s.curSplit.handler = false ∧ s.traces 0 0 2 = false ∧ s.curSplit.pass = false ∧ bpHits s 3 = true ∧
       bpHits s 0 = false ∧ bpHits s 1 = false ∧ bpHits s 2 = false ∧ (sget (fun _ => 0) ((broken 3).core 0).dbg.bpcfg 3).toNat / 2 ^ 29 % 4 = 3 ∧ bpHits (st 0) 3 = false) ∧
    ((st 0).curSplit.live = true ∧ (st 0).curSplit.st = .run ∧ (st 0).curWg.live = true) ∧ fetched (st 0) = true := by decide +kernel
theorem wit_NoWindows : (sampling 0).NoWindows := fun _ => by rfl

/-- Line 0xA00 in L1, and dirty in L2; the window of die 0 over it, with or without a free pool line, and its write-back held. -/
def dirtyLine : State :=
  { (st 0).updCore 0 fun c => { c with copies := [(0xA00, { live := true, inL1 := true })] } with l2 := [(0xA00, { live := true, dirty := true, data := 7 })] }
def windowed (pool : DWord) : State :=
  { dirtyLine with dedup := [(0, { ctl := 1, wlen := 0x40000000, area := 0x40000000, pool := pool, free := pool, heldLines := [0xA00] })] }
/-- An access of the issuing split that waits for the walk of its page, which is not mapped at 1 GiB, or which the page at 0 does not allow. -/
def walking (va : Nat) (a : Access) : State :=
  { waiting (st 0x280) (.nop {}) .walk with walks := [{ ctx := 0, die := 0, va := va, write := a.writes, who := [{ core := 0, wg := 0, warp := 0, split := 0, access := a, lane := 0, va := va }] }] }
def readOnly (s : State) : State := s.setMemBytes 0x12000 [0x07]
def leafEnd (s : State) (va : Nat) (a : Access) : Bool :=
  match s.walk 0 va with
  | .leaf p ea _ bits => s.permits p a && isHbm ea && isHbm (ea + 7) && bits == 30
  | .bad _ => false
def denied (s : State) (va : Nat) (a : Access) : Bool := match s.walk 0 va with | .leaf p _ _ _ => !s.permits p a | .bad _ => false
theorem wit_MemoryEventsAndOutsideAccesses : (sget (fun _ => ({} : LineCopy)) (dirtyLine.core 0).copies 0xA00).live = true ∧
    (isHbm (0xA00 * 128) = true ∧ (sget (fun _ => ({} : L2Line)) dirtyLine.l2 0xA00).dirty = true ∧ dirtyLine.windowDie (0xA00 * 128) = none ∧
      (sget (fun _ => ({} : L2Line)) dirtyLine.l2 0xA01).live = false ∧ 0xA00 ∉ (dirtyLine.dd 0).heldLines ∧ 0xA00 ∉ (dirtyLine.dd 1).heldLines) ∧
    (0xA00 ∈ ((windowed 1).dd 0).heldLines ∧ (windowed 1).windowDie (0xA00 * 128) = some 0 ∧ (∀ b, ((((windowed 1).dd 0).drop 0xA00).store 0xA00 7 false false 0 b).isSome = true) ∧
      ∀ b, (((windowed 0).dd 0).drop 0xA00).store 0xA00 7 false false 0 b = none) ∧
    ((walking 0x40000000 .read).walkWaits { core := 0, wg := 0, warp := 0, split := 0, access := .read, lane := 0, va := 0x40000000 } = true ∧
      (walking 0x40000000 .read).walk 0 0x40000000 = .bad 2 ∧ (walking 0 .read).traces 0 0 3 = false ∧ (walking 0 .read).curSplit.handler = false) ∧
    leafEnd (walking 0x3FFFFFF8 .write) 0x3FFFFFF8 .write = true ∧ denied (readOnly (walking 8 .write)) 8 .write = true ∧
    ((st 0).inDedupArea (Config.hbmBytes - 1) = false ∧ Config.hbmBytes - 1 + 1 ≤ Config.hbmBytes ∧ (st 0).lineKey ((Config.hbmBytes - 1) / 128) = none ∧ ¬Config.hbmBytes + 1 ≤ Config.hbmBytes) ∧
    ((st 0).inDedupArea 0 = false ∧ (List.range 8).all (fun i => !(st 0).inDedupArea (Config.hbmBytes - 8 + i)) = true ∧ (Config.hbmBytes - 8) % 8 = 0 ∧ (Config.hbmBytes - 7) % 4 ≠ 0) ∧
    (Config.windowBytes - 1 + 1 ≤ Config.windowBytes ∧ Config.windowBytes < Config.windowBytes + 1) := by decide +kernel

/-- The host owns the headgate. -/
def owned (s : State) : State := { s with fleet := { s.fleet with owner := some .host } }
/-- A context's ring of 64 records at 0x100000, of which `used` are in use, with a record that waits. -/
def ringed (used : Word) (code : Nat) : State := owned ((st 0).updCtx 0 fun c => { c with ring := 0x100000, rprod := used, pending := [{ code := code }] })
/-- A written record 5 with its held subject: a split in its trap, a command, a packet. -/
def heldAs (s : State) (r : TrapRec) : State := owned (s.updCtx 0 fun c => { c with held := [(5, r)], wgarg := 5 })
def splitRec : TrapRec := { code := 0x18, kind := 0, held := true }
def aSplit : State := heldAs (withSplit (st 0) fun x => { x with st := .inTrap, trap := some splitRec, resume := 0x40002 }) splitRec
def cmdRec (data : DWord) : TrapRec := { code := 0x82, kind := 1, held := true, data := data, slot := 1 }
def aCmd (data : DWord) : State := heldAs (holds 0x305 { cmd0 with suspended := true } 1) (cmdRec data)
def packetRec : TrapRec := { code := 0x84, kind := 2, held := true, slot := 3, subj := 5 }
def aPacket : State := heldAs { st 0 with queues := [(5, { packets := [{ type := 5, number := 3, words := 5, suspended := true }] })] } packetRec
def wgHeld (s : State) (r : TrapRec) : Bool := (s.ctx 0).held.find? (fun p => p.1 == (s.ctx 0).wgarg.toNat) == some ((s.ctx 0).wgarg.toNat, r)
theorem wit_TrapRings : ((st 0).ctx 0).pending = [] ∧
    (((ringed 64 0x82).ctx 0).pending = [{ code := 0x82 }] ∧ 2 ^ (0 + 6) ≤ (((ringed 64 0x82).ctx 0).rprod - ((ringed 64 0x82).ctx 0).rcons).toNat) ∧
    ((ringed 64 0x80).ctx 0).pending = [{ code := 0x80 }] ∧
    ((((ringed 63 0x82).ctx 0).rprod - ((ringed 63 0x82).ctx 0).rcons).toNat < 2 ^ (0 + 6) ∧ 0x100000 + 64 * 63 + 64 ≤ Config.hbmBytes ∧ (ringed 63 0x82).meetsArea (0x100000 + 64 * 63) 64 = false) ∧
    ((ringed 64 0).owns .host = true ∧ (64 - 0 : Word).toNat ≤ 64 ∧ ¬(64 - (-1) : Word).toNat ≤ 64 ∧ (ringed 64 0).owns .bmc = false) ∧
    (((owned (st 0)).ctx 1).created = false ∧ ((owned (st 0)).ctx 0).created = true ∧ ∀ p ∈ ((owned (st 0)).ctx 0).held, p.1 ≠ 0) ∧
    (aSplit.owns .host = true ∧ wgHeld aSplit splitRec = true ∧ aSplit.subject splitRec = some (.split 0 0 0) ∧ splitRec.kind = 0 ∧ splitRec.nested = false ∧
      (aSplit.split 0 0 0).holdNext = none ∧ aSplit.stoppedChain 0 0 0 (aSplit.split 0 0 0).resume = none ∧ (aSplit.wg 0).live = true ∧ (heldAs (st 0) splitRec).subject splitRec = none) ∧
    (wgHeld (aCmd 0x20) (cmdRec 0x20) = true ∧ (aCmd 0x20).subject (cmdRec 0x20) = some (.cmd 0 0) ∧ (cmdRec 0x20).data.toNat / 16 % 8 = 2 ∧
      (aCmd 0x70).subject (cmdRec 0x70) = some (.cmd 0 0) ∧ (cmdRec 0x70).data.toNat / 16 % 8 = 7 ∧ (((aCmd 0x20).core 0).cmds[0]?.map (·.routine)) = some none) ∧
    (wgHeld aPacket packetRec = true ∧ aPacket.subject packetRec = some (.packet 5 0)) := by decide +kernel

/-- A kernel of one copy, one maths and one epilogue warp; a grid of clusters of two of its workgroups. -/
def launchKernel : BitVec 1024 := BitVec.ofNat 1024 (1 + 3 * 2 ^ 28 + 1 * 2 ^ 14 + 0x10000 * 2 ^ 32 + 8 * 2 ^ 64 + 32 * 2 ^ 72 + (2 ^ 96 - 1) * 2 ^ 224)
def gridded (s : State) : State := { s with grids := [(9, { live := true, queue := 5, number := 1, ctx := 0, prio := 7, kdesc := launchKernel, code := 0x40000, count := 2, size := 2 })], nextId := 10 }
/-- A resident cluster 3 of workgroup 0, of priority 2, with an area for its image; its workgroup at its end; too little room for a candidate. -/
def resident (s : State) : State :=
  { (s.updCtx 0 fun c => { c with svbase := 0x1000000, svlen := 0x400000 }) with clusters := [(3, { live := true, wgs := [0], prio := 2, order := 1 })] }.updWg 0 fun g => { g with cluster := 3, bytes := 0x100 }
def ended : State := (resident (st 0)).updWg 0 fun g => { g with exited := true }
/-- Every core but one of each die full, so that no cluster of two fits. -/
def crowded : State :=
  let s := gridded (resident (st 0))
  { s with wgs := s.wgs ++ ((List.range 80).filter fun c => c % 40 != 0).map fun c => (c + 100, { live := true, core := c, kdesc := BitVec.ofNat 1024 (64 * 2 ^ 64) }) }
def savedOne : State :=
  match execContextSave 3 ((resident (withK (st 0) [(1, 77)])).updCluster 3 fun c => { c with preempting := true }) with | .next t => { t with time := 200000 } | _ => st 0
def firstGrid (s : State) (key : Nat) : Bool := match s.firstCandidate with | some (_, .grid k) => k == key | _ => false
theorem wit_ClusterEvents : (firstGrid (gridded (st 0)) 9 = true ∧ (((gridded (st 0)).seats (.grid 9) [3, 4]).map (·.length)) = some 2 ∧ (gridded (st 0)).seats (.grid 9) [3, 40] = none ∧
      firstGrid (st 0) 9 = false) ∧
    ((ended.cluster 3).live = true ∧ (∀ g ∈ (ended.cluster 3).wgs, (ended.wg g).exited = true ∧ ended.quiet g = true) ∧ ((resident (st 0)).wg 0).exited = false ∧
      (let t := ended.updCtx 0 fun c => { c with suspending := true }
       (t.ctx (t.cluster 3).ctx).suspending = true ∧ (∀ p ∈ t.clusters, p.1 ≠ 3 → p.2.live = true → p.2.ctx ≠ (t.cluster 3).ctx) ∧ (t.cluster 3).live = true ∧ t.quiet 0 = true)) ∧
    (let s := (resident (st 0)).updCtx 0 fun c => { c with suspending := true }
     (s.cluster 3).live = true ∧ (s.cluster 3).preempting = false ∧ (s.imagePlace (s.cluster 3)).isSome = true ∧ (s.ctx (s.cluster 3).ctx).suspending = true) ∧
    (firstGrid crowded 9 = true ∧ crowded.candidateFits (.grid 9) = false ∧ ({ kdesc := (crowded.asks (.grid 9)).2.1 : Workgroup }).paired = false ∧ (crowded.cluster 3).wgs ≠ [] ∧
      (crowded.cluster 3).prio < 7 ∧ crowded.clusters = [(3, crowded.cluster 3)]) ∧
    (let s := (resident (st 0)).updCluster 3 fun c => { c with preempting := true }
     (s.cluster 3).live = true ∧ (s.cluster 3).preempting = true ∧ (s.cluster 3).wgs.Nodup) ∧
    (savedOne.saved.length = 1 ∧ ((savedOne.saved[0]?.map (·.time)) = some 0 ∧ 0 + 1000 * 100 < savedOne.time.toNat) ∧ savedOne.firstCandidate.map (·.2) = some (.saved 0) ∧
      ((savedOne.seats (.saved 0) [5]).map (·.length)) = some 1 ∧ (savedOne.saved.all fun x => (x.images.all fun y => y.cmds.isEmpty) && decide (x.images.map (·.wg)).Nodup) = true) := by
  and_intros <;> decide +kernel

/-- Queue 5 of context 0 with the packet `w` at its head; the words of each type. -/
def pkt (w : Nat) : State := { (st 0).setMemBytes 0x80000 (toBytes 64 w) with queues := [(5, { base := 0x80000, cfg := 0x80000107, wptr := 1 })] }
def parses (w : Nat) : Bool := (pkt w).nextQueue == some (5, false) && (pkt w).headPacket 5 == some (BitVec.ofNat 512 w) && ((pkt w).serve 5 false).headPacket 5 == some (BitVec.ofNat 512 w)
def cleanWith (w : Nat) (l : List (Nat × Nat)) : Bool := reservedZero (BitVec.ofNat 512 w) ([(0, 8), (31, 1)] ++ l)
def pSignal (a : Nat) : Nat := 3 + a * 2 ^ 64 + 9 * 2 ^ 128 + 1 * 2 ^ 192 + 12 * 2 ^ 208 + 2 ^ 223
def pCopy (n : Nat) : Nat := 5 + 0x50000 * 2 ^ 64 + 0x60000 * 2 ^ 128 + n * 2 ^ 192
def pFlush : Nat := 4 + 0x50000 * 2 ^ 64 + 128 * 2 ^ 128 + 1 * 2 ^ 192
def pFence : Nat := 2 + 0x60000 * 2 ^ 64 + 1 * 2 ^ 128
def pLaunch : Nat := 1 + 0x70000 * 2 ^ 64 + 0x40000 * 2 ^ 128 + 4 * 2 ^ 256 + 1 * 2 ^ 288
theorem wit_Packets_parse : (st 0).nextQueue = none ∧ parses 0 = true ∧ cleanWith 0 [] = true ∧ parses 0x100 = true ∧ cleanWith 0x100 [] = false ∧ parses 7 = true ∧ 6 < 7 ∧
    (parses (6 + 3 * 2 ^ 64 + 9 * 2 ^ 72) = true ∧ cleanWith (6 + 3 * 2 ^ 64 + 9 * 2 ^ 72) [(64, 5), (72, 8)] = true) ∧
    (parses (pSignal 0x50000) = true ∧ cleanWith (pSignal 0x50000) [(64, 128), (192, 2), (208, 11), (223, 1)] = true ∧ parses (pSignal 0x50004) = true ∧ 0x50000 % 8 = 0 ∧ 0x50004 % 8 ≠ 0) ∧
    (parses (pCopy (2 ^ 40)) = true ∧ cleanWith (pCopy (2 ^ 40)) [(64, 192)] = true ∧ parses (pCopy 0) = true ∧ cleanWith (pCopy 0) [(64, 192)] = true ∧ parses (pCopy (2 ^ 40 + 1)) = true) ∧
    ({ pkt 0 with queues := [(5, { base := 0xC000000000, cfg := 0x80000107, wptr := 1 })] } : State).headPacket 5 = none := by
  and_intros <;> decide +kernel
def engOk (s : State) (va : Nat) (a : Access) : Bool := match s.engXlat none 0 va a none with | (_, _, .ok pa attr) => pa == va && attr.key == none | _ => false
/-- What a FLUSH, a FENCE and a LAUNCH read: a dirty line, a wait list whose counter is 1, a kernel descriptor that passes its checks and one that does not. -/
theorem wit_Packets_memory : (let s : State := { pkt pFlush with l2 := [(0xA00, { live := true, dirty := true, data := 7 })] }
     s.nextQueue = some (5, false) ∧ s.headPacket 5 = some (BitVec.ofNat 512 pFlush) ∧ cleanWith pFlush [(64, 128), (192, 2)] = true ∧
       engOk ((s.serve 5 false).addPacket 5 (BitVec.ofNat 512 pFlush)).1 0x50000 .read = true ∧ s.windowDie 0x50000 = none) ∧
    (let s : State := (pkt pFence).setMemBytes 0x60000 (toBytes 16 (0x50000 + 2 ^ 64))
     let t0 := s.serve 5 false
     s.headPacket 5 = some (BitVec.ofNat 512 pFence) ∧ cleanWith pFence [(64, 64), (128, 4)] = true ∧ (t0.ctxNum 0 0x60000 16).2 = some (0x50000 + 2 ^ 64) ∧ ((t0.ctxNum 0 0x60000 16).1.ctxNum 0 0x50000 8).2 = some 0 ∧
       ((((s.setMemBytes 0x50000 [1]).serve 5 false).ctxNum 0 0x60000 16).1.ctxNum 0 0x50000 8).2 = some 1) ∧
    (let s : State := (pkt pLaunch).setMemBytes 0x70000 (toBytes 128 launchKernel.toNat)
     let t0 := s.serve 5 false
     s.headPacket 5 = some (BitVec.ofNat 512 pLaunch) ∧ cleanWith pLaunch [(64, 224), (288, 2), (296, 5)] = true ∧ (t0.ctxNum 0 0x70000 128).2 = some launchKernel.toNat ∧
       kdescOk launchKernel = true ∧ (((pkt pLaunch).serve 5 false).ctxNum 0 0x70000 128).2 = some 0 ∧ kdescOk 0 = false ∧
       (∀ r ∈ [Role.copy, .maths, .epi], 0x40000 + ({ kdesc := launchKernel } : Workgroup).entry r < 2 ^ 57 ∧ ({ kdesc := launchKernel } : Workgroup).trapEntry r = 0xFFFFFFFF) ∧
       (let d : BitVec 1024 := (launchKernel - 1) ||| (0xC0 : BitVec 1024) <<< 192
        kdescOk d = true ∧ ({ kdesc := d } : Workgroup).counts.2.2 = 0 ∧ ¬2 ^ 57 - 64 + ({ kdesc := d } : Workgroup).entry .epi < 2 ^ 57 ∧ 2 ^ 57 - 64 + ({ kdesc := d } : Workgroup).entry .copy < 2 ^ 57 ∧
          ({ kdesc := d } : Workgroup).trapEntry .epi = 0xFFFFFFFF) ∧
       ¬2 ^ 57 - 64 + ({ kdesc := launchKernel ||| (0xC0 : BitVec 1024) <<< 128 } : Workgroup).entry .copy < 2 ^ 57 ∧ (2 ^ 57 - 64) % 64 = 0) := by 
  and_intros <;> decide +kernel
/-- The page of 1 GiB from 2^30 on lies in host memory. -/
def hosted (s : State) : State := s.setMemBytes 0x12008 (toBytes 8 0xC00000000031F)
/-- A FENCE that waits, and packets in progress. -/
def fencing (v : Byte) : State :=
  { (st 0).setMemBytes 0x50000 [v] with queues := [(5, { cfg := 0x80000107, fwait := true, fence := [{ addr := 0x50000, value := 1 }] })] }
def going (k : Packet) : State := { st 0 with queues := [(5, { cfg := 0x80000107, packets := [k] })] }
def aSignal (progress : Nat) : Packet := { type := 3, number := 1, words := BitVec.ofNat 512 (pSignal 0x50000), progress := progress }
def aCopy : Packet := { type := 5, number := 1, words := BitVec.ofNat 512 (pCopy 8), progress := 4, latched := [1, 2, 3, 4, 5, 6, 7, 8] }
theorem wit_Packets_go : (((fencing 0).queue 5).fence = [{ addr := 0x50000, value := 1 }] ∧ ((fencing 0).queue 5).fwait = true ∧ ((fencing 0).queue 5).enabled = true ∧ ((fencing 0).queue 5).stop = false ∧
      ((fencing 0).ctxNum 0 0x50000 8).2 = some 0 ∧ ((fencing 1).ctxNum 0 0x50000 8).2 = some 1 ∧ (fencing 0).pollsCounter 0 0x50000 = false ∧ (hosted (fencing 0)).pollsCounter 0 0x40000008 = true ∧ ((hosted (fencing 0)).ctxNum 0 0x40000008 8).2 = some 0) ∧
    (((going (aSignal 0)).queue 5).packets.find? (fun k => k.type == 3 && k.progress == 0 && !k.suspended && !k.cancelled) = some (aSignal 0) ∧ engOk (going (aSignal 0)) 0x50000 .atomic = true) ∧
    (((going aCopy).queue 5).packets = [aCopy] ∧ aCopy.progress < 8 ∧ aCopy.latched.length = 8 ∧ engOk (going aCopy) (0x60000 + 4) .write = true) ∧
    (((going (aSignal 1)).timeline 0 (queueId 5)).done = [] ∧ (aSignal 1).number = ((going (aSignal 1)).timeline 0 (queueId 5)).count + 1 ∧ (aSignal 1).progress = 1 ∧ aCopy.progress < 8) := by
  and_intros <;> decide +kernel

/-- The host's device with a context table at 0x90000 that gives context 1 the descriptor `d`; the ring of the descriptor ends where HBM ends. -/
def tabled (d : Nat) : State := { owned ((st 0).setMemBytes 0x90040 (toBytes 64 d)) with ctxtab := 0x90000 }
def aDesc (log : Nat) : Nat := 0x10000 * 2 ^ 448 + (0xC000000000 - 64 * 2 ^ 16) * 2 ^ 256 + log * 2 ^ 252
def descOk (s : State) : Bool :=
  let d : BitVec 512 := BitVec.ofNat 512 (ofBytes (s.rawRead (s.ctxtab.toNat + 64) 64))
  let field (lo n : Nat) : Nat := d.toNat / 2 ^ lo % 2 ^ n
  ((List.range 512).all fun b => !((192 ≤ b && b < 203) || (240 ≤ b && b < 252) || (320 ≤ b && b < 352) || b < 180) || !d.getLsbD b) &&
    decide (field 448 12 = 0 ∧ field 500 12 = 0 ∧ field 384 12 = 0 ∧ field 352 12 = 0 ∧ field 256 64 % 4096 = 0 ∧ field 252 4 ≤ 10 ∧
      field 256 64 + 64 * 2 ^ (field 252 4 + 6) ≤ Config.hbmBytes ∧ field 214 10 + field 203 11 ≤ 1024)
def aQueue (x : Queue) : State := owned { st 0 with queues := [(5, x)] }
def ringFits (x : Queue) : Bool := decide ((x.wptr - x.rptr).toNat ≤ 2 ^ (x.cfg.toNat / 2 ^ 27 % 16 + 4))
theorem wit_ContextsAndQueues : (owned (st 0)).owns .host = true ∧ (owned (st 0)).owns .bmc = false ∧ (owned (st 0)).ctxcmd.getLsbD 31 = false ∧
    (((tabled (aDesc 10)).ctx 1).created = false ∧ ((tabled (aDesc 10)).ctx 0).created = true ∧ isMapped (0x90000 + 64) = true ∧ isMapped (0x90000 + 64 + 63) = true ∧ (tabled (aDesc 10)).meetsArea (0x90000 + 64) 64 = false ∧ descOk (tabled (aDesc 10)) = true ∧
      descOk (tabled (aDesc 11)) = false) ∧
    ((∃ r ∈ (aQueue { cfg := 0x80000107 }).queues, r.2.enabled = true ∧ r.2.ctx = 0) ∧ (∀ r ∈ (owned (st 0)).queues, r.2.enabled = false) ∧ (owned (st 0)).hasWork 0 = true ∧
      ({ owned (st 0) with wgs := [] } : State).hasWork 0 = false) ∧
    (owned (st 0)).tlbcmd.getLsbD 31 = false ∧
    ((aQueue {}).fleet.recovery = 0 ∧ (aQueue { cfg := 0x80000107 }).fleet.recovery = 0 ∧ ringFits { cfg := 0x80000107, wptr := 16 } = true ∧ ringFits { cfg := 0x80000107, wptr := 17 } = false) ∧
    ((0x80000107 : Word).getLsbD 31 = true ∧ (0x80FF0107 : Word).getLsbD 31 = true ∧ ((aQueue {}).ctx (0x80FF0107 / 2 ^ 16 % 256)).created = false ∧ ((aQueue {}).ctx (0x80000107 / 2 ^ 16 % 256)).created = true ∧
      12 < 0xE8000107 / 2 ^ 27 % 16 ∧ 0xE0000107 / 2 ^ 27 % 16 ≤ 12 ∧ 0x80000107 / 2 ^ 8 % 256 ≠ 0) ∧
    (barMapped 8 = true ∧ barMapped 0x20 = true ∧ 8 % 8 = 0 ∧ 12 % 8 ≠ 0 ∧ barMapped 0x10 = true ∧ barMapped (0x10 + 4) = false ∧ 0x10 % 8 = 0) := by decide +kernel

/-- An image header at 0xA0000 that is well formed, one that is not; deduplication of die 0 off and on, with an area of 2 MiB below its window, which covers its 64 MiB of entries or does not. -/
def imaged (magic : Nat) : State :=
  { owned ((st 0).setMemBytes 0xA0000 (toBytes 64 (magic + 2 ^ 16 + 5 * 2 ^ 32 + 1 * 2 ^ 64 + 4 * 2 ^ 96 + 1 * 2 ^ 192 + 3284 * 2 ^ 224))) with rtaddr := 0xA0000 }
def headerAt (s : State) : Bool := imageHeaderOk (BitVec.ofNat 512 (ofBytes (s.rawRead 0xA0000 64)))
def deduped (ctl area : DWord) (pool : DWord) : State :=
  { owned (st 0) with dedup := [(0, { ctl := ctl.setWidth 32, win := 0x40000000, wlen := 0x40000000, area := area, pool := pool, free := pool })] }
def areaFits (s : State) (k : Nat) : Bool := (s.dd 0).covers 0 k
theorem wit_DeviceRegisters : (owned (st 0)).owns .fabric = false ∧ (owned (st 0)).rtcmd.getLsbD 31 = false ∧ (isMapped 0xA0000 = true ∧ isMapped (0xA0000 + 63) = true) ∧
    (headerAt (imaged 0x6C2B) = true ∧ headerAt (imaged 0x6C2A) = false ∧ isMapped (0xA0000 + (64 + 64 + 0 + 3284) - 1) = true ∧ (imaged 0x6C2B).meetsArea 0xA0000 (64 + 64 + 0 + 3284) = false ∧ (imaged 0x6C2A).meetsArea 0xA0000 64 = false ∧
      ({ imaged 0x6C2B with dedup := [(0, { ctl := 1, area := 0x90000, wlen := 0x100010 })] } : State).meetsArea 0xA0000 64 = true ∧
      ({ imaged 0x6C2B with dedup := [(0, { ctl := 1, area := 0x90000, wlen := 0x100000 })] } : State).meetsArea 0xA0000 64 = false) ∧
    ((((deduped 0 0x3C000000 0).dd 0).ctl.getLsbD 0 = false ∧ ((deduped 0 0x3C000000 0).dd 0).placed 0 = true ∧ areaFits (deduped 0 0x3C000000 0) 0 = true ∧ areaFits (deduped 0 0x3C000000 1) 1 = false ∧
      ((deduped 0 0x50000000 0).dd 0).placed 0 = false)) ∧
    (((deduped 1 0x3BE00000 1).dd 0).ctl.getLsbD 0 = true ∧ areaFits (deduped 1 0x3BE00000 1) (2097152 / 144) = true ∧ areaFits (deduped 1 0x3BE00000 1) (2097152 / 144 + 1) = false) ∧
    ((owned (st 0)).fleet.locked = false ∧ 1800 < (1801 : DWord).toNat % 2 ^ 16 ∧ ¬1800 < (1800 : DWord).toNat % 2 ^ 16) := by decide +kernel

/-- A device whose debug features `features` are open, and core 0 with `d`; the target is split 0 of warp 0 of workgroup 0. -/
def debugging (features : BitVec 4) (d : Debug) : State :=
  let s := owned (withDebug (st 0) fun _ => d)
  { s with fleet := { s.fleet with features := features } }
def stopped (s : State) : State := withSplit s fun x => { x with st := .held, before := .run }
theorem wit_DebugCommands : (let s := debugging 0xF {}
     s.owns .host = true ∧ s.owns .bmc = false ∧ s.fleet.features.getLsbD 1 = true ∧ s.fleet.features.getLsbD 2 = true ∧ s.fleet.features.getLsbD 3 = true ∧ s.dbgTarget 0 = some 0 ∧ (s.wg 0).core = 0 ∧
       s.curSplit.live = true ∧ s.curSplit.st = .run ∧ s.curSplit.handler = false ∧ s.traces 0 0 2 = false ∧ (s.split 0 0 1).live = false) ∧
    ((debugging 0 {}).fleet.life = .production ∧ (debugging 0 {}).fleet.features.getLsbD 1 = false ∧ (debugging 0xF { tgt := 0xFF0000 }).dbgTarget 0 = none ∧ (debugging 0xF { tgt := 0xC }).dbgTarget 0 = some 0 ∧
      (0xC : DWord).toNat / 4 % 4 = 3) ∧
    (let s := stopped (debugging 0xF { sel := 0x1000003F })
     s.curSplit.st = .held ∧ (∀ i, i < 4 → (s.split 0 0 i).live = true → (s.split 0 0 i).st = .held) ∧ (s.core 0).dbg.sel.toNat = 2 ^ 28 + 63 ∧ ((debugging 0xF {}).split 0 0 0).st ≠ .held ∧ (∀ port, port < 6 → (s.portSlot 0 port).due = false) ∧
       (let t := withSplit s fun x => { x with before := .wait, wait := .again }; t.curSplit.before = .wait ∧ t.curSplit.wait = .again ∧ t.curSplit.st = .held) ∧ s.curSplit.before ≠ .wait) ∧
    (let s := debugging 0xF { sel := 0x80000000, addr := 0xFFF8 }
     (s.core 0).dbg.sel.toNat / 2 ^ 28 = 8 ∧ 0xFFF8 % 8 = 0 ∧ 0xFFF8 + 8 ≤ (s.wg 0).userBytes ∧ (s.wg 0).userBytes < 0x10000 + 8) := by decide +kernel

/-- A device in recovery, with an image in host memory; and one with a permit of this device for its nonce at 0xB0000 of memory: the device's
identifier is a free value, so the bytes are written out as it gives them. -/
def recovering : State := { st 0 with fleet := { (st 0).fleet with recovery := 2, owner := none, rcvAddr := 0xC000000000000, rcvLen := 64 } }
def fleetOf (s : State) (f : Fleet → Fleet) : State := { owned s with fleet := f (owned s).fleet }
theorem wit_FleetOperation : ((st 0).fleet.recovery = 0 ∧ (st 0).fleet.owner = none ∧ (owned (st 0)).fleet.owner = some .host ∧ (fleetOf (st 0) fun f => { f with pendTo := some .bmc }).fleet.pendTo = some .bmc ∧
      (owned (st 0)).fleet.pendTo ≠ some .bmc ∧ 7 < 8) ∧
    (recovering.fleet.recovery ≠ 0 ∧ isHost recovering.fleet.rcvAddr.toNat = true ∧ isHost (recovering.fleet.rcvAddr.toNat + (64 - 1)) = true) ∧
    bootCheck (recovering.homeRead none 0xC000000000000 64) 0 ≠ 0 ∧
    (let s := fleetOf (st 0) fun f => { f with attAddr := 0xBFFFFFF200, keyAddr := 0xBFFFFFFFC0 }
     s.fleet.attAddr.toNat % 64 = 0 ∧ s.fleet.attAddr.toNat + 3540 ≤ Config.hbmBytes ∧ Config.hbmBytes < s.fleet.attAddr.toNat + 64 + 3540 ∧
       (s.meetsArea s.fleet.attAddr.toNat 3540 = false ∧ s.meetsArea s.fleet.keyAddr.toNat 64 = false) ∧
       (let t : State := { s with dedup := [(1, { ctl := 1, area := 0xBFFFFFF000, pool := 28 })] }
        t.meetsArea s.fleet.attAddr.toNat 3540 = true ∧ t.meetsArea s.fleet.keyAddr.toNat 64 = false ∧ ({ s with dedup := [(1, { ctl := 1, area := 0xBFFFFFF000, pool := 29 })] } : State).meetsArea s.fleet.keyAddr.toNat 64 = true) ∧
       s.fleet.keyAddr.toNat % 64 = 0 ∧ s.fleet.keyAddr.toNat + 64 ≤ Config.hbmBytes ∧ s.owns .host = true ∧ s.owns .bmc = false) ∧
    (let s := fleetOf { st 0 with ctxs := [] } fun f => { f with pmtAddr := 0xB0000 }
     s.fleet.life = .production ∧ s.fleet.pmtAddr.toNat % 64 = 0 ∧ s.fleet.pmtAddr.toNat + 3348 ≤ Config.hbmBytes ∧ (∀ c ∈ s.ctxs, c.2.created = false) ∧ s.l2 = [] ∧
       s.meetsArea 0xB0000 3348 = false ∧ (BitVec.ofNat 512 (ofBytes (s.rawRead 0xB0000 64))).toNat % 2 ^ 32 ≠ 0x17E51) ∧
    (∃ c ∈ (st 0).ctxs, c.2.created = true) ∧ ((st 0).ctxs.map (·.1)).Nodup ∧ ((st 0).ctx 1).created = false ∧ ((st 0).wg 0).live = true ∧
    (fleetOf (st 0) fun f => { f with life := .returned }).fleet.life = .returned ∧ (fleetOf (st 0) fun f => { f with life := .develop }).fleet.life = .develop := by decide +kernel
/-- The permit's header: its identifier is this device's, its nonce 0, it opens feature 0 and carries RETURN. -/
def permitLow : Nat := 0x17E51 + 2 ^ 32 + 2 ^ 40 + 2 ^ 44
def permitBits : BitVec 512 := BitVec.ofNat 512 (permitLow + 2 ^ 128 * Config.devuid.toNat)
theorem permit_toNat : permitBits.toNat = permitLow + 2 ^ 128 * Config.devuid.toNat := by
  have := Config.devuid.isLt
  have h : permitLow < 2 ^ 128 := by decide
  rw [permitBits, BitVec.toNat_ofNat]
  exact Nat.mod_eq_of_lt (Nat.lt_of_lt_of_le (show _ < 2 ^ 256 by omega) (Nat.pow_le_pow_right (by omega) (by omega)))
/-- A device with it at 0xB0000 of memory. -/
def permitted : State :=
  { owned { st 0 with ctxs := [] } with
    mem := (List.range 64).map fun i => (0xB0000 + i, byteAt permitBits.toNat i)
    fleet := { (owned (st 0)).fleet with pmtAddr := 0xB0000, pmtNonce := some 0 } }
theorem sget_range {α : Type} (d : Nat → α) (f : Nat → α) (a j : Nat) : ∀ n lo, lo ≤ j → j < lo + n → sget d ((List.range' lo n).map fun i => (a + i, f i)) (a + j) = f j
  | 0, lo, h1, h2 => absurd h2 (by omega)
  | n + 1, lo, h1, h2 => by
    simp only [List.range'_succ, List.map_cons, sget]
    split
    · next h => rw [show lo = j by omega]
    · next h => exact sget_range d f a j n (lo + 1) (by omega) (by omega)
theorem permit_read : permitted.rawRead 0xB0000 64 = toBytes 64 permitBits.toNat := by
  unfold State.rawRead toBytes
  refine List.map_congr_left fun i hi => ?_
  have hi : i < 64 := List.mem_range.mp hi
  have hm : permitted.mem = (List.range' 0 64).map fun i => (0xB0000 + i, byteAt permitBits.toNat i) := by
    rw [← List.range_eq_range']; rfl
  have hh : isHbm (0xB0000 + i) = true := decide_eq_true (by unfold Config.hbmBytes; omega)
  have hw : permitted.windowDie (0xB0000 + i) = none := rfl
  have hs : permitted.saved = [] := rfl
  have hg : permitted.memByte (0xB0000 + i) = byteAt permitBits.toNat i := by
    unfold State.memByte; rw [hm]; exact sget_range _ _ _ i 64 0 (by omega) (by omega)
  have hd (line : Nat) : permitted.dirtyLine line = false := by show (_ && (false : Bool) && (false : Bool)) = false; simp
  have hk : permitted.rawKey (lineOf (0xB0000 + i)) = none := by unfold State.rawKey; split <;> first | rfl | (unfold State.lineKey; split <;> rfl)
  simp [reKey, hk, State.rawByte, hh, hd, State.hbmByte, hw, State.dramByte, hs, hg]
theorem ofBytes_toBytes (n x : Nat) : ofBytes (toBytes n x) = x % 256 ^ n := by
  induction n generalizing x with
  | zero => simp [toBytes, ofBytes, Nat.mod_one]
  | succ n ih =>
    have : toBytes (n + 1) x = BitVec.ofNat 8 x :: toBytes n (x / 256) := by
      simp only [toBytes, List.range_succ_eq_map, byteAt, List.map_cons, List.map_map, List.cons.injEq]
      refine ⟨by simp, List.map_congr_left fun i _ => ?_⟩
      show BitVec.ofNat 8 _ = BitVec.ofNat 8 _
      rw [Nat.div_div_eq_div_mul, show 8 * i.succ = 8 + 8 * i by omega, Nat.pow_add]
    rw [this, ofBytes, ih, Nat.pow_succ, Nat.mul_comm (256 ^ n), Nat.mod_mul]
    simp
theorem permit_header : BitVec.ofNat 512 (ofBytes (permitted.rawRead 0xB0000 64)) = permitBits := by
  rw [permit_read, ofBytes_toBytes]
  apply BitVec.eq_of_toNat_eq
  rw [BitVec.toNat_ofNat]
  have := permitBits.isLt
  omega
/-- Every condition of a permit but its signature, which is a free value. -/
theorem wit_FleetOperation_permit : let h := BitVec.ofNat 512 (ofBytes (permitted.rawRead permitted.fleet.pmtAddr.toNat 64))
    h.toNat % 2 ^ 32 = 0x17E51 ∧ (∀ b, (34 ≤ b ∧ b < 40) ∨ (45 ≤ b ∧ b < 128) → h.getLsbD b = false) ∧ h.extractLsb' 128 128 = Config.devuid ∧
      permitted.fleet.pmtNonce = some (h.extractLsb' 256 256) ∧ h.toNat / 2 ^ 32 % 4 = 1 ∧ h.toNat / 2 ^ 40 % 16 ≠ 0 ∧ h.getLsbD 44 = true ∧ permitted.owns .host = true ∧
      permitted.fleet.life = .production ∧ (∀ c ∈ permitted.ctxs, c.2.created = false) ∧ permitted.l2 = [] ∧ permitted.meetsArea 0xB0000 3348 = false := by
  have hp : permitted.fleet.pmtAddr.toNat = 0xB0000 := rfl
  intro h
  have hh : h = permitBits := by simp only [h, hp]; exact permit_header
  have hn := permit_toNat
  have hl : permitLow = 0x17E51 + 2 ^ 32 + 2 ^ 40 + 2 ^ 44 := rfl
  have hu := Config.devuid.isLt
  have low (b : Nat) (hb : b < 128) : (permitLow + 2 ^ 128 * Config.devuid.toNat).testBit b = permitLow.testBit b := by
    rw [Nat.add_comm, Nat.testBit_two_pow_mul_add _ (by decide), if_pos hb]
  rw [hh]
  refine ⟨by omega, fun b hb => ?_, ?_, ?_, by omega, by omega, ?_, rfl, rfl, by simp [permitted, owned], rfl, rfl⟩
  · rw [BitVec.getLsbD, hn, low b (by omega)]
    exact (show ∀ b, b < 128 → (34 ≤ b ∧ b < 40) ∨ (45 ≤ b ∧ b < 128) → permitLow.testBit b = false by decide) b (by omega) hb
  · apply BitVec.eq_of_toNat_eq
    rw [BitVec.extractLsb'_toNat, hn, Nat.shiftRight_eq_div_pow]
    omega
  · refine congrArg some (BitVec.eq_of_toNat_eq ?_)
    rw [BitVec.extractLsb'_toNat, hn, Nat.shiftRight_eq_div_pow, Nat.div_eq_of_lt (by omega)]
    rfl
  · rw [BitVec.getLsbD, hn, low 44 (by omega)]
    decide

/-! ### Further clauses of the statements, each at a boundary value -/

/-- A quotient of 1 by 3, the roots of 2 and of 1/2 between neighbours; the values of NaN, finite and halfway patterns. -/
theorem wit_RoundingIsExact_functions :
    let mag (b : Nat) : Nat := if b < 2 ^ 23 then b else (2 ^ 23 + b % 2 ^ 23) * 2 ^ (b / 2 ^ 23 - 1)
    let between (lo x a b : Nat) : Prop := mag lo ^ x * b ≤ a ∧ a < mag (lo + 1) ^ x * b ∧ lo + 1 ≤ fp32.maxBits
    between 0x3EAAAAAA 1 (2 ^ 149) 3 ∧ between 0x3FB504F3 2 (2 * 2 ^ 298) 1 ∧ between 0x3F3504F3 2 (2 ^ 298) 2 ∧ between 0x7E7FFFFE 1 (2 ^ 150 * 2 ^ 126) (2 ^ 24 - 1 + 2) = false ∧
      fp16.e4m3 = false ∧ (FVal.nan true 5 true).isNan = true ∧ (FVal.fin false 1 0).isNan = false ∧ (fp32.value false 0x80000000).isNan = false ∧ (fp32.value false 0x7FC00000).isNan = true ∧
      fp32.value false 0x40200000 = .fin false 0xA00000 (-22) ∧ (511 < 512 ∧ 0 < 1) := by decide +kernel

/-- Lane 31 alone with a load or a store at 0x50000, on a cached page and on a STREAM page; a store of it that is performed later; a late store of another warp, and one of this warp to the scratchpad. -/
def lone : State := masked glob 0x80000000
def streamed : State := lone.updCore 0 fun c => { c with tlb := [{ ctx := 0, va := 0, bits := 30, pte := 0x33F }] }
/-- All lanes, with p1 in lane 31 alone. -/
def quadOne : State := glob.updWarp 0 0 fun w => { w with p := [(1, 0x80000000)] }
def leaves (s : State) (l : List LateStore) : State := s.updCore 0 fun c => { c with late := l }
def lateAt (w : Nat) (p : Place) : LateStore := { wg := 0, warp := w, place := p, bytes := [7], own := [(w, 0)] }
theorem wit_GlobalLoadsAndStores_late : edge.Prompt ∧ glob.Prompt ∧ streamed.Prompt ∧ lone.active 0x281 .always = 1#64 <<< 31 ∧ quadOne.activeH 0x280 g1 = 1#64 <<< 31 ∧ quadOne.active 0x280 g1 = 1#64 <<< 31 ∧
    streamed.active 0x281 .always = 1#64 <<< 31 ∧
    streamed.locate 0 0 31 0 0 (streamed.laneAddr (ar 0 (k 4) .none (v 7)) 0 true 31) 4 .write = .ok (.mem 0x50000 { stream := true }) ∧ streamed.enc = [] ∧ streamed.l2 = [] ∧ streamed.NoWindows ∧
    (let s : State := leaves { lone with lag := 0x80000000 } [lateAt 1 (.mem 0x50000 {})]
     s.active 0x281 .always = 1#64 <<< 31 ∧ s.lag.getLsbD 31 = true ∧ s.locate 0 0 31 0 0 (s.laneAddr (ar 0 (k 4) .none (v 7)) 0 true 31) 4 .write = .ok (.mem 0x50000 {}) ∧
       (s.core 0).late = [lateAt 1 (.mem 0x50000 {})] ∧ (lateAt 1 (.mem 0x50000 {})).isBefore 0 0 0 = false) ∧
    (let s := leaves quadOne [lateAt 0 (.mem 0x50000 {}), lateAt 0 (.sp 0 5)]
     (s.core 0).late[1]? = some (lateAt 0 (.sp 0 5)) ∧ (s.core 0).late[0]? = some (lateAt 0 (.mem 0x50000 {})) ∧ (Place.mem 0x50000 {}).meets 1 (.sp 0 5) 1 = false ∧
       (Place.mem 0x50003 {}).meets 1 (.mem 0x50000 {}) 4 = true ∧ (Place.mem 0x50004 {}).meets 1 (.mem 0x50000 {}) 4 = false ∧
       s.locate 0 0 31 0 0 (s.laneAddr (ar 8 (k 4) .none .none) 0 true 31) 4 .read = .ok (.mem 0x50000 {}) ∧ s.poisoned 0x50000 4 = false) := by
  and_intros
  all_goals first | decide +kernel | exact fun _ => rfl
theorem wit_PromptAndPairs : (bank 0).Prompt ∧ (bank 0xFF00).acts 0x0C0 .always = true ∧ (st 0x283).curWg.paired = false ∧ (rag 0xF 1).Prompt ∧ (flumed 24 3 .epi .copy).Prompt ∧ (st 0x20).Prompt ∧ (st 0x23).Prompt := by
  and_intros <;> decide +kernel

/-- A loop that ends at the last slot of the page: the line after it faults. -/
def lastLine (s : State) (n : List LoopRec) : State :=
  withSplit s fun x => { x with pc := PC.make (2 ^ 30 - 64) 0, loops := n, line := some (2 ^ 30 - 64, Line.withParity (BitVec.ofNat 512 (2 ^ 19 + 2 ^ 27 * 29))) }
def lastRec : LoopRec := { first := PC.make (2 ^ 30 - 64) 0, endLine := 0, endSlot := 4, count := 2 }
theorem wit_Loops_fetch : (match ((lastLine (st 8) []).loopCheck (.imm 4)).2 with | .fault _ => true | _ => false) = true ∧
    ((lastLine (st 8) []).curSplit.mask.getLsbD 0 = true ∧ (lastLine (st 9) [lastRec]).active 9 .always ≠ 0 ∧ ((lastLine (st 9) [lastRec]).active 9 .always).getLsbD 0 = true) ∧
    ((lastLine (st 9) [lastRec]).curSplit.loops = [lastRec] ∧ (lastLine (st 9) [lastRec]).curSplit.defer = []) ∧
    (match ((lastLine (st 9) [lastRec]).pcAfter 0 lastRec.endPc).2 with | .inr _ => true | _ => false) = true := by and_intros <;> decide +kernel
/-- A label that is no target. -/
theorem wit_WaitAndYield_label : (∃ s1, (nops 10).checkTarget 0 ((nops 10).dispTarget (.imm 1)) = (s1, some (targetFault 0x40001)) ∧ True) ∧ ((nops 10).active 0x00B .always).getLsbD 0 = true ∧
    (let s := withSplit (flumed 11 0 .copy .epi) fun x => { x with met := some true }; s.curSplit.met = some true ∧ (st 11).curSplit.met = none) :=
  ⟨pair_of (by decide +kernel) trivial, by decide +kernel, by decide +kernel⟩

/-- Barrier 0 at CLUSTER scope in cluster 3, of workgroups 0 and 1: a member, a non-member, and a split whose arrival waits for its release, the last one or not. -/
def nodeBarrier (op count arrivals : Nat) (mask : LaneMask) : State :=
  let s := (st op).updWg 0 fun g => { g with cluster := 3, bars := [(0, { cluster := true })] }
  { s with clusters := [(3, { live := true, wgs := [0, 1], nodes := [(0, { cluster := true, count := count, mask := mask, gen := 1, arrivals := arrivals })] })] }
def arriving (s : State) (i : Instr) : State :=
  (waiting s i .release).updCore 0 fun c => { c with releases := [{ wg := 0, who := some (0, 0), scope := .cluster }] }
theorem wit_NamedBarriers_cluster : let s := nodeBarrier 18 2 0 1
    s.acts 0x010 .always = true ∧ s.arrayUndone 0 0 = false ∧ (s.barrier 0 0).cluster = true ∧ (s.barrier 0 0).mask.getLsbD s.curWg.rank = true ∧ ((nodeBarrier 18 2 0 2).barrier 0 0).mask.getLsbD s.curWg.rank = false ∧
    (1 ≤ ((s.barrier 0 0).gen - 0).toNat ∧ ((s.barrier 0 0).gen - 0).toNat < 2 ^ 31 ∧ ((s.barrier 0 0).gen - 1).toNat = 0) ∧
    (∀ n, n < 2 → let t := arriving (nodeBarrier 18 2 n 1) (.barSync (ar 0 (ob 0x20) .none .none))
      (t.core 0).releases[0]? = some { wg := 0, who := some (0, 0), scope := .cluster } ∧ t.curSplit.live = true ∧ t.curSplit.st = .wait ∧ t.curSplit.wait = .release ∧ t.frozen 0 0 0 = false ∧
        (t.barrier 0 0).cluster = true ∧ ((t.barrier 0 0).arrivals + 1 = (t.barrier 0 0).count ↔ n = 1)) ∧
    (arriving s (.barArrive (ar 9 (ob 0x20) .none .none))).curSplit.pend = some (.barArrive (ar 9 (ob 0x20) .none .none)) := by
  intro s; and_intros <;> decide +kernel

/-- Stores that a FENCE performs; a TLSIG whose workgroup has a store to publish; a release that completes a number. -/
theorem wit_Ordering_stores : let s := leaves (st 0x22) [lateAt 0 (.sp 0 5)]
    (s.acts 0x020 .always = true ∧ (s.core 0).late = [{ wg := 0, warp := 0, place := .sp 0 5, bytes := [7], own := [(0, 0)] }] ∧ s.arrayUndone 0 0 = false ∧ 2 ≤ Scope.cluster.toBits ∧ ¬2 ≤ Scope.wg.toBits) ∧
    (let t := (st 0x23).updCore 0 fun c => { c with unpub := [{ addr := 0x50000, byte := 7, wg := 0 }] }
     t.Prompt ∧ t.arrayUndone 0 0 = false ∧ t.enc = [] ∧ t.l2 = [] ∧ ∀ h ∈ (t.core 0).unpub.filter fun h => h.wg == 0, h.attr.key = none ∧ isCached h.addr = true) ∧
    (let r : Release := { wg := 0, who := none, scope := .device, number := some 1 }
     let t := (st 0x23).updCore 0 fun c => { c with releases := [r] }
     (t.core 0).releases[0]? = some r ∧ (t.timeline 0 0).done = [] ∧ 1 = (t.timeline 0 0).count + 1) := by
  intro s; and_intros <;> decide +kernel

/-- A trap that waits for the array, and one whose wait may end. -/
theorem wit_TakingATrap_array : (chained (st 0xE) (aChain false)).arrayBefore 0 0 = true ∧ (st 0xE).arrayBefore 0 0 = false ∧ (chained (st 0xE) (aChain true)).arrayBefore 0 0 = false ∧
    (let s := withSplit (st 0xE) fun x => { x with st := .wait, pend := none, wait := .array }
     s.curSplit.live = true ∧ s.curSplit.st = .wait ∧ s.curSplit.pend = none ∧ s.curSplit.wait = .array ∧ s.frozen 0 0 0 = false) ∧ (0x12 ≠ 0x80 ∧ 0x22 ≠ 0x12) := by and_intros <;> decide +kernel

/-- Selectors of WSTAT and WREG at the ends of their ranges. -/
def selecting (x : Word) : State := withK second [(10, x)]
theorem wit_PrivilegedInstructions_selectors : ((selecting 0).acts 0x070 .always = true ∧ (selecting 0).uni (k 1) = 1 ∧ ((selecting 0).warp 0 1).live = true ∧ ((selecting 0).warp 0 1).width = 32) ∧
    (∀ x ∈ [(0x1033, 2 ^ 12 + 3 * 16 + 3), (0x2000, 2 * 2 ^ 12 + 0 * 16 + 0), (0x201F0006, 2 * 2 ^ 28 + 31 * 2 ^ 16 + 6), (0x30000006, 3 * 2 ^ 28 + 6), (0x40000010, 4 * 2 ^ 28 + 16),
        (0x40000011, 4 * 2 ^ 28 + 17), (0x40000012, 4 * 2 ^ 28 + 18), (0x40000112, 4 * 2 ^ 28 + 256 + 18), (0x40000000, 4 * 2 ^ 28 + SReg.laneid.toBits), (0x50000100, 5 * 2 ^ 28 + 1 * 256 + 0),
        (0x50000001, 5 * 2 ^ 28 + 0 * 256 + 1)], ((selecting (BitVec.ofNat 32 x.1)).uni (k 10)).toNat = x.2) ∧
    (1 ≠ second.cur.warp ∧ ((second.warp 0 1).split 0).live = true ∧ ((second.warp 0 1).split 0).st = .inTrap ∧ ((second.warp 0 1).split 1).st ≠ .inTrap) ∧
    ((0x1C : Word).extractLsb' 0 3).toNat ≤ 4 ∧ 4 < ((5 : Word).extractLsb' 0 3).toNat := by and_intros <;> decide +kernel

/-- Does a retired slot read as a modern instruction (R325)? -/
def emulates (w : Slot) (i : Instr) : Bool :=
  (rawModern (Raw.ofSlot w)).map (fun m => decodeFields ((queued none).decodeCtx 0 0 0) m none) == some (.ok i) && (retiredField (Raw.ofSlot w)).isNone
theorem wit_RetiredOpcodes_forms : emulates (row 0x140 255 (fV 1) (fV 2) (fV 3) 128) (.imad (ar 255 (v 1) (v 2) (v 3)) true false) = true ∧
    emulates (row 0x1C0 255 (fV 1) (fV 2) (fV 3) 0) (.hfma2 (ar 255 (v 1) (v 2) (v 3)) false {}) = true ∧ emulates (row 0x240 255 (fV 1) 0 0 0) (.lg2 (ar 255 (v 1) .none .none) {}) = true ∧
    emulates (row 0x2C0 252 (fV 2) 0 0 0) (.ld (ar 252 (v 2) .none .none) .b128 .global) = true ∧ emulates (row 0x030 0 0 0 0 0) (.fence (ar 0 .none .none .none) .warp) = true ∧
    emulates (row 0x3C0 0 (fM 0) (fK 8) (fK 4) 0) (.mma (ar 0 (.m 0) (k 8) (k 4)) { q := 3 }) = true ∧ (st 0x140).arrayBefore 0 0 = false ∧
    (let u := (glob.updWarp 0 0 fun w => (w.setV 0 2 0x50000).setV 0 3 0).actAs 0 0 0
     u.Prompt ∧ u.locate 0 0 0 0 0 (u.laneAddr (ar 252 (v 2) .none .none) 0 true 0) 16 .read = .ok (.mem 0x50000 {}) ∧ u.poisoned 0x50000 16 = false ∧ 0x50000 % 16 = 0) := by
  and_intros <;> decide +kernel

/-! Copy commands, shapes, the matrix unit. -/

/-- A tensor record: its format, extents, the stride of its rows, its exponents' address. -/
def tensor (fmt ext0 ext1 stride scale : Nat) : BitVec 512 :=
  BitVec.ofNat 512 (0x50000 + ext0 * 2 ^ 64 + ext1 * 2 ^ 96 + stride * 2 ^ 192 + fmt * 2 ^ 336 + (if 8 ≤ fmt then 32 else 0) * 2 ^ 344 + 2 ^ 352 + 0x7A * 2 ^ 360 + scale * 2 ^ 384)
/-- The state of `filling` with the record at 0x200, k1 naming it, sequence shape 0 bound, and the other registers of the block. -/
def tiling (op : Nat) (l : BitVec 512) (rows cols : Nat) (i0 i1 : Word) : State :=
  let s := withK (filling op 1) [(1, 0x200), (18, i0), (19, i1), (20, 0), (21, 0), (22, BitVec.ofNat 32 (2 ^ 16 + 32)), (23, BitVec.ofNat 32 (rows + cols * 2 ^ 16))]
  (s.updCore 0 fun c => c.spWrite 0x200 (toBytes 64 l.toNat)).updWg 0 fun g => { g with shapes := sset (fun _ => {}) g.shapes 0 (shape 0) }
def tileArgs : Args := ar 10 (k 1) (k 16) (v 4)
def copies : BitVec 512 := tensor 6 8 4 32 0
def blocks : BitVec 512 := tensor 14 64 4 64 0x60000
/-- A tile at an index below the tensor, of the most columns; accepted dense, under .SH and .SEQ, by rows and by addresses; stored; of BFP8 blocks; and the tensor record's checks. -/
theorem wit_CommandsAreAccepted_tiles : (let s := tiling 0x300 copies 2 4096 0xFFFFFFFF 3
     (s.layoutRecord (k 1) = .inl (copies, 0x200) ∧ Layout.ok copies = true ∧ Layout.bandTable copies = 0 ∧ Layout.fmt copies = 6 ∧ Layout.dims copies = 2) ∧
     ((s.curWarp.getK 23).toNat % 2 ^ 9 = 2 ∧ (s.curWarp.getK 23).toNat / 2 ^ 16 % 2 ^ 13 = 4096 ∧ (s.curWarp.getK 23).toNat / 2 ^ 29 = 0 ∧ (s.curWarp.getK 23).toNat / 2 ^ 9 % 2 ^ 7 = 0) ∧
     (0x1000 + (2 - 1) * 16384 + 4096 * 4 ≤ s.curWg.userBytes ∧ 0xFFF0 + 16 ≤ s.curWg.userBytes ∧ (s.tbar 0 0xFFF0).mark = 0xB7 ∧ (s.tbar 0 0xFFF0).valid = true) ∧
     ((s.curWg.shape 0).declared = true ∧ (s.curWg.shape 0).bound = true) ∧ 2 ≤ s.curWarp.width ∧
     accepts (s.acceptTile .tcopy tileArgs {} none) = true ∧ accepts (s.acceptTile .tcopy tileArgs { sh := true } none) = true ∧ accepts (s.acceptTile .tcopy tileArgs { sh := true, seq := true } none) = true ∧
     accepts (s.acceptTile .tstore tileArgs {} none) = true ∧ accepts (s.acceptTile .tgather tileArgs {} (some (s.laneRow 0x302 tileArgs .rows))) = true ∧
     accepts (s.acceptTile .tscatter tileArgs {} (some (s.laneRow 0x303 tileArgs .addr))) = true) ∧
    (let s := tiling 0x300 blocks 2 64 (BitVec.ofInt 32 (-32)) 3
     (s.layoutRecord (k 1) = .inl (blocks, 0x200) ∧ Layout.ok blocks = true ∧ Layout.bandTable blocks = 0 ∧ Layout.fmt blocks = 14) ∧
     (0x1000 + 2 * 64 + 2 * (64 / 32) ≤ s.curWg.userBytes ∧ 64 % 32 = 0 ∧ (s.curWarp.getK 22).toNat % 2 ^ 16 % 32 = 0 ∧ (s.curWarp.getK 18).toNat % 32 = 0) ∧
     accepts (s.acceptTile .tcopy tileArgs {} none) = true) := by and_intros <;> decide +kernel

/-- A TXFORM from HBM to the last bytes of the user area, and one whose source and destination meet; by routine 0 and by routine 63; a TCOLL of INT32 by a member that writes and one that does not. -/
def xforming (dst : Word) (n : Word) (spaces : Word) : State :=
  { withK (filling 0x304 1) [(16, 0x50000), (17, 0), (18, dst), (19, 0), (20, n), (21, n), (22, 0xFFF0), (23, spaces), (1, 63)] with routines := [(63, { valid := true, id := 0x200, ver := 1, bytes := [1] })] }
def colling (rank : Nat) : State :=
  ((withK (filling 0x306 1) [(18, 6), (19, 0), (20, 0), (21, 0), (22, BitVec.ofNat 32 (2 ^ 16 + 32)), (23, BitVec.ofNat 32 (1 + 32 * 2 ^ 16))]).updWg 0 fun g => { g with rank := rank })
def collArgs : Args := ar 8 .none (k 16) .none
theorem wit_CommandsAreAccepted_others : (let s := xforming 0xFFE0 16 0x20
     let b (i : Nat) : Word := s.curWarp.getK (16 + i)
     (s.uni (k 1)).toNat ≤ 63 ∧ (sget (fun _ => ({} : RoutineEntry)) s.routines 63).valid = true ∧ ((b 7).toNat / 128 = 0 ∧ (b 7).toNat / 8 % 2 = 0 ∧ (b 7).toNat % 8 = 0 ∧ (b 7).toNat / 16 % 8 = 2) ∧
       0xFFE0 + 16 ≤ s.curWg.userBytes ∧ (b 6).toNat % 16 = 0 ∧ accepts (s.acceptXform (ar 6 (k 1) (k 16) (k 16))) = true) ∧
    (let t := { xforming 0x50010 16 0 with routines := [(0, { valid := true })] }
     (t.uni (k 2)).toNat = 0 ∧ (sget (fun _ => ({} : RoutineEntry)) t.routines 0).valid = true ∧ accepts (t.acceptXform (ar 6 (k 2) (k 16) (k 16))) = true) ∧
    (0x50000 + 16 ≤ 0x50010 ∧ ¬(0x50000 + 16 ≤ 0x5000F)) ∧
    (let s := colling 0
     (s.curWarp.getK 18).toNat = 6 ∧ s.curWg.rank = 0 ∧ (colling 1).curWg.rank ≠ 0 ∧ 0x1000 + (1 - 1) * 128 + 32 * 4 ≤ s.curWg.userBytes ∧ accepts (s.acceptColl collArgs .sumi false) = true ∧
       accepts ((colling 1).acceptColl collArgs .sumi true) = true) := by and_intros <;> decide +kernel

/-- A TCOPY whose last write gives another checksum; a command that has failed, with and without its record; a write that its page does not permit; a command with an exact match in the queue. -/
def cmdCrc (want : Word) : Cmd := { cmd0 with kind := .tcopy, arrived := true, sectors := 1, crc := some want, todo := [puts 0xFFE0 2 true] }
theorem wit_CommandsRun_failures : (let s := holds 0x305 cmd0 1; s.engineStarts 0 = true ∧ cmd0.failed = false) ∧
    (let c := cmdCrc 0
     (holds 0x305 c 0).core 0 |>.cmds[0]? = some c) ∧ ((cmdCrc 0).counted.length < (cmdCrc 0).sectors ∧ ~~~(crcByte (cmdCrc 0).crcNow 7) ≠ 0) ∧
    (let r : TrapRec := { code := 0x81, kind := 1, slot := 1 }
     let s := (holds 0x305 { cmd0 with failed := true } 1).updCtx 0 fun c => { c with pending := [r] }
     (s.ctx 0).pending = [r] ∧ r.code = 0x81 ∧ r.engine = cmd0.engine ∧ r.slot.toNat % 2 ^ 64 = cmd0.number) ∧
    (let c := { cmd0 with kind := .txform, arrived := true, todo := [puts 0x50000 0 false] }
     let s := (holds 0x305 c 1).updCore 0 fun k => { k with tlb := [{ ctx := 0, va := 0, bits := 30, pte := 0x317 }] }
     s.translate 0 0 0x50000 .write = .fault { code := 0x23, addr := 0x50000, data := 2 + Access.write.bits * 16 } ∧ globalFault 0x50000 1 = none) ∧
    (let p (q : Nat) : Put := { row := 0, addr := 0x50000 + q, cell := .mem 2 q }
     let c := { cmd0 with kind := .tstore, todo := [{ space := 0, puts := [p 3, p 4] }] }
     let s := holds 0x305 c 1
     ((s.core 0).cmds[0]? = some c ∧ c.crc = none ∧ c.arrived = false ∧ c.suspended = false ∧ s.engineStarts 0 = true) ∧ 3 < (s.wg c.wg).userBytes ∧ 4 / 4 ≠ 3 / 4) := by and_intros <;> decide +kernel

/-- An image of four bytes of code and four of data; a routine of it at its start, one that has left its code, one that writes each field, one over its budget. -/
def rvImageOf (code budget : Nat) : List Byte :=
  toBytes 64 (0x6C2B + 2 ^ 16 + 0x200 * 2 ^ 32 + 1 * 2 ^ 64 + 4 * 2 ^ 96 + 4 * 2 ^ 128 + 0 * 2 ^ 160 + budget * 2 ^ 192 + 3284 * 2 ^ 224) ++ toBytes 64 code ++ toBytes 64 0x01020304
def rvImage (budget : Nat) : List Byte := rvImageOf 0x00000013 budget
def rv (f : Routine → Routine) : Routine := f ({ rout none with image := rvImage 100 } : Routine).start
def running (f : Routine → Routine) : State := holds 0x304 { cmd0 with kind := .txform, arrived := true, routine := some (rv f) } 1
def gave (off : Nat) (x : Word) : Routine → Routine := fun r => { r with filled := 4, window := [1, 2, 3, 4], committed := 12, acts := [.control off x] }
theorem wit_RoutineCommands_core : (let r := rv id
     (ofBytes (r.image.take 64) / 2 ^ 96 % 2 ^ 32 = 4 ∧ ofBytes (r.image.take 64) / 2 ^ 128 % 2 ^ 32 = 4 ∧ 64 + (4 + 63) / 64 * 64 + 4 ≤ r.image.length ∧ r.dataLen ≤ 0xF0000) ∧
     (r.cycles ≤ r.budget ∧ ¬(r.id = 0x101 ∧ r.ver = 1) ∧ r.waits = none ∧ r.acts = [] ∧ r.done = none ∧ r.fetch = some 0x13 ∧ r.partWord = [])) ∧
    (rv fun r => { r with rv := { r.rv with pc := 4 } }).fetch = none ∧ ¬(rv fun r => { r with cycles := r.budget + 1 }).cycles ≤ (rv fun r => { r with cycles := r.budget + 1 }).budget ∧
    (rv fun r => { r with acts := [.fault] }).acts.head? = some .fault ∧
    ((running id).core 0).cmds[0]? = some { cmd0 with kind := .txform, arrived := true, routine := some (rv id) } ∧
    (let r := rv (gave 0x30 4)
     r.acts = [.control 0x30 (BitVec.ofNat 32 4)] ∧ 4 ≤ r.filled - r.released ∧ (rv (gave 0x30 5)).acts = [.control 0x30 (BitVec.ofNat 32 5)] ∧ r.filled - r.released < 5) ∧
    (let r := rv (gave 0x3C 4)
     r.acts = [.control 0x3C (BitVec.ofNat 32 4)] ∧ r.committed + 4 ≤ r.dstLen ∧ r.dstLen < r.committed + 5 ∧ r.dst.1 = 0 ∧ (r.dst.2 + r.committed) % 4 = 0 ∧ 4 ≤ 65536) ∧
    ((rv (gave 0x34 9)).acts = [.control 0x34 (BitVec.ofNat 32 9)] ∧ (rv (gave 0x40 1)).acts = [.control 0x40 (BitVec.ofNat 32 1)]) ∧
    (running (gave 0x30 4)).engBytes 0 2 (0x200 + 4) 4 none = ((running (gave 0x30 4)), .inl [0, 0, 0, 0]) := by and_intros <;> decide +kernel

/-- A routine whose first instruction is `code`, with the registers `x`. -/
def rvOf (code : Nat) (x : List (Nat × DWord)) : Routine := let r := (({ rout none with image := rvImageOf code 100 } : Routine).start); { r with rv := { r.rv with x := x } }
/-- ecall, ebreak, c.ebreak and the undefined instruction of zeros; ADDI x31, x1, −1; SW of x2 to OUTCOMMIT; LW from the end of the data and from beyond it; SB into buffer 1. -/
theorem wit_RoutineCommands_instructions : (∀ i ∈ [0x73, 0x100073, 0x9002, 0], (rvOf i []).fetch = some (BitVec.ofNat 32 i)) ∧
    ((rvOf 0xFFF08F93 [(1, 7)]).fetch = some 0xFFF08F93 ∧ (0xFFF08F93 : Word).toNat = 0x13 + 31 * 2 ^ 7 + 1 * 2 ^ 15 + (0xFFF : BitVec 12).toNat * 2 ^ 20) ∧
    (let r := rvOf 0x0020A023 [(1, 0x20003C), (2, 4)]
     r.fetch = some 0x0020A023 ∧ (0x0020A023 : Word).toNat = 0x23 + 2 * 2 ^ 12 + 1 * 2 ^ 15 + 2 * 2 ^ 20 ∧ r.rv.getX 1 = 0x20003C ∧ r.dataLen ≤ 0xF0000) ∧
    (let l (a : DWord) : Routine := rvOf 0x0000A103 [(1, a)]
     let loads (a : DWord) : List Nat × Nat := rvLoads (l a).rv 0x0000A103 0
     (l 0x10000).fetch = some 0x0000A103 ∧ (loads 0x10000).2 ≤ ((l 0x10000).reads (loads 0x10000).1).length ∧ ((l 0x10004).reads (loads 0x10004).1).length < (loads 0x10004).2) ∧
    (let r := rvOf 0x00208023 [(1, 0x110000), (2, 4)]
     rvNext r.rv 0x00208023 [] 0 = some ({ r.rv with pc := 4 }, [(0x110000, 4)])) := by
  and_intros
  all_goals decide +kernel

/-- RISC-V instructions by hand: 7 / −2 and its remainder, c.addi16sp −64, 7 + 4-byte atomic on 0x7FFFFFFF. -/
theorem test_rv_integer : let c : RvCore := { pc := 0x100, x := [(1, 7), (2, 0xFFFFFFFFFFFFFFFE), (5, 16)] }
    let gives (i : Word) (bs : List Byte) (r : Nat) : Option DWord := (rvNext c i bs 0).map fun p => p.1.getX r
    gives 0x0220C233 [] 4 = some 0xFFFFFFFFFFFFFFFD ∧ gives 0x0220E233 [] 4 = some 1 ∧ gives 0x7139 [] 2 = some 0xFFFFFFFFFFFFFFBE ∧
      (rvNext c 0x0012A22F [0xFF, 0xFF, 0xFF, 0x7F] 0).map (·.2) = some [(16, 6), (17, 0), (18, 0), (19, 0x80)] ∧ gives 0xC0002273 [] 4 = none := by decide +kernel
/-- A vector of eight 64-bit indexes, multiplied by itself; √2 in FP64, which is inexact. -/
theorem test_rv_vector : let run (l : List Word) : RvCore := l.foldl (fun c i => ((rvNext c i [] 0).map (·.1)).getD {}) { f := [(2, 0x4000000000000000)] }
    (List.range 8).map (rvElem 64 ((run [0xCD847257, 0x5208A157, 0x96212357]).getV 6).toNat) = [0, 1, 4, 9, 16, 25, 36, 49] ∧
      (run [0x5A017253]).getF 4 = 0x3FF6A09E667F3BCD ∧ (run [0x5A017253]).fcsr = 1 := by decide +kernel

/-- A record whose read faults: one beyond the scratchpad. -/
theorem wit_ShapeRegisters_fault : (match ((recorded 0x310 8).readShape 2 0x10000).2 with | .stop _ (.fault _) => true | _ => false) = true ∧
    ((recorded 0x310 8).active 0x310 .always).getLsbD 0 = true := by and_intros <;> decide +kernel

/-- A chain with a spillway entry, read by MSTAT; an MREL.TB whose barrier lies at the end of the user area or beyond, with the array busy and free; a split that waits for one. -/
theorem wit_MatrixConfiguration_chain : (let s := withK ((chained (windows 0x388) (aChain true)).updCore 0 fun k => { k with spill := [(2047, 0x800001)] }) [(11, 0x17FF), (12, 0xFFF), (13, 0x1000)]
     s.acts 0x387 .always = true ∧ (s.core 0).chain = some (aChain true) ∧ ((s.uni (k 11)).toNat = 0x17FF ∧ (s.uni (k 12)).toNat = 0xFFF ∧ (s.uni (k 13)).toNat = 0x1000 ∧ (s.core 0).spill ≠ [])) ∧
    (let s := withK (barred 0x389 2) [(8, 0xFFF00000), (9, 0), (10, 0xFFF00000), (11, 1)]
     (s.uni64 (k 8)).toNat / 2 ^ 20 % 2 ^ 16 * 16 = 0xFFF0 ∧ 0xFFF0 + 16 ≤ s.curWg.userBytes ∧ s.curWg.userBytes < (s.uni64 (k 10)).toNat / 2 ^ 20 % 2 ^ 16 * 16 + 16 ∧
       ((s.tbar 0 0xFFF0).mark = 0xB7 ∧ (s.tbar 0 0xFFF0).valid = true ∧ (s.tbar 0 0xFFF0).pend = 2 ∧ (s.tbar 0 0xFFF0).phase = 3) ∧ s.arrayBusy 0 0 = false ∧ (chained s (aChain false)).arrayBusy 0 0 = true ∧
       (let t := waiting s (.mrel (ar 0 (k 8) .none .none) true) (.tb 0xFFF0 3)
        t.curSplit.live = true ∧ t.curSplit.st = .wait ∧ t.curSplit.wait = .tb 0xFFF0 3 ∧ t.curSplit.pend = some (.mrel (ar 0 (k 8) .none .none) true) ∧ t.frozen 0 0 0 = false ∧
          (waiting s (.mrel (ar 0 (k 8) .none .none) true) (.tb 0xFFF0 2)).curSplit.wait = .tb 0xFFF0 2)) := by and_intros <;> decide +kernel

/-- Tiles of INT8 and of BFP8 in slot 3, with a plane at the end of the user area. -/
def slotOf (fmt : Nat) : State := (tiled 0x380).updWg 0 fun g => { g with tiles := [(3, { fmt := fmt, bands := bandsOf fun _ => fmt, cols := 64, rows := 128 })] }
theorem wit_TileLoads_formats : (∀ f ∈ [1, 2, 4, 8, 14], let slot := sget (fun _ => ({} : TileSlot)) (slotOf f).curWg.tiles 3
      slot.fmt = f ∧ ∀ b, b < 8 → slot.bands.toNat / 2 ^ (4 * b) % 16 = slot.fmt) ∧
    (128 * ((64 + 63) / 64 * 64) ≤ (slotOf 4).curWg.userBytes ∧ 128 * ((64 / 32 * (4 * 8) + 63) / 64 * 64) + 128 * (64 / 32) ≤ (slotOf 14).curWg.userBytes) ∧
    (0xF800 % 8 = 0 ∧ 0xF800 + 8 * (128 * (1 + 1)) = (slotOf 4).curWg.userBytes) := by and_intros <;> decide +kernel

/-- A float chain and a BFP chain half-way, and an integer chain with a carry and no room for it, which traps or drains early; one with a spillway entry at its end. -/
def floats : MReg := { bands := 0, gen := 1, rows := [(0, { data := 0x3F803F803F803F80 })] }
def floatInstr : ArrayInstr := { pc := 0x40000, a := [floats], slot := { fmt := 0, bands := 0, cols := 64, rows := 128 }, steps := 32, done := 30, rows := 128, cols := 128 }
def floatChain : Chain := { wg := 0, warp := 0, path := .float, op := 0x381, cfg := 0x80010400, window := 2, todo := [floatInstr], steps := 30, pe := [(0, 1)] }
def bfps : MReg := { bands := 0xEEEE, gen := 1, rows := [(0, { data := 1, exp := 0x7F7F })] }
def bfpInstr : ArrayInstr := { pc := 0x40000, a := [bfps], slot := { fmt := 14, bands := 0xEEEEEEEE, cols := 64, rows := 128 }, steps := 2, done := 1, rows := 128, cols := 128 }
def bfpChain : Chain := { wg := 0, warp := 0, path := .bfp, op := 0x383, cfg := 0x80010400, window := 2, todo := [bfpInstr], steps := 1, pe := [] }
def spillChain (trap : Bool) : Chain :=
  { intChain 4 (2 ^ 17) with trapMode := trap, cfg := 0x00110400, todo := [{ intInstr 4 with rows := 1, cols := 1 }] }
def spilling (trap : Bool) : State :=
  (inArray (spillChain trap)).updCore 0 fun k => { k with spill := [(0, 0x800501)] }
def sumsOf (s : State) (c : Chain) : List (Nat × Int) := s.intSums c (c.todo.headD (intInstr 4)) (s.clockPositions c.wg (c.todo.headD (intInstr 4)))
theorem wit_ArrayRuns_paths : (let c := floatChain
     let i := floatInstr
     c.path = .float ∧ i.slot.fmt ≤ 1 ∧ (i.reg 0 0).band 0 = i.slot.fmt ∧ i.base + i.slot.rows * i.slot.pitch ≤ (st 0x384).curWg.userBytes ∧ i.kb + i.steps ≤ i.slot.cols ∧ i.done % 2 = 0 ∧ i.steps % 2 = 0 ∧
       i.done < i.steps ∧ (c.steps + 2) / cfgP c.cfg = c.steps / cfgP c.cfg ∧ i.image = none ∧ i.mods.sparse = false ∧ c.held = false ∧ (f26.value false (c.reg 0)).isNan = false) ∧
    (let c := bfpChain
     let i := bfpInstr
     c.path = .bfp ∧ i.slot.fmt ≤ 14 ∧ (let slab (r n : Nat) : MReg := i.a.getD (n + r / 128 * (i.mods.q.val + 1)) {}
      ∀ r, r < i.rows → 8 ≤ (slab r (i.done / 2)).band (r % 128 / 32) ∧ (slab r (i.done / 2)).band (r % 128 / 32) ≤ 14) ∧ (∀ j, 8 ≤ i.slot.rowBand j ∧ i.slot.rowBand j ≤ i.slot.fmt) ∧
       i.base + i.slot.footprint ≤ (st 0x384).curWg.userBytes ∧ i.kb / 32 + i.steps ≤ i.slot.cols / 32 ∧ (c.steps + 1) / cfgP c.cfg = c.steps / cfgP c.cfg) ∧
    (((spilling true).core 0).spill ≠ [] ∧ (spilling true).spillFits (spillChain true) (sumsOf (spilling true) (spillChain true)) = false) := by
  and_intros
  all_goals first | decide +kernel | skip
  intro j
  have h : ∀ b < 8, 8 ≤ bfpInstr.slot.band b ∧ bfpInstr.slot.band b ≤ bfpInstr.slot.fmt := by decide +kernel
  unfold TileSlot.rowBand
  split
  · exact h _ ‹_›
  · decide

/-- Pairs of 8-bit formats; an instruction under .SPARSE of which no element is mapped, so that its clock takes twice as many positions, and one whose first four are, so that it does not;
the first clock of a group. -/
def bytesInstr (fa fb : Nat) : ArrayInstr :=
  { intInstr 4 with a := [{ ones with bands := BitVec.ofNat 16 (fa * 0x1111) }], slot := { fmt := fb, bands := BitVec.ofNat 32 (fb * 0x11111111), cols := 64, rows := 128 } }
def sparseInstr (map : BitVec 64) : ArrayInstr :=
  { intInstr 0 with a := [{ ones with rows := [(0, { data := 0x01010101, map := map })] }], mods := { sparse := true } }
/-- Is the product of row `r`, tile row `j` and position `x` of it formed, of one that is mapped and not zero? -/
def formedAt (s : State) (i : ArrayInstr) (r j x : Nat) : Bool := ((i.reg r (x / 64)).row (r % 128)).map.getLsbD (x % 64) && (s.core 0).sp (j * i.slot.pitch + x) != 0
theorem wit_ArrayRuns_clocks :
    ((bytesInstr 2 3).reg 0 0).band 0 = 2 ∧ ((bytesInstr 3 2).reg 0 0).band 0 = 3 ∧ ((floatInstr.reg 0 0).band 0 = floatInstr.slot.fmt) ∧
    (let c := { intChain 0 0 with path := .float, op := 0x381, todo := [bytesInstr 2 3] }
     let i := bytesInstr 2 3
     ((inArray c).core 0).chain = some c ∧ i.done % 4 = 0 ∧ i.steps % 8 = 0 ∧ i.base + i.slot.rows * i.slot.pitch ≤ ((inArray c).wg 0).userBytes ∧ i.kb + i.steps ≤ i.slot.cols ∧ i.rows ≤ 256 ∧ i.image = none ∧
       (c.steps + 4) / cfgP c.cfg = c.steps / cfgP c.cfg ∧ i.mods.sparse = false) ∧
    (let i := sparseInstr 0
     let c := { intChain 0 0 with todo := [i], steps := 0 }
     ((inArray c).core 0).chain = some c ∧ i.done % 8 = 0 ∧ i.steps % 8 = 0 ∧ i.mods.sparse = true ∧ i.mods.p = false ∧ (i.reg 0 0).band 0 = 4 ∧ (c.steps + 8) / cfgD c.cfg = c.steps / cfgD c.cfg) ∧
    (∀ s r j x, formedAt s (sparseInstr 0) r j x = false) ∧
    (let i := sparseInstr 0xF
     ((List.range 4).filter fun y => formedAt (inArray (intChain 0 0)) i 0 0 y).length = 4 ∧ i.mods.sparse = true ∧ i.done % 4 = 0) ∧
    (let i := intInstr 0
     let c := { intChain 0 0 with todo := [i], steps := 0, mods := { grouped := true } }
     let s := inArray c
     c.mods.grouped = true ∧ c.steps % cfgD c.cfg = 0 ∧ (c.steps + 4) / cfgD c.cfg = c.steps / cfgD c.cfg ∧ s.spillFits c (s.intSums c i (s.clockPositions c.wg i)) = true) := by
  and_intros
  all_goals first | decide +kernel | skip
  intro s r j x
  have h : ((sparseInstr 0).reg r (x / 64)).row (r % 128) = { data := 0x01010101, map := 0 } ∨ ((sparseInstr 0).reg r (x / 64)).row (r % 128) = {} := by
    have hr : (sparseInstr 0).reg r (x / 64) = { ones with rows := [(0, { data := 0x01010101, map := 0 })] } ∨ (sparseInstr 0).reg r (x / 64) = {} := by
      unfold ArrayInstr.reg
      cases x / 64 + r / 128 * (sparseInstr 0).q with
      | zero => exact .inl rfl
      | succ n => exact .inr rfl
    rcases hr with hr | hr <;> rw [hr]
    · cases r % 128 with
      | zero => exact .inl rfl
      | succ n => exact .inr rfl
    · exact .inr rfl
  unfold formedAt
  rcases h with h | h <;> rw [h] <;> simp
/-- Queues behind held chains, of a pair and of one core; the end of a chain whose masked outputs take their value, and of an instruction that another follows or may follow; an MDRAIN of a chain. -/
theorem wit_ArrayRuns_ends : (let pre := [{ intChain 0 0 with held := true, warp := 1 }]
     let c := { intChain 0 0 with mods := { p := true } }
     let s := (st 0x382).updCore 0 fun k => { k with queue := pre ++ [c] }
     (s.core 0).queue = pre ++ c :: [] ∧ (∀ d ∈ pre, d.held = true) ∧ c.held = false ∧ (s.core 0).chain = none ∧ (s.core 0).lent = false ∧ (s.core 1).chain = none ∧
       ((s.updCore 1 fun k => { k with chain := some (intChain 0 0) }).core 1).chain ≠ none) ∧
    (∀ m ∈ [0, 2], let c := { intChain 8 5 with maskv := m, masked := [1, 16383] }
     ((inArray c).core 0).chain = some c ∧ c.todo = [intInstr 8] ∧ (intInstr 8).done = (intInstr 8).steps ∧ (∀ key ∈ c.masked, key < 16384) ∧ c.maskv ≠ 1 ∧ c.maskv ≤ 2 ∧ c.suspended = false ∧
       c.held = false ∧ (intInstr 8).waits = false ∧ c.openMore = false ∧ (c.pe.map (·.1)).Nodup) ∧
    (let i := { intInstr 8 with waits := true }
     let c := { intChain 8 5 with todo := [i, intInstr 0], flags := 5 }
     let s := waiting (inArray c) (.mmai arrayArgs { trap := true }) .perform
     (s.core 0).chain = some c ∧ c.todo = i :: [intInstr 0] ∧ i.done = i.steps ∧ s.curSplit.live = true ∧ s.curSplit.st = .wait ∧ s.curSplit.wait = .perform) ∧
    (let c := { intChain 8 5 with openMore := true }
     ((inArray c).core 0).chain = some c ∧ c.todo = intInstr 8 :: [] ∧ c.openMore = true) ∧
    (let c := { intChain 8 5 with todo := [] }
     (inArray c).arrayRuns 0 0 = false ∧ (inArray c).acts 0x384 .always = true ∧ ((inArray c).core 0).chain = some c ∧ (inArray c).cur.wg = c.wg ∧ (inArray c).cur.warp = c.warp) := by and_intros <;> decide +kernel

/-- A store of the split that lies just before its barrier, and one of another split on it. -/
theorem wit_WaitAndYield_quiet : let s := leaves (barred 11 1) [lateAt 0 (.sp 0 ((st 11).curWg.user + 0xFFEF)), lateAt 1 (.sp 0 ((st 11).curWg.user + 0xFFF0))]
    (∀ e ∈ (s.core 0).late, e.isBefore 0 0 0 = true → e.place.meets e.bytes.length (.sp 0 (s.curWg.user + 0xFFF0)) 16 = false) ∧ (s.core 0).late ≠ [] ∧ s.acts 0x00B .always = true ∧
      ((s.tbar 0 0xFFF0).mark = 0xB7 ∧ (s.tbar 0 0xFFF0).valid = true ∧ (s.tbar 0 0xFFF0).phase = 3) := by and_intros <;> decide +kernel

/-- A TCANCEL beside a command whose check has failed, and without one; a line that a store's write-back holds, and one that none does; lane 16 as the first of a copy warp that acts. -/
theorem wit_Commands_cancelAndHeld : (let s := holds 0x305 { cmd0 with failed := true } 1
     let n := (s.uni64 (k 1)).toNat
     let named (c : Cmd) : Bool := c.wg == s.cur.wg && c.kind != .tcoll && decide (n ≤ c.number)
     s.acts 0x305 .always = true ∧ ((s.core 0).cmds.any fun c => named c && c.failed) = true ∧ (((holds 0x305 cmd0 1).core 0).cmds.any fun c => named c && c.failed) = false ∧
       (∀ c ∈ (s.core 0).cmds, ∀ d ∈ (s.core 0).cmds, c.number = d.number → c = d)) ∧
    ((windowed 1).isHeld 0xA00 = true ∧ (windowed 1).isHeld 0xA01 = false ∧ ({ cmd0 with kind := .tstore, arrived := true, heldBack := [0xA00] } : Cmd).heldBack = [0xA00]) ∧
    (let s := masked (filling 0x305 0) 0xC000
     trapsOn (s.acceptFill fillArgs) = true ∧ (s.active 0x305 .always).getLsbD 14 = true ∧ ∀ j < 14, (s.active 0x305 .always).getLsbD j = false) := by and_intros <;> decide +kernel

/-! Events of the debug unit, of walks, rings, clusters, packets, contexts, registers and the fleet. -/

/-- A due slot of port 0 that was charged to split 0, with the second pick of its pair open or not; split 0 at the breakpoints' PC with its line in hand, one of which the port's records. -/
def samplingSplit (ctl : Word) : State :=
  withDebug (sampling 63) fun d => { d with trctl := ctl, slots := [(0, { who := some (0, 0, 0), due := true, pair := ctl.getLsbD 7 })] }
def brokenAt (act : Nat) : State := atLine (broken act)
theorem wit_IssueEvents_more : (((samplingSplit 0x80000020).portSlot 0 0).who = some (0, 0, 0) ∧ ((samplingSplit 0x80000020).portSlot 0 0).due = true ∧ (samplingSplit 0x80000020).pairOpen 0 0 = false ∧
      (samplingSplit 0x800000A0).pairOpen 0 0 = true ∧ (0x80000120 : Word).toNat / 256 % 256 ≠ ((st 0).wg 0).ctx ∧ (0x80000020 : Word).toNat / 256 % 256 = ((st 0).wg 0).ctx ∧
      (0x800000A0 : Word).getLsbD 7 = true) ∧
    ((brokenAt 0).curSplit.loaded.isSome = true ∧ (brokenAt 0).curSplit.replay = false ∧ (brokenAt 0).curSplit.pass = false ∧ bpHits (brokenAt 3) 3 = true ∧ (∀ b, b < 8 → b ≠ 3 → bpHits (brokenAt 3) b = false) ∧
      (match (brokenAt 0).curSplit.loaded with | some l => Line.badStripes l == 0 && !Line.illegal l && !Line.lit l (PC.slot (brokenAt 0).curSplit.pc) | none => false) = true ∧
      (∀ a, a < 4 → (sget (fun _ => 0) ((brokenAt a).core 0).dbg.bpcfg 3).toNat / 2 ^ 29 % 4 = a) ∧ (broken 0).curSplit.loaded = none) ∧
    (256 ≤ (withSplit (st 0) fun x => { x with waited := 256 }).curSplit.waited ∧ ¬256 ≤ (withSplit (st 0) fun x => { x with waited := 255 }).curSplit.waited ∧ ((st 0).wg 1).live = false) := by
  and_intros <;> decide +kernel

/-- The walk of a page is alone in the table; nothing of the array comes before its trap; the host writes a line that has no key. -/
theorem wit_MemoryEvents_more : (let s := walking 0x3FFFFFF8 .write
     let same (y : Walk) : Bool := y.ctx == 0 && y.die == 0 && y.va / 2 ^ 30 == 0x3FFFFFF8 / 2 ^ 30
     ((s.walks.filter same).flatMap (·.who)).map (·.va) = [0x3FFFFFF8] ∧ (s.walks.filter same).flatMap (·.ports) = [] ∧ s.frozen 0 0 0 = false ∧ 0x3FFFFFF8 % 2 ^ 57 / 2 ^ 30 = 0x3FFFFFF8 / 2 ^ 30 ∧ s.arrayBefore 0 0 = false) ∧
    ((readOnly (walking 8 .write)).arrayBefore 0 0 = false ∧ (readOnly (walking 8 .write)).frozen 0 0 0 = false ∧ (walking 0 .read).frozen 0 0 0 = false ∧ (walking 0x40000000 .read).frozen 0 0 0 = false ∧
      ((windowed 1).inDedupArea (0xA00 * 128) = false ∧ 0xA00 * 128 / 128 ∈ ((windowed 1).dd 0).heldLines ∧ 0xA01 * 128 / 128 ∉ ((windowed 1).dd 0).heldLines ∧ 0xA01 ∉ ((windowed 1).dd 1).heldLines) ∧ (st 0).hbmKey ((Config.hbmBytes - 1) / 128) = none ∧ (st 0).hbmKey 0 = none ∧
      (sget (fun _ => ({} : LineCopy)) ((st 0).core 0).copies 0).live = false) := by and_intros <;> decide +kernel
theorem wit_MemoryEvents_windows : (st 0).NoWindows ∧ (ringed 63 0x82).NoWindows ∧ (samplingSplit 0x80000020).NoWindows :=
  ⟨fun _ => by rfl, fun _ => by rfl, fun _ => by rfl⟩

/-- A ring's vector, masked as at reset and unmasked. -/
theorem wit_TrapRings_vectors : ((st 0).msixEntry 2047).getLsbD 96 = true ∧ (({ st 0 with msixTable := [(2047, 0)] } : State).msixEntry 2047).getLsbD 96 = false ∧
    ((aSplit.ctx 0).held.filter fun p => p.1 != (aSplit.ctx 0).wgarg.toNat) = [] := by and_intros <;> decide +kernel

/-- A maximum whose target has come to lie in host memory. -/
def aMax : Packet := { type := 3, number := 1, words := BitVec.ofNat 512 (3 + 0x40000000 * 2 ^ 64 + 9 * 2 ^ 128 + 2 * 2 ^ 192) }
def engAt (s : State) (va : Nat) : Option Nat := match s.engXlat none 0 va .atomic none with | (_, _, .ok pa _) => some pa | _ => none
theorem wit_Packets_max : let s := hosted (going aMax)
    (s.queue 5).packets.find? (fun k => k.type == 3 && k.progress == 0 && !k.suspended && !k.cancelled) = some aMax ∧ aMax.words.toNat / 2 ^ 192 % 2 ^ 2 = 2 ∧
      (engAt s 0x40000000).map isHost = some true := by and_intros <;> decide +kernel

/-- No permit is being applied; contexts and queues at the ends of their numbers; addresses that no access reaches. -/
theorem wit_ContextsAndQueues_more : (owned (st 0)).fleet.pmtCmd.getLsbD 31 = false ∧ ({ owned (st 0) with fleet := { (owned (st 0)).fleet with pmtCmd := 0x80000000 } } : State).fleet.pmtCmd.getLsbD 31 = true ∧
    (255 < 256 ∧ 4095 < 4096 ∧ 2047 < 2048) ∧ (barMapped 0x14 = false ∧ barMapped (8 + 4) = true ∧ barMapped (0x2000 + 16 * 2047) = true) ∧ (owned (st 0)).fleet.recovery = 0 := by
  and_intros <;> decide +kernel

/-- Routine 63 and the first number beyond it. -/
theorem wit_DeviceRegisters_more : (0 < 63 ∧ 63 < 64) ∧ ((deduped 1 0x3BE00000 1).dd 0).pool.toNat = 1 ∧ (deduped 1 0x3BE00000 1).owns .host = true ∧
    ((2097152 / 144 : DWord).toNat < 2 ^ 32 ∧ 1 < (2097152 / 144 : DWord).toNat) := by and_intros <;> decide +kernel

/-- A warp that DBGTGT names is absent; the scopes of a hold; kinds that need no warp. -/
theorem wit_DebugCommands_more : (let s := debugging 0xF { tgt := 0x100 }
     s.dbgTarget 0 = some 0 ∧ (s.wg 0).core = 0 ∧ (0x100 : DWord).toNat / 2 ^ 8 % 2 ^ 7 = 1 ∧ (s.warp 0 1).live = false ∧ (0x100 : DWord).toNat / 4 % 4 < 2) ∧
    ((debugging 0xF { tgt := 8 }).dbgTarget 0 = some 0 ∧ (8 : DWord).toNat / 4 % 4 = 2 ∧ (12 : DWord).toNat / 4 % 4 = 3 ∧ ((debugging 0xF {}).warp 0 0).live = true ∧
      (∃ z ∈ ((debugging 0xF {}).wg 0).warps, z.1 = 0)) ∧
    (0x7000003F : Word).toNat / 2 ^ 28 < 8 := by and_intros <;> decide +kernel

/-- No permit in progress and one; power at the limit and above; a device whose only context has room for one more record. -/
def oneContext : State := (ringed 63 0x82).updCtx 0 fun c => { c with pending := [] }
theorem wit_FleetOperation_more : ((owned (st 0)).fleet.permit = none ∧ (owned (st 0)).fleet.pmtCmd.getLsbD 31 = false) ∧
    ((st 0).fleet.pwrlim.toNat < 1801 ∧ 1800 ≤ (st 0).fleet.pwrlim.toNat) ∧
    (oneContext.ctxs.map (·.1) = [0] ∧ (oneContext.ctx 0).created = true ∧ (oneContext.ctx 0).pending = [] ∧ ((oneContext.ctx 0).rprod - (oneContext.ctx 0).rcons).toNat < 2 ^ ((oneContext.ctx 0).ringSize + 6) ∧
      (oneContext.ctx 0).ring + 64 * 63 + 64 ≤ Config.hbmBytes ∧ oneContext.meetsArea ((oneContext.ctx 0).ring + 64 * 63) 64 = false) ∧
    ((0 : Nat) < 7 ∧ (10 : Nat) < 11 ∧ isHbm ((Config.hbmBytes / 128 - 1) * 128) = true) ∧
    (({ st 0 with fleet := { (st 0).fleet with stations := 1, owner := some .fabric } } : State).fleet.stations - 1 = 0) := by and_intros <;> decide +kernel

/-- A late store to be performed, a stopped device with a reset, nothing that waits. -/
def acting (a : Action) : State := { st 0 with agenda := [a] }
theorem wit_StepRunsDecoded_more : ((leaves (acting (.perform 0 0)) [lateAt 0 (.sp 0 5)]).agenda = [.perform 0 0] ∧ ((leaves (acting (.perform 0 0)) [lateAt 0 (.sp 0 5)]).core 0).late = [lateAt 0 (.sp 0 5)]) ∧
    (({ acting (.event .deviceReset) with fleet := { (st 0).fleet with stopped := true } } : State).fleet.stopped = true) ∧ isAgentEvent .deviceReset = true ∧
    ((∀ p ∈ (acting (.reach 0)).wgs, ∀ q ∈ p.2.warps, ∀ r ∈ q.2.splits, r.2.stopRec = none ∧ r.2.st ≠ .wait) ∧ (∀ q ∈ (acting (.reach 0)).queues, q.2.fwait = false) ∧ (acting (.reach 0)).noted = []) ∧ ((acting (.engineHold 0 0xA00)).agenda = [.engineHold 0 0xA00] ∧ isCached (0xA00 * 128) = true) ∧
    (let s : State := { acting (.reachLine 0 0xA00) with behind := [{ die := 1, core := 0, addr := 0x50000, byte := 7 }, { die := 1, core := 1, addr := 0x50080, byte := 7 }] }
     s.agenda = [.reachLine 0 0xA00] ∧ (s.behind.map fun b => (b.core, b.addr / 128)) = [(0, 0xA00), (1, 0xA01)]) ∧
    ((∀ p, ((st 0).portSlot 0 p).due = false) ∧ (st 0).curSplit.holdNext ≠ some 16) ∧
    (match (atLine (st 0)).curSplit.line with | some (a, l) => a == PC.line (st 0).curSplit.pc && !Line.lit l (PC.slot (st 0).curSplit.pc) && !Line.illegal l && Line.badStripes l == 0 | none => false) = true := by
  and_intros
  all_goals first | decide +kernel | exact fun _ => rfl

/-! ### Encoding, the step, invariants -/

theorem wit_DecodeEncode : (Instr.loop (ar 0 t0 (.imm 9) .none)).wellFormed (.forOp 0x008) = true ∧ (Instr.kadd (ar 63 (k 1) (bk 15 0x3FFF) .none)).wellFormed (.forOp 0x080) = true := by decide +kernel

/-- The next step fetches KADD k4, k1, 0x8. -/
def stepping : State := let s := State.reset.withFetchWord 96 (row 0x080 4 (fK 1) (fI 2) 0 0).toNat; { s with fleet := { s.fleet with flash := [] } }
def stepsTo (s : State) (f : State → Bool) : Bool := match step s with | .next t => f t | _ => false
theorem wit_StepRunsDecoded : let s := stepping
    let s0 : State := { s with tick := s.tick + 1, agenda := [] }
    let sx : State := { s0 with cur := { wg := 0, warp := 0, split := 0, prio := s0.effPrio 0 0 0 } }
    let sy := sx.updCur fun y => { y with seq := false }
    s.fleet.stopped = false ∧ s.agenda = .pick 0 0 :: [] ∧ s0.pick 0 0 = some (0, 0, 0) ∧ s.curSplit.seq = false ∧ PC.named s.curSplit.pc = true ∧ s.curSplit.line = none ∧
    (match sy.translateNow 0 0x40000 .fetch with
      | (u, .ok pa attr) =>
        let l := BitVec.ofNat 512 (ofBytes ((List.range 64).map fun i => u.homeByte attr.key (pa + i)))
        let s1 := (u.cross attr.compress (pa / 128) (u.slicePlain (pa / 128))).updCur fun y => { y with line := some (0x40000, l) }
        (List.range 8).all (fun j => Line.stripe l j == l.getLsbD j) && !Line.illegal l && !Line.lit l 0 && s1.breakpointsAt 0 0 0 == [] && s1.curSplit.st == .run && !s1.curSplit.seq && s1.curSplit.pc == 0x40000 && s1.curSplit.defer.isEmpty &&
          decode (s1.decodeCtx 0 0 0) (Line.slot l 0) (Line.carrier l 0) == .ok (.kadd (ar 4 (k 1) (im 2) .none)) && (s1.nextConflicts 0 0 0).isEmpty && s1.cur == sx.cur
      | _ => false) = true ∧
    isAgentEvent .deviceReset = true := by decide +kernel
theorem wit_StepKeepsMemoryCanonical : Mem.wf stepping.mem = true ∧ stepsTo stepping (fun _ => true) = true := by decide +kernel

/-! ## Worked examples of the spec -/

/-- A step runs the instruction that `withFetchWord` placed, KADD k4, k1, 8, and goes on past its carrier. -/
theorem test_step_runs_word : stepsTo stepping (fun t => (t.warp 0 0).getK 4 == 8 && (t.split 0 0 0).pc == 0x40002) = true := by decide +kernel
/-- What an instruction gives in a state. -/
def gives (o : Out) (f : State → Bool) : Bool := match o with | .next t => f t | _ => false
def withV (s : State) (n : Nat) (l : List Word) : State := s.updWarp 0 0 fun w => (l.zipIdx).foldl (fun w p => w.setV p.2 n p.1) w
def column (t : State) (n m : Nat) : List Word := (List.range m).map fun l => t.curWarp.getV l n

/-- The example after R223: 6.0, −1.25 and 0.1 as a BFP4 group. -/
theorem test_bfpack : gives (execBfpack (ar 4 (v 1) .none .none) .m4 false false .rne (withV (st 0x18D) 1 ([0x40C00000, 0xBFA00000, 0x3DCCCCCD] ++ List.replicate 29 0))) (fun t =>
    column t 4 4 == [6, 0xFFFFFFFF, 0, 0] && column t 5 3 == [0x7F, 0x7F, 0x7F]) = true := by decide +kernel
theorem test_bfunpack : gives (execBfunpack (ar 4 (v 1) (v 2) .none) .m4 false .rne (withV (withV (st 0x18E) 1 [6, 0xFFFFFFFF, 0]) 2 [0x7F, 0x7F, 0x7F])) (fun t =>
    column t 4 3 == [0x40C00000, 0xBF800000, 0]) = true := by decide +kernel
/-- The example of IDP4.SAT: (127, 127), (127, 127), (−128, 127), (−128, 127) onto 0x7FFFFF00. -/
theorem test_idp4_sat : gives (execIdp4 (ar 4 (v 1) (v 2) (v 3)) false false true (withV (withV (withV (st 0x118) 1 [0x80807F7F]) 2 [0x7F7F7F7F]) 3 [0x7FFFFF00])) (fun t =>
    column t 4 1 == [0x7FFFFE02] && !t.curWarp.flags.getLsbD 2) = true := by decide +kernel
/-- The words of the example of SEGSCAN, and its table. -/
theorem test_segscan_words : reads [((0x85381800 : Word) ++ (0x010C0040 : Word) ++ (0x40008000 : Word), .segscan (ar 6 (v 4) (ob 0x10) (k 2)) (.add false))] = true := by decide +kernel
def segState (op : Nat) : State := withV (shaped op 0) 4 ([3, 1, 4, 1, 5, 9, 2, 6] ++ List.replicate 24 7)
theorem test_segscan : gives (execSegscan (ar 6 (v 4) (ob 0x10) (k 2)) (.add false) (segState 0x214)) (fun t =>
    column t 6 10 == [3, 4, 8, 9, 14, 9, 11, 17, 0, 0] && !t.curWarp.flags.getLsbD 4) = true := by decide +kernel
theorem test_segred : gives (execSegred (ar 6 (v 4) (ob 0x10) (k 2)) (.add false) (segState 0x215)) (fun t => column t 6 4 == [14, 0, 17, 0]) &&
    gives (execSegred (ar 6 (v 4) (ob 0x10) (k 2)) .max (segState 0x215)) (fun t => column t 6 4 == [5, 0x80000000, 9, 0x80000000]) = true := by decide +kernel
/-- R259: a barrier initialised with count 2. -/
theorem test_tfill_tb : gives (execTfillTb (ar 0 (k 5) (k 9) .none) (withK (st 0x305) [(5, 0x100), (9, 2)])) (fun t =>
      ofBytes ((t.core 0).spRead (t.curWg.user + 0x100) 8) == 0x02000210 && ofBytes ((t.core 0).spRead (t.curWg.user + 0x108) 8) == 0xB700) = true := by decide +kernel
/-- The walk of the example after R60, and the physical address that it gives. -/
def walkState : State :=
  ([(0x100000, 0x101001), (0x101000, 0x102001), (0x102800, 0x103001), (0x103000, 0x104001), (0x104008, 0x2345000F)] : List (Nat × Nat)).foldl
    (fun s p => s.setMemBytes p.1 (toBytes 8 p.2)) { (State.reset).updCtx 0 fun c => { c with created := true, ptroot := 0x100000 } with fleet := { State.reset.fleet with flash := [] } }
theorem test_walk : walkState.walk 0 0x4000012340 = .leaf 0x2345000F 0x104008 0 16 ∧ physOf 0x2345000F 16 0x4000012340 = 0x23452340 ∧
    ofBytes ((walkState.markLeaf 0x104008 0x2345000F false).1.homeRead none 0x104008 8) = 0x2345010F := by decide +kernel
/-- The example after R111: the first two promotions of 2^−20 onto 256, and the one that brings the tail to 2^−16. -/
theorem test_promotion : (promote 0x43800000 0xD60000).1 = 0x3580000043800000 ∧ (promote 0x3580000043800000 0xD60000).1 = 0x3600000043800000 ∧
    (promote 0x3770000043800000 0xD60000).1 = 0x3780000043800000 := by decide +kernel
/-- The example after R116: three clocks of four products of 127 × 127. -/
theorem test_pe_wrap : (let c : Chain := { wg := 0, warp := 0, pe := [(0, 129033)] }
    (signedBits (c.carry 0 64516).1 0 18, (c.carry 0 64516).2)) = (-68596, 1) := by decide +kernel
/-- The record of the example after R390, but for its time. -/
theorem test_trap_record : let r : TrapRec :=
      { code := 0x12, kind := 0, held := true, warp := 2, core := 6, ctx := 2, mask := 0xFFFF, pc := 0x4000500143, addr := 0x4000500101,
        slot := (0x007801FF : Word) ++ (0xFF800000 : Word) ++ (0x00001000 : Word) }
    (List.range 16).map (wordAt (r.bits 0)) =
    [0x12, 0x020C0202, 0, 0, 0, 0xFFFF, 0, 0x00500143, 0x40, 0, 0, 0x00500101, 0x40, 0x00001000, 0xFF800000, 0x007801FF] := by decide +kernel

end Sys2Proof.Tests
end

section
/-! PROOFS. The reset state (R7 and the reset columns), and totality (R5). -/
namespace Sys2Proof.Machine

/-! ## Reset -/

/-- The routine table after reset holds the plain copy, routine 0, and no other (R260, R392). -/
theorem reset_routine_valid (n : Nat) :
    (sget (fun _ => ({} : RoutineEntry)) State.reset.routines n).valid = decide (n = 0) := by
  by_cases h : n = 0
  · subst h; rfl
  · simp [State.reset, sget, h, Ne.symm h]

/-- A queue after reset is disabled (QCFG reads 0x100, R357). -/
theorem default_queue_disabled : ({} : Queue).enabled = false := by decide

/-- Settles O58: every field of the reset state is its default, so each part that is read by number is the default part. -/
theorem resetState : Obligations.ResetState := by
  unfold Obligations.ResetState
  exact ⟨memWf_reset, rfl, rfl, rfl, rfl, rfl, rfl, fun _ => ⟨rfl, rfl, rfl⟩,
    fun _ => ⟨rfl, default_queue_disabled, rfl, rfl, rfl⟩, fun _ => rfl, fun _ => rfl, reset_routine_valid,
    rfl, rfl, rfl, rfl, rfl, rfl, rfl, fun _ => ⟨rfl, rfl, rfl, rfl⟩⟩

/-! ## Totality (R5): every instruction, event and step answers a next state -/

theorem Out.completes_next (t : State) : Out.completes (.next t) := ⟨t, rfl⟩

/-- Every instruction and event answers a next state: each leaf of its tests is one. -/
theorem exec_completes (i : Instr) (s : State) : Out.completes (exec i s) := by
  cases i with
  -- Control flow, waits and barriers.
  | exit | join | loop | brk | elect | poll | trap | trapfence | barInit | barWait | barMask | qinit | qpush | qpop | qtry | phaseRel |
    phaseAcq | fence | tlsig | tlwait | s2k | k2s | setmode =>
    simp only [exec, execExit, execJoin, execLoop, execBrk, execElect, execPoll, execTrap, execTrapfence, execBarInit, execBarWait,
      execBarMask, execQinit, execQpush, execQpop, execQtry, execPhaseRel, execPhaseAcq, execFence, execTlsig, execTlwait, execS2k, execK2s,
      execSetmode]
    (repeat' split) <;> exact Out.completes_next _
  -- The privileged instructions.
  | wstat | wregR | wregW | wresume | wkill | eret | tlbinvPage | tlbinvAll | emuargs | emuargsW =>
    simp only [exec, execWstat, execWregR, execWregW, execWresume, execWkill, execEret, execTlbinvPage, execTlbinvAll, execEmuargs,
      execEmuargsW]
    (repeat' split) <;> exact Out.completes_next _
  -- Memory, shapes, the matrix unit and copies.
  | kldGlobal | kldBank | ldc | lda | sta | ldseq | cctlEvictall | tfillTb | tfillTbinv | tcancel | shld | shsync | shinfo | mld | mdrain |
    mcfg | mstat | mrel =>
    simp only [exec, execKldGlobal, execKldBank, execLdc, execLda, execSta, execLdseq, execCctlEvictall, execTfillTb, execTfillTbinv,
      execTcancel, execShld, execShsync, execShinfo, execMld, execMdrain, execMcfg, execMstat, execMrel]
    (repeat' split) <;> exact Out.completes_next _
  -- Ends of waits and of walks.
  | clusterBarrierConversion | joinRelease | agingStep | lineFetchComplete | resultDelivery | waitWake | tlwaitWake | releaseCompletion |
    pageWalkComplete | tlbInvalidationComplete | handlerEntry | breakpointMatch | issueSlot =>
    simp only [exec, execClusterBarrierConversion, execJoinRelease, execAgingStep, execLineFetchComplete, execResultDelivery, execWaitWake,
      execTlwaitWake, execReleaseCompletion, execPageWalkComplete, execTlbInvalidationComplete, execHandlerEntry, execBreakpointMatch,
      execIssueSlot]
    (repeat' split) <;> exact Out.completes_next _
  -- Engines, arrays and routines.
  | engineGlobalWrite | copyQueueRoom | arrayGrant | arrayClock | arrayRetire | commandArrival | commandCompletion | collectiveCompletion |
    sourceFill | routineInrel | routineInwait | routineOutcommit | routineDone | routineFault | routineBudgetExpiry =>
    simp only [exec, execEngineGlobalWrite, execCopyQueueRoom, execArrayGrant, execArrayClock, execArrayRetire, execCommandArrival,
      execCommandCompletion, execCollectiveCompletion, execSourceFill, execRoutineInrel, execRoutineInwait, execRoutineOutcommit,
      execRoutineDone, execRoutineFault, execRoutineBudgetExpiry]
    (repeat' split) <;> exact Out.completes_next _
  -- Launcher, queues and clusters.
  | clusterExitBarrier | clusterAdmission | preemption | readmissionLimitExpiry | contextSave | contextRestore | signalAtomic |
    packetCompletion | doorbell | qcfgWrite | qstatStopClear =>
    simp only [exec, execClusterExitBarrier, execClusterAdmission, execPreemption, execReadmissionLimitExpiry, execContextSave,
      execContextRestore, execSignalAtomic, execPacketCompletion, execDoorbell, execQcfgWrite, execQstatStopClear]
    (repeat' split) <;> exact Out.completes_next _
  -- Registers and outside accesses.
  | registerWrite | hostHbmAccess | rconsWrite | ddctlEnable | ddctlDisable | ddpoolWrite | trctlWrite | rcvcmdVerifyWrite | attcmdReport |
    keycmdLoad | pmtcmdAdvance | uncorrectableDataError | hostWindowAccess | peerAccess =>
    simp only [exec, execRegisterWrite, execHostHbmAccess, execRconsWrite, execDdctlEnable, execDdctlDisable, execDdpoolWrite,
      execTrctlWrite, execRcvcmdVerifyWrite, execAttcmdReport, execKeycmdLoad, execPmtcmdAdvance, execUncorrectableDataError,
      execHostWindowAccess, execPeerAccess]
    (repeat' split) <;> exact Out.completes_next _
  -- Every other meaning is a next state as it stands.
  | _ => exact Out.completes_next _

/-- An issue answers a next state: the instruction does, and so do a port without a split, a trap at issue and a breakpoint. -/
theorem issueFrom_completes (s : State) (core port : Nat) : Out.completes (s.issueFrom core port) := by
  unfold State.issueFrom
  split
  · exact exec_completes _ s
  · split
    · exact Out.completes_next _
    · rename_i s1 i _
      obtain ⟨t, ht⟩ := exec_completes i s1
      rw [ht]
      exact Out.completes_next _

/-- The default schedule answers a next state: it issues, lets an event occur or lets a nanosecond pass. -/
theorem defaultStep_completes (s : State) : Out.completes s.defaultStep := by
  unfold State.defaultStep
  simp only
  split
  · split
    · exact issueFrom_completes _ _ _
    · split
      · exact Out.completes_next _
      · exact issueFrom_completes _ _ _
  · exact Out.completes_next _

/-- An action answers a next state. -/
theorem act_completes (s : State) (a : Action) : Out.completes (s.act a) := by
  unfold State.act
  split
  · exact Out.completes_next _
  · cases a with
    | pick core port => exact issueFrom_completes s core port
    | event i =>
      simp only
      split
      · exact exec_completes i s
      · exact Out.completes_next _
    | _ => exact Out.completes_next _

/-- A step answers a next state: what follows every act is added to the next state that the act answers. -/
theorem step_completes (s : State) : Out.completes (step s) := by
  unfold step State.run
  extract_lets u out
  have answered : out.completes := by
    unfold out
    split
    · exact act_completes _ _
    · split
      · exact Out.completes_next _
      · exact defaultStep_completes _
  obtain ⟨t, ht⟩ := answered
  rw [ht]
  exact Out.completes_next _

/-- Settles O60, by cases over the instructions and then over what a step may do. -/
theorem everyStepAnswersNext : Obligations.EveryStepAnswersNext :=
  ⟨exec_completes, step_completes⟩

end Sys2Proof.Machine
end

section
/-! PROOFS. What the performance of stores leaves alone (R63, R71, R72): beside memory, the caches and the cores' copies and scratchpads, nothing;
and a core's late stores and translations stay. -/
namespace Sys2Proof.Machine

/-! ## Keyed data after a map -/

/-- A part of an entry that a map of the entries leaves. -/
theorem sget_map_keeps {α β : Type} (part : α → β) (d : Nat → α) (f : Nat × α → Nat × α) (hkey : ∀ p, (f p).1 = p.1)
    (hpart : ∀ p, part (f p).2 = part p.2) (m : Sparse α) (k : Nat) : part (sget d (m.map f) k) = part (sget d m k) := by
  induction m with
  | nil => rfl
  | cons p r ih =>
    simp only [List.map_cons, sget, hkey]
    split
    · exact hpart p
    · exact ih

/-- An entry after a map of the entries that leaves what an unlisted key holds. -/
theorem sget_map {α : Type} (d : Nat → α) (f : α → α) (m : Sparse α) (k : Nat) (hd : f (d k) = d k) :
    sget d (m.map fun p => (p.1, f p.2)) k = f (sget d m k) := by
  induction m with
  | nil => exact hd.symm
  | cons p r ih =>
    simp only [List.map_cons, sget]
    split
    · rfl
    · exact ih

/-- A core that is not listed holds what no core holds at first. -/
theorem core_of_unlisted (s : State) (c : Nat) (h : ∀ p ∈ s.cores, p.1 ≠ c) : s.core c = {} := by
  unfold State.core
  generalize s.cores = cores at h
  induction cores with
  | nil => rfl
  | cons p r ih =>
    have hp : p.1 ≠ c := h p (by simp)
    simp only [sget, if_neg hp]
    exact ih fun q hq => h q (by simp [hq])

/-! ## What stores change -/

/-- The state with memory, caches, cores and the notes about writes of another. -/
def State.withStoresOf (t s : State) : State :=
  { t with mem := s.mem, l2 := s.l2, cores := s.cores, compcnt := s.compcnt, noted := s.noted, behind := s.behind, poison := s.poison }

/-- From `s` to `t` stores have been performed: what `State.withStoresOf` names may differ, but each core's late stores and translations are
as they were. -/
structure StoresOnly (s t : State) : Prop where
  rest : t.withStoresOf s = s
  late : ∀ c, (t.core c).late = (s.core c).late
  tlb : ∀ c, (t.core c).tlb = (s.core c).tlb

namespace StoresOnly

theorem refl (s : State) : StoresOnly s s := ⟨rfl, fun _ => rfl, fun _ => rfl⟩

theorem trans {s t u : State} (h : StoresOnly s t) (k : StoresOnly t u) : StoresOnly s u where
  rest := by
    have e : u.withStoresOf s = (u.withStoresOf t).withStoresOf s := rfl
    rw [e, k.rest, h.rest]
  late c := (k.late c).trans (h.late c)
  tlb c := (k.tlb c).trans (h.tlb c)

/-- Stores of other parts than the cores. -/
theorem of_cores_eq {s t : State} (hrest : t.withStoresOf s = s) (hcores : t.cores = s.cores) : StoresOnly s t where
  rest := hrest
  late c := by unfold State.core; rw [hcores]
  tlb c := by unfold State.core; rw [hcores]

/-- A change of a core that leaves its late stores and its translations. -/
theorem updCore (s : State) (core : Nat) (f : Core → Core) (hlate : ∀ c, (f c).late = c.late) (htlb : ∀ c, (f c).tlb = c.tlb) :
    StoresOnly s (s.updCore core f) where
  rest := rfl
  late c := by
    by_cases h : c = core
    · subst h; rw [State.core_updCore_same, hlate]
    · rw [State.core_updCore_other _ _ _ _ h]
  tlb c := by
    by_cases h : c = core
    · subst h; rw [State.core_updCore_same, htlb]
    · rw [State.core_updCore_other _ _ _ _ h]

/-- A fold of acts that are each stores. -/
theorem foldl {β : Type} (f : State → β → State) (h : ∀ t b, StoresOnly t (f t b)) (l : List β) (s : State) : StoresOnly s (l.foldl f s) :=
  foldl_keeps (StoresOnly s) f l (fun t b k => k.trans (h t b)) s (.refl s)

theorem wgs {s t : State} (h : StoresOnly s t) : t.wgs = s.wgs := (congrArg State.wgs h.rest : (t.withStoresOf s).wgs = s.wgs)
theorem tick {s t : State} (h : StoresOnly s t) : t.tick = s.tick := (congrArg State.tick h.rest : (t.withStoresOf s).tick = s.tick)
theorem tlbcmd {s t : State} (h : StoresOnly s t) : t.tlbcmd = s.tlbcmd := (congrArg State.tlbcmd h.rest : (t.withStoresOf s).tlbcmd = s.tlbcmd)
theorem cur {s t : State} (h : StoresOnly s t) : t.cur = s.cur := (congrArg State.cur h.rest : (t.withStoresOf s).cur = s.cur)
theorem wg {s t : State} (h : StoresOnly s t) (g : Nat) : t.wg g = s.wg g := by unfold State.wg; rw [h.wgs]

end StoresOnly

theorem cross_storesOnly (s : State) (compress : Bool) (line : Nat) (data : CacheLine) : StoresOnly s (s.cross compress line data) := by
  unfold State.cross
  split
  · exact .of_cores_eq rfl rfl
  · exact .refl s

theorem crossLanes_storesOnly (s : State) (core : Nat) (loads : Bool) (ps : List Place) : StoresOnly s (s.crossLanes core loads ps) :=
  StoresOnly.foldl _ (fun t _ => cross_storesOnly t _ _ _) _ s

theorem note_storesOnly (s : State) (pa n : Nat) : StoresOnly s (s.note pa n) := by
  unfold State.note
  split
  · exact .of_cores_eq rfl rfl
  · exact .refl s

theorem clearCovered_storesOnly (s : State) (rs : List (Nat × Nat)) : StoresOnly s (s.clearCovered rs) := by
  unfold State.clearCovered
  split
  · exact .refl s
  · exact .of_cores_eq rfl rfl

theorem setHomeByte_storesOnly (s : State) (a : PageAttr) (pa : Nat) (b : Byte) : StoresOnly s (s.setHomeByte a pa b) := by
  unfold State.setHomeByte
  split
  · exact .of_cores_eq rfl rfl
  · exact .of_cores_eq rfl rfl

theorem setHomeBytes_storesOnly (s : State) (a : PageAttr) (pa : Nat) (bs : List Byte) : StoresOnly s (s.setHomeBytes a pa bs) := by
  induction bs generalizing s pa with
  | nil => exact .refl s
  | cons b r ih => exact (setHomeByte_storesOnly s a pa b).trans (ih _ _)

theorem markPending_storesOnly (s : State) (line : Nat) (except : Option Nat) : StoresOnly s (s.markPending line except) where
  rest := rfl
  late c := by
    refine sget_map_keeps Core.late _ _ (fun p => ?_) (fun p => ?_) s.cores c <;> dsimp only <;> split <;> rfl
  tlb c := by
    refine sget_map_keeps Core.tlb _ _ (fun p => ?_) (fun p => ?_) s.cores c <;> dsimp only <;> split <;> rfl

theorem setBehind_storesOnly (s : State) (l : List Behind) : StoresOnly s { s with behind := l } := .of_cores_eq rfl rfl

theorem publish_storesOnly (s : State) (a : PageAttr) (except : Option Nat) (pa : Nat) (bs : List Byte) :
    StoresOnly s (s.publish a except pa bs) := by
  have written := (setBehind_storesOnly s (s.behind.filter fun b => !(pa ≤ b.addr && b.addr < pa + bs.length))).trans
    (setHomeBytes_storesOnly _ a pa bs)
  unfold State.publish
  simp only
  split
  · exact written.trans (StoresOnly.foldl _ (fun t _ => markPending_storesOnly t _ _) _ _)
  · exact written

theorem holdStore_storesOnly (s : State) (a : PageAttr) (core wg pa : Nat) (bs : List Byte) :
    StoresOnly s (s.holdStore a core wg pa bs) := by
  induction bs generalizing s pa with
  | nil => exact .refl s
  | cons b r ih =>
    refine StoresOnly.trans ?_ (ih _ (pa + 1))
    exact .updCore s core _ (fun _ => rfl) (fun _ => rfl)

@[simp] theorem Core.spWrite_late (c : Core) (a : Nat) (bs : List Byte) : (c.spWrite a bs).late = c.late := by
  induction bs generalizing c a with
  | nil => rfl
  | cons b r ih => exact ih _ _
@[simp] theorem Core.spWrite_tlb (c : Core) (a : Nat) (bs : List Byte) : (c.spWrite a bs).tlb = c.tlb := by
  induction bs generalizing c a with
  | nil => rfl
  | cons b r ih => exact ih _ _

theorem writePlace_storesOnly (s : State) (core wg : Nat) (p : Place) (bs : List Byte) : StoresOnly s (s.writePlace core wg p bs) := by
  cases p with
  | sp c off => exact .updCore s c _ (fun x => x.spWrite_late off bs) (fun x => x.spWrite_tlb off bs)
  | mem pa attr =>
    simp only [State.writePlace]
    split
    · exact (publish_storesOnly s attr none pa bs).trans (note_storesOnly _ _ _)
    · exact holdStore_storesOnly s attr core wg pa bs

/-! ## The performance of late stores -/

/-- The performance of late stores of a core: they leave its list, and then stores are made. -/
theorem perform_storesOnly (s : State) (core : Nat) (p : LateStore → Bool) : ∃ u, StoresOnly s u ∧
    StoresOnly (u.updCore core fun c => { c with late := c.late.filter fun l => !p l }) (s.perform core p) :=
  ⟨_, crossLanes_storesOnly s core false (((s.core core).late.filter p).map (·.place)),
    (StoresOnly.foldl _ (fun t (l : LateStore) => writePlace_storesOnly t core l.wg l.place l.bytes) _ _).trans (clearCovered_storesOnly _ _)⟩

theorem perform_rest (s : State) (core : Nat) (p : LateStore → Bool) : (s.perform core p).withStoresOf s = s := by
  obtain ⟨u, hu, h⟩ := perform_storesOnly s core p
  calc (s.perform core p).withStoresOf s
      = ((s.perform core p).withStoresOf (u.updCore core fun c => { c with late := c.late.filter fun l => !p l })).withStoresOf s := rfl
    _ = u.withStoresOf s := by rw [h.rest]; rfl
    _ = s := hu.rest

theorem perform_late (s : State) (core : Nat) (p : LateStore → Bool) (c : Nat) :
    ((s.perform core p).core c).late = if c = core then (s.core c).late.filter fun l => !p l else (s.core c).late := by
  obtain ⟨u, hu, h⟩ := perform_storesOnly s core p
  rw [h.late]
  split
  · next e => subst e; rw [State.core_updCore_same, hu.late]
  · next e => rw [State.core_updCore_other _ _ _ _ e, hu.late]

theorem perform_tlb (s : State) (core : Nat) (p : LateStore → Bool) (c : Nat) : ((s.perform core p).core c).tlb = (s.core c).tlb := by
  obtain ⟨u, hu, h⟩ := perform_storesOnly s core p
  rw [h.tlb]
  by_cases e : c = core
  · subst e; rw [State.core_updCore_same, hu.tlb]
  · rw [State.core_updCore_other _ _ _ _ e, hu.tlb]

@[simp] theorem perform_wgs (s : State) (core : Nat) (p : LateStore → Bool) : (s.perform core p).wgs = s.wgs :=
  (congrArg State.wgs (perform_rest s core p) : ((s.perform core p).withStoresOf s).wgs = s.wgs)
@[simp] theorem performIf_wgs (s : State) (core : Nat) (p : LateStore → Bool) : (s.performIf core p).wgs = s.wgs := by
  unfold State.performIf
  split
  · exact perform_wgs s core p
  · rfl
@[simp] theorem performSplit_wgs (s : State) (g w n : Nat) : (s.performSplit g w n).wgs = s.wgs := performIf_wgs s _ _

/-- Where no late store satisfies the test, none is performed. -/
theorem performIf_of_none (s : State) (core : Nat) (p : LateStore → Bool) (h : ∀ l ∈ (s.core core).late, p l = false) :
    s.performIf core p = s := by
  unfold State.performIf
  rw [if_neg]
  simpa using h

/-- A split whose late stores are performed has none (R4). -/
theorem performSplit_late (s : State) (g w n : Nat) :
    ∀ l ∈ ((s.performSplit g w n).core (s.wg g).core).late, l.isBefore g w n = false := by
  intro l hl
  unfold State.performSplit State.performIf at hl
  split at hl
  · rw [perform_late, if_pos rfl, List.mem_filter] at hl
    simpa using hl.2
  · next none => simpa using fun e => none (List.any_eq_true.2 ⟨l, hl, e⟩)

end Sys2Proof.Machine
end

section
/-! PROOFS. Trace records and traps leave the warps of other splits as they are (R374, R417 to R421). -/
namespace Sys2Proof.Machine

/-! ## Writes through to memory -/

/-- The state with the memory, caches, cores, deduplication and interrupts of another. -/
def State.withMemoryOf (t s : State) : State :=
  { t with mem := s.mem, enc := s.enc, poison := s.poison, l2 := s.l2, cores := s.cores, compcnt := s.compcnt, noted := s.noted, behind := s.behind,
           dedup := s.dedup, draws := s.draws, msix := s.msix, msixPending := s.msixPending }

/-- From `s` to `t` memory has been written, which may pass the pool of deduplication: only what `State.withMemoryOf` names may differ. -/
def MemoryOnly (s t : State) : Prop := t.withMemoryOf s = s

namespace MemoryOnly

theorem refl (s : State) : MemoryOnly s s := rfl

theorem trans {s t u : State} (h : MemoryOnly s t) (k : MemoryOnly t u) : MemoryOnly s u :=
  calc u.withMemoryOf s = (u.withMemoryOf t).withMemoryOf s := rfl
    _ = t.withMemoryOf s := by rw [k]
    _ = s := h

theorem foldl {β : Type} (f : State → β → State) (h : ∀ t b, MemoryOnly t (f t b)) (l : List β) (s : State) : MemoryOnly s (l.foldl f s) :=
  foldl_keeps (MemoryOnly s) f l (fun t b k => k.trans (h t b)) s (.refl s)

theorem of_storesOnly {s t : State} (h : StoresOnly s t) : MemoryOnly s t :=
  (congrArg (fun u : State => u.withMemoryOf s) h.rest : (t.withStoresOf s).withMemoryOf s = s.withMemoryOf s)

theorem wgs {s t : State} (h : MemoryOnly s t) : t.wgs = s.wgs :=
  (congrArg State.wgs (show t.withMemoryOf s = s from h) : (t.withMemoryOf s).wgs = s.wgs)
theorem cur {s t : State} (h : MemoryOnly s t) : t.cur = s.cur :=
  (congrArg State.cur (show t.withMemoryOf s = s from h) : (t.withMemoryOf s).cur = s.cur)

theorem updCore (s : State) (core : Nat) (f : Core → Core) : MemoryOnly s (s.updCore core f) := rfl

end MemoryOnly

theorem setMemBytes_memoryOnly (s : State) (pa : Nat) (bs : List Byte) : MemoryOnly s (s.setMemBytes pa bs) := by
  induction bs generalizing s pa with
  | nil => rfl
  | cons b r ih => exact MemoryOnly.trans (rfl : MemoryOnly s (s.setMemByte pa b)) (ih _ _)

theorem setHbmKey_memoryOnly (s : State) (line : Nat) (k : Option (BitVec 512)) : MemoryOnly s (s.setHbmKey line k) := by
  unfold State.setHbmKey; split <;> rfl

theorem lowWater_memoryOnly (s : State) (die : Nat) : MemoryOnly s (s.lowWater die) := by
  unfold State.lowWater
  simp only
  split
  · split <;> rfl
  · rfl

theorem poolStore_memoryOnly (s : State) (die line : Nat) (d : CacheLine) (k : Option (BitVec 512)) (b : Bool) :
    MemoryOnly s (s.poolStore die line d k b).1 := by
  unfold State.poolStore
  simp only
  split
  · exact (show MemoryOnly s (State.updDd { s with draws := s.draws + 1 } die _) from rfl).trans (lowWater_memoryOnly _ die)
  · rfl

theorem writeback_memoryOnly (s : State) (line : Nat) : MemoryOnly s (s.writeback line).1 := by
  unfold State.writeback
  simp only
  split
  · rfl
  · split
    · exact (setMemBytes_memoryOnly s _ _).trans ((setHbmKey_memoryOnly _ line _).trans rfl)
    · next die _ =>
      have stored := poolStore_memoryOnly s die line (sget (fun _ => ({} : L2Line)) s.l2 line).data
        (sget (fun _ => ({} : L2Line)) s.l2 line).key (sget (fun _ => ({} : L2Line)) s.l2 line).dedup
      split <;> next t e => rw [e] at stored; exact stored.trans rfl

theorem writeThrough_memoryOnly (s : State) (a : PageAttr) (pa : Nat) (bs : List Byte) : MemoryOnly s (s.writeThrough a pa bs) := by
  unfold State.writeThrough
  split
  · rfl
  · have published := MemoryOnly.of_storesOnly (publish_storesOnly s a none pa bs)
    exact published.trans ((MemoryOnly.foldl _ (fun t _ => writeback_memoryOnly t _) _ _).trans rfl)

theorem putThrough_memoryOnly (s : State) (pa : Nat) (bs : List Byte) : MemoryOnly s (s.putThrough pa bs) :=
  (writeThrough_memoryOnly s {} pa bs).trans (.of_storesOnly (StoresOnly.foldl _ (fun t _ => cross_storesOnly t _ _ _) (List.range _) _))

/-! ## Trace records -/

theorem traceAppend_memoryOnly (s : State) (core body : Nat) : MemoryOnly s (s.traceAppend core body) := by
  unfold State.traceAppend
  simp only
  split
  · rfl
  · exact (putThrough_memoryOnly s _ _).trans (.updCore _ core _)

theorem traceWrite_memoryOnly (s : State) (core body : Nat) : MemoryOnly s (s.traceWrite core body) := by
  unfold State.traceWrite
  extract_lets d size u
  split
  · exact ((traceAppend_memoryOnly s core _).trans (.updCore _ core _)).trans (traceAppend_memoryOnly _ core body)
  · exact traceAppend_memoryOnly s core body

theorem sample_memoryOnly (s : State) (core port : Nat) : MemoryOnly s (s.sample core port) := by
  unfold State.sample
  simp only
  split
  · exact (MemoryOnly.updCore s core _).trans (traceWrite_memoryOnly _ core _)
  · rfl

theorem samples_memoryOnly (s : State) (core : Nat) : MemoryOnly s (s.samples core) :=
  MemoryOnly.foldl _ (fun t port => by
    split
    · rfl
    · exact sample_memoryOnly t core port) _ s

theorem traceEvent_memoryOnly (s : State) (g w n type bit aux : Nat) : MemoryOnly s (s.traceEvent g w n type bit aux) := by
  unfold State.traceEvent State.traceFields
  extract_lets wg
  split
  · exact (samples_memoryOnly s _).trans (traceWrite_memoryOnly _ _ _)
  · rfl

@[simp] theorem toRing_wgs (s : State) (r : TrapRec) : (s.toRing r).wgs = s.wgs := rfl

/-- The same change of a split in states with the same workgroups. -/
theorem updSplit_wgs_congr {s t : State} (h : t.wgs = s.wgs) (g w n : Nat) (f : Split → Split) :
    (t.updSplit g w n f).wgs = (s.updSplit g w n f).wgs := by
  unfold State.updSplit State.updWarp State.updWg State.setWg State.wg
  rw [h]

theorem updWg_wgs_congr {s t : State} (h : t.wgs = s.wgs) (g : Nat) (f : Workgroup → Workgroup) : (t.updWg g f).wgs = (s.updWg g f).wgs := by
  unfold State.updWg State.setWg State.wg
  rw [h]

/-- A trap changes its split and, where it goes to the handlers of the workgroup, their queue; no other part of a workgroup. -/
theorem trapSplit_wgs (s : State) (g w n code addr data : Nat) (resume : PC × Bool) (slot : Slot) :
    ∃ f : Split → Split, (s.trapSplit g w n code addr data resume slot).wgs = (s.updSplit g w n f).wgs ∨
      (s.trapSplit g w n code addr data resume slot).wgs =
        ((s.updSplit g w n f).updWg g fun x => { x with trapQueue := x.trapQueue ++ [(w, n)] }).wgs := by
  have traced := (traceEvent_memoryOnly s g w n 4 3 code).wgs
  unfold State.trapSplit
  simp only
  split
  · exact ⟨_, .inl ((toRing_wgs _ _).trans (updSplit_wgs_congr traced g w n _))⟩
  · split
    · exact ⟨_, .inr (updWg_wgs_congr (updSplit_wgs_congr traced g w n _) g _)⟩
    · exact ⟨_, .inl ((toRing_wgs _ _).trans (updSplit_wgs_congr traced g w n _))⟩

theorem trapSplit_cur (s : State) (g w n code addr data : Nat) (resume : PC × Bool) (slot : Slot) :
    (s.trapSplit g w n code addr data resume slot).cur = s.cur := by
  have traced := (traceEvent_memoryOnly s g w n 4 3 code).cur
  unfold State.trapSplit
  simp only
  split
  · exact traced
  · split <;> exact traced

/-! ## Parts of a workgroup after a change of one split -/

theorem wg_congr {s t : State} (h : t.wgs = s.wgs) (g : Nat) : t.wg g = s.wg g := by unfold State.wg; rw [h]
theorem warp_congr {s t : State} (h : t.wgs = s.wgs) (g w : Nat) : t.warp g w = s.warp g w := by unfold State.warp; rw [wg_congr h]
theorem split_congr {s t : State} (h : t.wgs = s.wgs) (g w n : Nat) : t.split g w n = s.split g w n := by unfold State.split; rw [warp_congr h]

/-- A warp after a change of its workgroup that leaves the warps. -/
theorem warp_updWg_of_warps (s : State) (g w : Nat) (f : Workgroup → Workgroup) (h : (f (s.wg g)).warps = (s.wg g).warps) :
    (s.updWg g f).warp g w = s.warp g w := by
  unfold State.warp Workgroup.warp
  rw [State.wg_updWg_same, h]

/-- Another split of the workgroup. -/
theorem split_updSplit_of_ne (s : State) (g w n : Nat) (f : Split → Split) (v m : Nat) (h : (v, m) ≠ (w, n)) :
    (s.updSplit g w n f).split g v m = s.split g v m := by
  by_cases hv : v = w
  · subst hv
    exact State.split_updSplit_other s g v n m f fun e => h (by rw [e])
  · unfold State.split State.updSplit
    rw [State.warp_updWarp_other _ _ _ _ _ hv]

theorem exited_updSplit (s : State) (g w n : Nat) (f : Split → Split) (v : Nat) :
    ((s.updSplit g w n f).warp g v).exited = (s.warp g v).exited := by
  unfold State.updSplit
  by_cases hv : v = w
  · subst hv; rw [State.warp_updWarp_same]; rfl
  · rw [State.warp_updWarp_other _ _ _ _ _ hv]

/-- A trap changes the warps of its workgroup as a change of its split does. -/
theorem trapSplit_warps (s : State) (g w n code addr data : Nat) (resume : PC × Bool) (slot : Slot) :
    ∃ f, ∀ v, (s.trapSplit g w n code addr data resume slot).warp g v = (s.updSplit g w n f).warp g v := by
  obtain ⟨f, h | h⟩ := trapSplit_wgs s g w n code addr data resume slot
  · exact ⟨f, warp_congr h g⟩
  · exact ⟨f, fun v => (warp_congr h g v).trans (warp_updWg_of_warps _ g v _ rfl)⟩

theorem trapSplit_core (s : State) (g w n code addr data : Nat) (resume : PC × Bool) (slot : Slot) :
    ((s.trapSplit g w n code addr data resume slot).wg g).core = (s.wg g).core := by
  obtain ⟨f, h | h⟩ := trapSplit_wgs s g w n code addr data resume slot
  · rw [wg_congr h, State.updSplit, State.updWarp, State.wg_updWg_same]; rfl
  · rw [wg_congr h, State.wg_updWg_same, State.updSplit, State.updWarp, State.wg_updWg_same]; rfl

theorem trapSplit_split_of_ne (s : State) (g w n code addr data : Nat) (resume : PC × Bool) (slot : Slot) (v m : Nat) (h : (v, m) ≠ (w, n)) :
    (s.trapSplit g w n code addr data resume slot).split g v m = s.split g v m := by
  obtain ⟨f, hf⟩ := trapSplit_warps s g w n code addr data resume slot
  exact (congrArg (fun x : Warp => x.split m) (hf v)).trans (split_updSplit_of_ne s g w n f v m h)

theorem trapSplit_exited (s : State) (g w n code addr data : Nat) (resume : PC × Bool) (slot : Slot) (v : Nat) :
    ((s.trapSplit g w n code addr data resume slot).warp g v).exited = (s.warp g v).exited := by
  obtain ⟨f, hf⟩ := trapSplit_warps s g w n code addr data resume slot
  rw [hf, exited_updSplit]

end Sys2Proof.Machine
end

section
/-! PROOFS. Taking a trap (R4, R373 to R376). -/
namespace Sys2Proof.Machine

/-! ## What the shared operations give -/

/-- Where no record of the kind is admitted, an event leaves no trace (R417). -/
theorem traceEvent_of_not_traces (s : State) (g w n type bit aux : Nat) (h : s.traces (s.wg g).core (s.wg g).ctx bit = false) :
    s.traceEvent g w n type bit aux = s := by
  simp [State.traceEvent, State.traceFields, h]

@[simp] theorem Split.advance_mask (x : Split) : x.advance.mask = x.mask := rfl
@[simp] theorem Split.advance_handler (x : Split) : x.advance.handler = x.handler := rfl

/-- A record that is no stray arrival waits to be written (R380, R381). -/
theorem State.toRing_pending (s : State) (r : TrapRec) (h : r.code ≠ 0x80) :
    ((s.toRing r).ctx r.ctx).pending = (s.ctx r.ctx).pending ++ [r] := by
  unfold State.toRing
  rw [State.ctx_updCtx_same]
  simp [h]

/-! ## The two ways in which an entry stops in a trap (R374, R376) -/

/-- The entry stopped with a resume PC and a record, before its handler. -/
def Split.stopInTrap (x : Split) (resume : PC × Bool) (r : TrapRec) (tick : Nat) : Split :=
  { x with st := .inTrap, pc := resume.1, seq := resume.2, resume := resume.1, resumeSeq := resume.2, pend := none, wait := .nothing,
           trap := some r, emu := none, since := tick }

/-- The entry stopped by a trap in its handler: its resume PC stays. -/
def Split.stopNested (x : Split) (pc : PC × Bool) (r : TrapRec) (tick : Nat) : Split :=
  { x with st := .inTrap, pc := pc.1, seq := pc.2, pend := none, wait := .nothing, trap := some r, since := tick }

/-- A record for the trap ring (R376): of a split that is held, or of one that is held inside its handler. -/
def TrapRec.asHeld (r : TrapRec) : TrapRec := { r with held := true }
def TrapRec.asNested (r : TrapRec) : TrapRec := { r with held := true, nested := true }

/-- A trap in a handler goes to the ring, nested. -/
theorem trapSplit_of_handler (s : State) (g w n code addr data : Nat) (resume : PC × Bool) (slot : Slot)
    (htr : s.traces (s.wg g).core (s.wg g).ctx 3 = false) (hh : (s.split g w n).handler = true) :
    s.trapSplit g w n code addr data resume slot =
      (s.updSplit g w n fun x => x.stopNested resume (s.splitRecord g w n code addr data resume.1 slot).asNested s.tick).toRing
        (s.splitRecord g w n code addr data resume.1 slot).asNested := by
  simp only [State.trapSplit, traceEvent_of_not_traces _ _ _ _ _ _ _ htr, hh, if_true]
  rfl

/-- A trap goes to the handlers of the workgroup where the kernel declares an entry for the role. -/
theorem trapSplit_of_entry (s : State) (g w n code addr data : Nat) (resume : PC × Bool) (slot : Slot)
    (htr : s.traces (s.wg g).core (s.wg g).ctx 3 = false) (hh : (s.split g w n).handler = false)
    (he : (s.wg g).trapEntry (s.warp g w).role ≠ 0xFFFFFFFF) :
    s.trapSplit g w n code addr data resume slot =
      (s.updSplit g w n fun x => x.stopInTrap resume (s.splitRecord g w n code addr data resume.1 slot) s.tick).updWg g
        fun x => { x with trapQueue := x.trapQueue ++ [(w, n)] } := by
  have hb : ((s.wg g).trapEntry (s.warp g w).role != 0xFFFFFFFF) = true := bne_iff_ne.2 he
  simp only [State.trapSplit, traceEvent_of_not_traces _ _ _ _ _ _ _ htr, hh, hb, if_true, Bool.false_eq_true, if_false]
  rfl

/-- A trap goes to the ring, held, where the kernel declares no entry. -/
theorem trapSplit_of_no_entry (s : State) (g w n code addr data : Nat) (resume : PC × Bool) (slot : Slot)
    (htr : s.traces (s.wg g).core (s.wg g).ctx 3 = false) (hh : (s.split g w n).handler = false)
    (he : (s.wg g).trapEntry (s.warp g w).role = 0xFFFFFFFF) :
    s.trapSplit g w n code addr data resume slot =
      (s.updSplit g w n fun x => x.stopInTrap resume (s.splitRecord g w n code addr data resume.1 slot).asHeld s.tick).toRing
        (s.splitRecord g w n code addr data resume.1 slot).asHeld := by
  have hb : ((s.wg g).trapEntry (s.warp g w).role != 0xFFFFFFFF) = false := by rw [he]; rfl
  simp only [State.trapSplit, traceEvent_of_not_traces _ _ _ _ _ _ _ htr, hh, hb, Bool.false_eq_true, if_false]
  rfl

/-! ## The trap of the issuing split -/

/-- Between `s` and `t` the issuing split, its workgroup's queue of traps and the contexts may differ; no register, no memory and no other
split does. -/
structure StopsOnly (s t : State) : Prop where
  cores : t.cores = s.cores
  mem : t.mem = s.mem
  l2 : t.l2 = s.l2
  warp : t.curWarp.withSplitsOf s.curWarp = s.curWarp
  splits : ∀ n, n ≠ s.cur.split → t.split s.cur.wg s.cur.warp n = s.split s.cur.wg s.cur.warp n
  warps : ∀ n, n ≠ s.cur.warp → t.warp s.cur.wg n = s.warp s.cur.wg n
  groups : ∀ g, g ≠ s.cur.wg → t.wg g = s.wg g

theorem stopsOnly_updCur (s : State) (f : Split → Split) : StopsOnly s (s.updCur f) where
  cores := rfl
  mem := rfl
  l2 := rfl
  warp := by rw [State.curWarp_updCur]; rfl
  splits := (onlyTouches_updCur s f {}).splits
  warps := (onlyTouches_updCur s f {}).warps
  groups := (onlyTouches_updCur s f {}).elsewhere.groups

/-- A change of the issuing workgroup outside its warps. -/
theorem stopsOnly_updCurWg (s : State) (f : Workgroup → Workgroup) (h : (f s.curWg).warps = s.curWg.warps) : StopsOnly s (s.updCurWg f) where
  cores := rfl
  mem := rfl
  l2 := rfl
  warp := by
    show ((s.updCurWg f).warp s.cur.wg s.cur.warp).withSplitsOf s.curWarp = s.curWarp
    rw [State.updCurWg, warp_updWg_of_warps s _ _ f h]
    rfl
  splits n _ := congrArg (fun w : Warp => w.split n) (warp_updWg_of_warps s _ _ f h)
  warps n _ := warp_updWg_of_warps s _ _ f h
  groups g hg := State.wg_updWg_other s _ _ f hg

theorem stopsOnly_toRing (s : State) (r : TrapRec) : StopsOnly s (s.toRing r) :=
  ⟨rfl, rfl, rfl, rfl, fun _ _ => rfl, fun _ _ => rfl, fun _ _ => rfl⟩

theorem StopsOnly.trans {s t u : State} (h : StopsOnly s t) (k : StopsOnly t u) (c : t.cur = s.cur) : StopsOnly s u where
  cores := k.cores.trans h.cores
  mem := k.mem.trans h.mem
  l2 := k.l2.trans h.l2
  warp := by
    have e : u.curWarp.withSplitsOf s.curWarp = (u.curWarp.withSplitsOf t.curWarp).withSplitsOf s.curWarp := rfl
    rw [e, k.warp, h.warp]
  splits n hn := (c ▸ k.splits n (by rw [c]; exact hn) : u.split s.cur.wg s.cur.warp n = t.split s.cur.wg s.cur.warp n).trans (h.splits n hn)
  warps n hn := (c ▸ k.warps n (by rw [c]; exact hn) : u.warp s.cur.wg n = t.warp s.cur.wg n).trans (h.warps n hn)
  groups g hg := (k.groups g (by rw [c]; exact hg)).trans (h.groups g hg)

/-- From `s` the issuing split has taken a trap to `t` (R374 to R376): `base` is its entry before, `resume` its resume PC and `r` its record
but for where it goes. -/
structure TakesTrap (s t : State) (base : Split) (resume : PC × Bool) (r : TrapRec) : Prop where
  frame : StopsOnly s t
  cur : t.cur = s.cur
  core : t.curWg.core = s.curWg.core
  onCore : s.curSplit.handler = false → s.curWg.trapEntry s.curWarp.role ≠ 0xFFFFFFFF → t.ctxs = s.ctxs ∧
    t.curWg.trapQueue = s.curWg.trapQueue ++ [(s.cur.warp, s.cur.split)] ∧ t.curSplit = base.stopInTrap resume r s.tick
  toRing : s.curSplit.handler = false → s.curWg.trapEntry s.curWarp.role = 0xFFFFFFFF →
    (t.ctx s.curWg.ctx).pending = (s.ctx s.curWg.ctx).pending ++ [r.asHeld] ∧ t.curWg.trapQueue = s.curWg.trapQueue ∧
    t.curSplit = base.stopInTrap resume r.asHeld s.tick
  nested : s.curSplit.handler = true →
    (t.ctx s.curWg.ctx).pending = (s.ctx s.curWg.ctx).pending ++ [r.asNested] ∧
    t.curWg.trapQueue = s.curWg.trapQueue ∧ t.curSplit = base.stopNested resume r.asNested s.tick

theorem State.curWg_updCur (s : State) (f : Split → Split) :
    (s.updCur f).curWg = s.curWg.setWarp s.cur.warp (s.curWarp.setSplit s.cur.split (f s.curSplit)) :=
  State.curWg_updCurWarp s fun x => x.setSplit s.cur.split (f (x.split s.cur.split))

theorem State.curSplit_updCurWg (s : State) (f : Workgroup → Workgroup) (h : (f s.curWg).warps = s.curWg.warps) :
    (s.updCurWg f).curSplit = s.curSplit :=
  congrArg (fun w : Warp => w.split s.cur.split) (warp_updWg_of_warps s s.cur.wg s.cur.warp f h)

@[simp] theorem State.curWg_updCurWg (s : State) (f : Workgroup → Workgroup) : (s.updCurWg f).curWg = f s.curWg := State.wg_updWg_same _ _ _

/-- A trap that goes to the ring. -/
theorem toRing_takes (s : State) (f : Split → Split) (r : TrapRec) (hctx : r.ctx = s.curWg.ctx) (hcode : r.code ≠ 0x80) :
    StopsOnly s ((s.updCur f).toRing r) ∧ ((s.updCur f).toRing r).curWg.core = s.curWg.core ∧
    (((s.updCur f).toRing r).ctx s.curWg.ctx).pending = (s.ctx s.curWg.ctx).pending ++ [r] ∧
    ((s.updCur f).toRing r).curWg.trapQueue = s.curWg.trapQueue ∧ ((s.updCur f).toRing r).curSplit = f s.curSplit := by
  have group : ((s.updCur f).toRing r).curWg = _ := State.curWg_updCur s f
  refine ⟨(stopsOnly_updCur s f).trans (stopsOnly_toRing _ r) rfl, by rw [group]; rfl, ?_, by rw [group]; rfl, State.curSplit_updCur s f⟩
  rw [← hctx]
  exact State.toRing_pending _ r hcode

/-- A trap stops the issuing split as `TakesTrap` says. -/
theorem trapSplit_takesTrap (s : State) (code addr data : Nat) (resume : PC × Bool) (slot : Slot)
    (htr : s.traces s.curWg.core s.curWg.ctx 3 = false) (hcode : code ≠ 0x80) :
    TakesTrap s (s.trapSplit s.cur.wg s.cur.warp s.cur.split code addr data resume slot) s.curSplit resume
      (s.splitRecord s.cur.wg s.cur.warp s.cur.split code addr data resume.1 slot) := by
  have hctx : (s.splitRecord s.cur.wg s.cur.warp s.cur.split code addr data resume.1 slot).ctx = s.curWg.ctx := rfl
  have hrec : (s.splitRecord s.cur.wg s.cur.warp s.cur.split code addr data resume.1 slot).code ≠ 0x80 := hcode
  by_cases hh : s.curSplit.handler = true
  · rw [trapSplit_of_handler s _ _ _ code addr data resume slot htr hh]
    generalize s.splitRecord s.cur.wg s.cur.warp s.cur.split code addr data resume.1 slot = r at hctx hrec ⊢
    obtain ⟨frame, core, pending, queue, split⟩ := toRing_takes s (fun x => x.stopNested resume r.asNested s.tick) r.asNested hctx hrec
    exact ⟨frame, rfl, core, fun h => absurd hh (by simp [h]), fun h => absurd hh (by simp [h]), fun _ => ⟨pending, queue, split⟩⟩
  have hf : s.curSplit.handler = false := by simpa using hh
  by_cases he : s.curWg.trapEntry s.curWarp.role = 0xFFFFFFFF
  · rw [trapSplit_of_no_entry s _ _ _ code addr data resume slot htr hf he]
    generalize s.splitRecord s.cur.wg s.cur.warp s.cur.split code addr data resume.1 slot = r at hctx hrec ⊢
    obtain ⟨frame, core, pending, queue, split⟩ := toRing_takes s (fun x => x.stopInTrap resume r.asHeld s.tick) r.asHeld hctx hrec
    exact ⟨frame, rfl, core, fun _ h => absurd he h, fun _ _ => ⟨pending, queue, split⟩, fun h => absurd h hh⟩
  · rw [trapSplit_of_entry s _ _ _ code addr data resume slot htr hf he]
    generalize s.splitRecord s.cur.wg s.cur.warp s.cur.split code addr data resume.1 slot = r
    have group := State.curWg_updCurWg (s.updCur fun x => x.stopInTrap resume r s.tick)
      fun x => { x with trapQueue := x.trapQueue ++ [(s.cur.warp, s.cur.split)] }
    rw [State.curWg_updCur] at group
    have core := congrArg Workgroup.core group
    have queue := congrArg Workgroup.trapQueue group
    exact {
      frame := (stopsOnly_updCur s _).trans (stopsOnly_updCurWg _ _ rfl) rfl
      cur := rfl
      core := core
      onCore := fun _ _ => ⟨rfl, queue, (State.curSplit_updCurWg _ _ rfl).trans (State.curSplit_updCur s _)⟩
      toRing := fun _ h => absurd h he
      nested := fun h => absurd h hh }

/-- The same where only the entry of the issuing split was changed before. -/
theorem TakesTrap.of_updCur {s t : State} {b : Split} {resume : PC × Bool} {r : TrapRec} (hb : b.handler = s.curSplit.handler)
    (h : TakesTrap (s.updCur fun _ => b) t b resume r) : TakesTrap s t b resume r := by
  have role : (s.updCur fun _ => b).curWarp.role = s.curWarp.role := by rw [State.curWarp_updCur]; rfl
  have group := State.curWg_updCur s fun _ => b
  have handler : (s.updCur fun _ => b).curSplit.handler = s.curSplit.handler := by rw [State.curSplit_updCur]; exact hb
  obtain ⟨frame, cur, core, onCore, toRing, nested⟩ := h
  rw [handler] at onCore toRing nested
  rw [group] at core onCore toRing nested
  rw [role] at onCore toRing
  exact ⟨(stopsOnly_updCur s _).trans frame rfl, cur, core, onCore, toRing, nested⟩

/-! ## Traps of the issuing split, and the array instructions and stores before them (R4) -/

/-- A trap waits for the array instructions before it. -/
theorem afterArray_of_before (s t : State) (h : s.arrayBefore s.cur.wg s.cur.warp = true) :
    s.afterArray t = s.updCur fun x => { x with st := .wait, pend := none, wait := .array, since := s.tick } := if_pos h

/-- With it, the stores before it are performed. -/
theorem afterArray_of_free (s t : State) (h : s.arrayBefore s.cur.wg s.cur.warp = false) :
    s.afterArray t = t.performSplit s.cur.wg s.cur.warp s.cur.split := if_neg (by simp [h])

/-- A trap that takes place where every store before it is performed. -/
theorem TakesTrap.afterArray {s t : State} {b : Split} {resume : PC × Bool} {r : TrapRec} (h : TakesTrap s t b resume r)
    (free : s.arrayBefore s.cur.wg s.cur.warp = false)
    (prompt : ∀ l ∈ (s.core s.curWg.core).late, l.isBefore s.cur.wg s.cur.warp s.cur.split = false) : TakesTrap s (s.afterArray t) b resume r := by
  have core : (t.wg s.cur.wg).core = s.curWg.core := h.cur ▸ h.core
  have none : t.performSplit s.cur.wg s.cur.warp s.cur.split = t := by
    refine performIf_of_none t _ _ fun l hl => prompt l ?_
    rw [core] at hl
    unfold State.core at hl ⊢
    rwa [h.frame.cores] at hl
  rw [afterArray_of_free s t free, none]
  exact h

/-- A split that waits for the array instructions before its trap. -/
theorem afterArray_waits (s t : State) (h : s.arrayBefore s.cur.wg s.cur.warp = true) :
    OnlyTouches s (s.afterArray t) {} ∧
      (s.afterArray t).curSplit = { s.curSplit with st := .wait, pend := none, wait := .array, since := s.tick } := by
  rw [afterArray_of_before s t h]
  exact ⟨onlyTouches_updCur s _ {}, State.curSplit_updCur s _⟩

/-- A trap at the split's own PC. -/
theorem trapAt_takesTrap (s : State) (code addr data : Nat) (htr : s.traces s.curWg.core s.curWg.ctx 3 = false) (hcode : code ≠ 0x80)
    (free : s.arrayBefore s.cur.wg s.cur.warp = false)
    (prompt : ∀ l ∈ (s.core s.curWg.core).late, l.isBefore s.cur.wg s.cur.warp s.cur.split = false) :
    TakesTrap s (s.trapAt code addr data) s.curSplit (s.curSplit.pc, s.curSplit.seq)
      (s.splitRecord s.cur.wg s.cur.warp s.cur.split code addr data s.curSplit.pc s.curSplit.slotWords) :=
  (trapSplit_takesTrap s code addr data (s.curSplit.pc, s.curSplit.seq) s.curSplit.slotWords htr hcode).afterArray free prompt

/-- A trap of a checked transfer (R141, R375). -/
theorem transferTrap_takesTrap (s : State) (f : AccFault) (lane : Nat) (htr : s.traces s.curWg.core s.curWg.ctx 3 = false)
    (hcode : f.code ≠ 0x80) (free : s.arrayBefore s.cur.wg s.cur.warp = false)
    (prompt : ∀ l ∈ (s.core s.curWg.core).late, l.isBefore s.cur.wg s.cur.warp s.cur.split = false) :
    TakesTrap s (s.transferTrap f lane) s.curSplit (s.curSplit.pc, s.curSplit.seq)
      (s.splitRecord s.cur.wg s.cur.warp s.cur.split f.code f.addr (f.data + lane * 256) s.curSplit.pc
        (if f.code = 0x12 then s.curSplit.slotWords else 0)) :=
  (trapSplit_takesTrap s f.code f.addr (f.data + lane * 256) (s.curSplit.pc, s.curSplit.seq) _ htr hcode).afterArray free prompt

/-- The record of a trap whose split's entry was replaced by one with the same mask. -/
theorem splitRecord_updCur (s : State) (b : Split) (hb : b.mask = s.curSplit.mask) (code addr data : Nat) (resume : PC) (slot : Slot) :
    (s.updCur fun _ => b).splitRecord s.cur.wg s.cur.warp s.cur.split code addr data resume slot =
      s.splitRecord s.cur.wg s.cur.warp s.cur.split code addr data resume slot := by
  have group : (s.updCur fun _ => b).wg s.cur.wg = _ := State.curWg_updCur s fun _ => b
  have split : (s.updCur fun _ => b).split s.cur.wg s.cur.warp s.cur.split = b := State.curSplit_updCur s fun _ => b
  have mask : s.curSplit.mask = (s.split s.cur.wg s.cur.warp s.cur.split).mask := rfl
  simp only [State.splitRecord, group, split, hb, mask]
  rfl

/-- A trap whose resume PC is the next one (R103, R199). -/
theorem trapNext_takesTrap (s : State) (code addr data : Nat) (htr : s.traces s.curWg.core s.curWg.ctx 3 = false) (hcode : code ≠ 0x80)
    (free : s.arrayBefore s.cur.wg s.cur.warp = false)
    (prompt : ∀ l ∈ (s.core s.curWg.core).late, l.isBefore s.cur.wg s.cur.warp s.cur.split = false) :
    TakesTrap s (s.trapNext code addr data) { s.curSplit.advance with pc := s.curSplit.pc, seq := s.curSplit.seq }
      (s.curSplit.advance.pc, s.curSplit.advance.seq)
      (s.splitRecord s.cur.wg s.cur.warp s.cur.split code addr data s.curSplit.advance.pc s.curSplit.slotWords) := by
  let b : Split := { s.curSplit.advance with pc := s.curSplit.pc, seq := s.curSplit.seq }
  have group := State.curWg_updCur s fun _ => b
  have htr' : (s.updCur fun _ => b).traces (s.updCur fun _ => b).curWg.core (s.updCur fun _ => b).curWg.ctx 3 = false := by
    rw [group]; exact htr
  have taken := trapSplit_takesTrap (s.updCur fun _ => b) code addr data (s.curSplit.advance.pc, s.curSplit.advance.seq)
    s.curSplit.slotWords htr' hcode
  rw [State.curSplit_updCur, State.updCur_cur, splitRecord_updCur s b rfl] at taken
  exact (TakesTrap.of_updCur (b := b) rfl taken).afterArray free prompt

/-- A trap of the issuing split has the stores performed that it comes after (R4, log entry 69). -/
theorem trapAt_late (s : State) (code addr data : Nat)
    (free : s.arrayBefore s.cur.wg s.cur.warp = false) :
    ∀ l ∈ ((s.trapAt code addr data).core s.curWg.core).late, l.isBefore s.cur.wg s.cur.warp s.cur.split = false := by
  unfold State.trapAt
  rw [afterArray_of_free s _ free]
  rw [← show _ = s.curWg.core from trapSplit_core s s.cur.wg s.cur.warp s.cur.split code addr data _ _]
  exact performSplit_late _ _ _ _

/-! ## The instructions -/

/-- Without array instructions to perform, none holds a trap up. -/
theorem arrayBefore_of_not_busy (s : State) (g w : Nat) (h : s.arrayBusy g w = false) : s.arrayBefore g w = false := by
  unfold State.arrayBusy at h
  unfold State.arrayBefore
  rw [List.any_eq_false] at h ⊢
  intro c hc
  have idle := h c hc
  simp only [Bool.and_eq_true, not_and]
  exact fun _ => idle

/-- TRAP and TRAPFENCE are both opcodes of class 000, whose guard is read alike (R144). -/
theorem acts_trapfence (s : State) (g : Guard) : s.acts 0x00F g = s.acts 0x00E g := rfl

theorem trap_of_not_acts (s : State) (o : Args) (h : s.acts 0x00E o.g = false) : exec (.trap o) s = .next s.advance := by
  simp [execTrap, h]

theorem trap_of_acts (s : State) (o : Args) (h : s.acts 0x00E o.g = true) (hc : (s.uni o.a).toNat ≤ 65535) :
    exec (.trap o) s = .next (s.trapNext 0x18 s.curSplit.pc.toNat (s.uni o.a).toNat) := by
  simp [execTrap, h, Nat.not_lt.2 hc]

theorem trap_of_bad_code (s : State) (o : Args) (h : s.acts 0x00E o.g = true) (hc : 65535 < (s.uni o.a).toNat) :
    exec (.trap o) s = .next (s.trapAt 0x06 0 7) := by
  simp [execTrap, h, hc, State.illegalOperand]

theorem trapfence_of_not_acts (s : State) (o : Args) (h : s.acts 0x00E o.g = false) : exec (.trapfence o) s = .next s.advance := by
  simp [execTrapfence, acts_trapfence, h]

theorem trapfence_of_busy (s : State) (o : Args) (h : s.acts 0x00E o.g = true) (busy : s.arrayBusy s.cur.wg s.cur.warp = true) :
    exec (.trapfence o) s = .next (s.waitIn (.trapfence o) .array) := by
  simp [execTrapfence, acts_trapfence, h, busy]

theorem trapfence_of_flag (s : State) (o : Args) (h : s.acts 0x00E o.g = true) (idle : s.arrayBusy s.cur.wg s.cur.warp = false)
    (hit : (s.curWarp.flags &&& s.uni o.a).toNat % 128 ≠ 0) :
    exec (.trapfence o) s = .next (s.trapNext 0x19 s.curSplit.pc.toNat ((s.curWarp.flags &&& s.uni o.a).toNat % 128)) := by
  simp only [exec_trapfence, execTrapfence, acts_trapfence, h, idle, Bool.not_true, Bool.false_eq_true, if_false]
  exact if_pos hit

theorem trapfence_of_no_flag (s : State) (o : Args) (h : s.acts 0x00E o.g = true) (idle : s.arrayBusy s.cur.wg s.cur.warp = false)
    (none : (s.curWarp.flags &&& s.uni o.a).toNat % 128 = 0) : exec (.trapfence o) s = .next s.advance := by
  simp only [exec_trapfence, execTrapfence, acts_trapfence, h, idle, none]
  rfl

/-- A split that waits before its trap issues its instruction again once the array instructions before it are performed. -/
theorem waitWake_beforeTrap (s : State) (g w n : Nat) (hlive : (s.split g w n).live = true) (hst : (s.split g w n).st = .wait)
    (hpend : (s.split g w n).pend = none) (hwait : (s.split g w n).wait = .array) (free : s.arrayBefore g w = false)
    (hf : s.frozen g w n = false) :
    exec (.waitWake g w n) s = .next (s.updSplit g w n fun y => { y.again with since := s.tick }) := by
  simp [execWaitWake, hlive, hst, hpend, hwait, free, hf]

/-- Settles O33: the shared operation `State.trapSplit` by where its record goes, and the four ways of the issuing split into it. -/
theorem takingATrap : Obligations.TakingATrap := by
  unfold Obligations.TakingATrap
  intro s htr wg x entry rec_ free prompt waits takes
  have said {t : State} {base : Split} {resume : PC × Bool} {r : TrapRec} (h : TakesTrap s t base resume r) : takes t base resume r :=
    ⟨h.frame.cores, h.frame.mem, h.frame.l2, h.frame.warp, h.frame.splits, h.frame.warps, h.frame.groups, h.onCore, h.toRing, fun hh => by
      obtain ⟨pending, queue, split⟩ := h.nested hh
      exact ⟨pending, queue, by rw [split]; rfl, by rw [split]; rfl, by rw [split]; rfl⟩⟩
  refine ⟨fun code addr data hcode hfree hp => said (trapAt_takesTrap s code addr data htr hcode hfree hp),
    fun code addr data hfree => trapAt_late s code addr data hfree,
    fun f lane hcode hfree hp => said (transferTrap_takesTrap s f lane htr hcode hfree hp), ?_, ?_, ?_, ?_⟩
  · intro hfree
    have before : s.arrayBefore s.cur.wg s.cur.warp = true := by simpa [free] using hfree
    exact ⟨fun _ _ _ => afterArray_waits s _ before, fun _ _ => afterArray_waits s _ before⟩
  · intro g w n z hlive hst hpend hwait hfree hf
    refine ⟨_, waitWake_beforeTrap s g w n hlive hst hpend hwait hfree hf, ?_⟩
    rw [State.split_updSplit_same]
    show ({ z.again with since := s.tick } : Split) = { z with st := .run, wait := .nothing, met := none, replay := true, since := s.tick }
    simp [Split.again, hpend]
  · exact fun words => ⟨rfl, fun hfree hp => ⟨_, rfl, said (trapAt_takesTrap s 0x01 0 0 htr (by decide) hfree hp)⟩⟩
  · intro o code hit y
    refine ⟨fun hg => ⟨completes_advance (trap_of_not_acts s o hg), completes_advance (trapfence_of_not_acts s o hg)⟩, fun hg =>
      ⟨fun hc hfree hp => ⟨_, trap_of_acts s o hg hc, said (trapNext_takesTrap s 0x18 _ _ htr (by decide) hfree hp)⟩, ?_, ?_, ?_, ?_, ?_⟩⟩
    · intro hc hfree
      exact ⟨_, trap_of_acts s o hg hc, afterArray_waits s _ (by simpa [free] using hfree)⟩
    · exact trap_of_bad_code s o hg
    · intro busy
      exact ⟨_, trapfence_of_busy s o hg busy, onlyTouches_updCur s _ {}, congrArg Split.st (State.curSplit_updCur s _)⟩
    · exact fun idle none => completes_advance (trapfence_of_no_flag s o hg idle none)
    · intro idle some hp
      have hfree := arrayBefore_of_not_busy s _ _ idle
      exact ⟨_, trapfence_of_flag s o hg idle some, said (trapNext_takesTrap s 0x19 _ _ htr (by decide) hfree hp)⟩

end Sys2Proof.Machine
end

section
/-! PROOFS. What WSTAT reads (R31, R181, R205). -/
namespace Sys2Proof.Machine

/-! ## The guard of the instructions of class 000 -/

/-- Opcodes of class 000 name their guards alike (R144). -/
theorem acts_of_class0 (s : State) (op : Nat) (g : Guard) (h : op / 128 = 0) : s.acts op g = s.acts 0x070 g := by
  simp [State.acts, State.active, Warp.guardLanes, Warp.guardIsUniform, gfileClass, h]

/-- A privileged instruction whose guard holds nowhere only flows on. -/
theorem privileged_of_not_acts (s : State) (o : Args) (h : s.acts 0x070 o.g = false) :
    ∀ i ∈ [Instr.wstat o, .wregR o, .wregW o, .wresume o, .wkill o, .tlbinvPage o, .tlbinvAll o, .emuargs o, .emuargsW o],
      exec i s = .next s.advance := by
  have other (op : Nat) (hop : op / 128 = 0) : s.acts op o.g = false := (acts_of_class0 s op o.g hop).trans h
  simp [execWstat, execWregR, execWregW, execWresume, execWkill, execTlbinvPage, execTlbinvAll, execEmuargs, execEmuargsW, h,
    other 0x071 rfl, other 0x072 rfl, other 0x073 rfl, other 0x075 rfl, other 0x076 rfl]

/-- One that names no warp of its workgroup is illegal (R204). -/
theorem privileged_of_no_warp (s : State) (o : Args) (act : s.acts 0x070 o.g = true) (h : (s.warp s.cur.wg (s.uni o.a).toNat).live = false) :
    ∀ i ∈ [Instr.wstat o, .wregR o, .wregW o, .wresume o, .wkill o], exec i s = .next (s.illegalOperand 7) := by
  have other (op : Nat) (hop : op / 128 = 0) : s.acts op o.g = true := (acts_of_class0 s op o.g hop).trans act
  simp [execWstat, execWregR, execWregW, execWresume, execWkill, State.warpOk, act, h, other 0x071 rfl, other 0x072 rfl, other 0x073 rfl]

/-! ## Words written from a k register on -/

theorem Warp.getK_setKs (w : Warp) (n : Nat) (xs : List Word) (m : Nat) :
    (w.setKs n xs).getK m = if n ≤ m ∧ m < n + xs.length then xs.getD (m - n) 0 else w.getK m := by
  induction xs generalizing w n with
  | nil => exact (if_neg fun h => absurd (Nat.lt_of_le_of_lt h.1 h.2) (Nat.lt_irrefl n)).symm
  | cons x r ih =>
    rw [Warp.setKs, ih, Warp.getK_setK, List.length_cons]
    by_cases e : m = n
    · subst e
      rw [if_neg (by omega), if_pos rfl, if_pos (by omega), Nat.sub_self, List.getD_cons_zero]
    · by_cases inside : n + 1 ≤ m ∧ m < n + 1 + r.length
      · rw [if_pos inside, if_pos (by omega), show m - n = (m - (n + 1)) + 1 by omega, List.getD_cons_succ]
      · rw [if_neg inside, if_neg e, if_neg (by omega)]

/-- Writes of words to k registers change nothing else of a warp. -/
theorem Warp.setKs_rest (w : Warp) (n : Nat) (xs : List Word) : { w.setKs n xs with k := w.k } = w := by
  induction xs generalizing w n with
  | nil => rfl
  | cons x r ih => exact congrArg (fun y : Warp => { y with k := w.k }) (ih (w.setK n x) (n + 1))

/-- A field of a warp that is no k register stays. -/
theorem Warp.setKs_keeps {α : Type} (field : Warp → α) (hk : ∀ (y : Warp) (m : Sparse Word), field { y with k := m } = field y) (w : Warp)
    (n : Nat) (xs : List Word) : field (w.setKs n xs) = field w :=
  (hk (w.setKs n xs) w.k).symm.trans (congrArg field (w.setKs_rest n xs))

/-- An instruction that writes four words from a k register on and flows on. -/
theorem completes_setKs {i : Instr} {s : State} {d : Nat} {xs : List Word} (e : exec i s = .next (s.updCurWarp fun w => w.setKs d xs).advance) :
    ∃ t, Completes i s t { k := fun r => decide (d ≤ r) && decide (r < d + xs.length) } ∧
      ∀ j, j < xs.length → t.curWarp.getK (d + j) = xs.getD j 0 := by
  have splits : (s.curWarp.setKs d xs).splits = s.curWarp.splits := Warp.setKs_keeps Warp.splits (fun _ _ => rfl) ..
  refine ⟨_, completes_regs e splits (Warp.setKs_keeps (·.withRegsOf s.curWarp) (fun _ _ => rfl) ..) ?_
    (fun l n _ _ => Warp.setKs_keeps (·.getV l n) (fun _ _ => rfl) ..) (fun n l _ => Warp.setKs_keeps (fun w => (w.pred n).getLsbD l) (fun _ _ => rfl) ..)
    (fun n _ => Warp.setKs_keeps (·.upred n) (fun _ _ => rfl) ..) (fun _ => Warp.setKs_keeps Warp.flags (fun _ _ => rfl) ..), ?_⟩
  · intro m outside
    have : ¬(d ≤ m ∧ m < d + xs.length) := by simpa using outside
    rw [Warp.getK_setKs, if_neg this]
  · intro j hj
    rw [curWarp_regs splits]
    show (s.curWarp.setKs d xs).getK (d + j) = _
    rw [Warp.getK_setKs, if_pos (by omega), Nat.add_sub_cancel_left]

/-! ## Records as numbers -/

/-- Two words of a number, side by side. -/
theorem wordAt_append (x n : Nat) : (wordAt x (n + 1) ++ wordAt x n : DWord) = BitVec.ofNat 64 (x / 2 ^ (32 * n)) := by
  apply BitVec.eq_of_toNat_eq
  show (BitVec.ofNat 32 (x / 2 ^ (32 * (n + 1))) ++ BitVec.ofNat 32 (x / 2 ^ (32 * n)) : BitVec (32 + 32)).toNat = _
  rw [BitVec.toNat_append, BitVec.toNat_ofNat, BitVec.toNat_ofNat, BitVec.toNat_ofNat, show 32 * (n + 1) = 32 * n + 32 from Nat.mul_succ 32 n, Nat.pow_add,
    ← Nat.div_div_eq_div_mul, ← Nat.shiftLeft_add_eq_or_of_lt (Nat.mod_lt _ (by decide)), Nat.shiftLeft_eq]
  omega

/-- The lower half of a number of 128 bits. -/
theorem ofNat_high_add (high low : Nat) : BitVec.ofNat 64 (high * 2 ^ 64 + low) = BitVec.ofNat 64 low := by
  apply BitVec.eq_of_toNat_eq
  rw [BitVec.toNat_ofNat, BitVec.toNat_ofNat, Nat.mul_add_mod_self_right]

/-- Its upper half. -/
theorem high_add_div (high low : Nat) (h : low < 2 ^ 64) : (high * 2 ^ 64 + low) / 2 ^ 64 = high := by omega

/-- R31: a live split's entry, as its two halves. -/
theorem Split.statBits_of_live (x : Split) (live : x.live = true) (h : x.defer.length < 8) :
    x.statBits = (2 ^ 63 + x.stateBits * 2 ^ 60 + x.defer.length * 2 ^ 57 + x.shownPc.toNat) * 2 ^ 64 + x.mask.toNat := by
  have state : x.stateBits < 8 := by
    unfold Split.stateBits
    rw [live]
    cases x.st <;> cases x.handler <;> decide
  have pc := x.shownPc.isLt
  rw [Split.statBits, if_pos live, place, place, place, Nat.mod_eq_of_lt pc]
  omega

/-- R31: a deferral record's entry. -/
theorem DeferRec.statBits_eq (r : DeferRec) :
    r.statBits = (2 ^ 63 + (if r.arrived then 2 ^ 62 else 0) + r.pc.toNat) * 2 ^ 64 + r.mask.toNat := by
  have pc := r.pc.isLt
  rw [DeferRec.statBits, place, place, Nat.mod_eq_of_lt pc]
  cases r.arrived
  · simp [boolBit]; omega
  · simp [boolBit]; omega

/-- R181: a loop record's entry. -/
theorem LoopRec.statBits_eq (r : LoopRec) :
    r.statBits = (2 ^ 63 + r.first.toNat) * 2 ^ 64 + (r.endLine % 2 ^ 29 * 2 ^ 35 + r.endSlot % 8 * 2 ^ 32 + r.count.toNat) := by
  have first := r.first.isLt
  rw [LoopRec.statBits, place, place, place, Nat.mod_eq_of_lt first]
  omega

/-! ## The instruction -/

/-- WSTAT writes an item's two halves. -/
theorem wstat_of_item (s : State) (o : Args) (high low : Nat) (act : s.acts 0x070 o.g = true)
    (live : (s.warp s.cur.wg (s.uni o.a).toNat).live = true) (hlow : low < 2 ^ 64)
    (item : (s.warp s.cur.wg (s.uni o.a).toNat).statItem (s.uni o.b).toNat = some (high * 2 ^ 64 + low)) :
    ∃ t, Completes (.wstat o) s t { k := fun r => decide (o.d ≤ r) && decide (r < o.d + 4) } ∧
      t.curWarp.getK64 o.d = BitVec.ofNat 64 low ∧ t.curWarp.getK64 (o.d + 2) = BitVec.ofNat 64 high := by
  have e : exec (.wstat o) s =
      .next (s.updCurWarp fun y => y.setKs o.d ((List.range 4).map (wordAt (high * 2 ^ 64 + low)))).advance := by
    simp [execWstat, act, State.warpOk, live, item]
  obtain ⟨t, done, words⟩ := completes_setKs e
  have word (j : Nat) (hj : j < 4) : t.curWarp.getK (o.d + j) = wordAt (high * 2 ^ 64 + low) j := by
    rw [words j (by simpa using hj)]
    simp [List.getD_eq_getElem?_getD, hj]
  refine ⟨t, done, ?_, ?_⟩
  · rw [Warp.getK64, word 1 (by decide), show o.d = o.d + 0 from rfl, word 0 (by decide), wordAt_append]
    simpa using ofNat_high_add high low
  · rw [Warp.getK64, Nat.add_assoc, word 3 (by decide), word 2 (by decide), wordAt_append, show 32 * 2 = 64 from rfl, high_add_div high low hlow]

theorem Warp.statItem_split (w : Warp) (sel : Nat) (h : sel < 4) : w.statItem sel = some (w.split (sel % 4)).statBits := by
  unfold Warp.statItem
  rw [show sel / 2 ^ 12 = 0 by omega]
  exact if_pos h

theorem Warp.statItem_defer (w : Warp) (n pos : Nat) (hn : n < 4) (hpos : pos < 4) : w.statItem (2 ^ 12 + pos * 16 + n) =
    some (if (w.split n).live then (((w.split n).defer.reverse[pos]?).map DeferRec.statBits).getD 0 else 0) := by
  unfold Warp.statItem
  rw [show (2 ^ 12 + pos * 16 + n) / 2 ^ 12 = 1 by omega, show (2 ^ 12 + pos * 16 + n) % 4 = n by omega,
    show (2 ^ 12 + pos * 16 + n) / 16 % 8 = pos by omega, show (2 ^ 12 + pos * 16 + n) % 16 = n by omega,
    show (2 ^ 12 + pos * 16 + n) / 16 % 2 ^ 8 = pos by omega]
  simp [hn, hpos]

theorem Warp.statItem_loop (w : Warp) (n pos : Nat) (hn : n < 4) (hpos : pos < 4) : w.statItem (2 * 2 ^ 12 + pos * 16 + n) =
    some (if (w.split n).live then (((w.split n).loops.reverse[pos]?).map LoopRec.statBits).getD 0 else 0) := by
  unfold Warp.statItem
  rw [show (2 * 2 ^ 12 + pos * 16 + n) / 2 ^ 12 = 2 by omega, show (2 * 2 ^ 12 + pos * 16 + n) % 4 = n by omega,
    show (2 * 2 ^ 12 + pos * 16 + n) / 16 % 4 = pos by omega, show (2 * 2 ^ 12 + pos * 16 + n) % 16 = n by omega,
    show (2 * 2 ^ 12 + pos * 16 + n) / 16 % 2 ^ 8 = pos by omega]
  simp [hn, hpos]

theorem Warp.statItem_of_large (w : Warp) (sel : Nat) (h : 3 * 2 ^ 12 ≤ sel) : w.statItem sel = none := by
  unfold Warp.statItem
  obtain ⟨k, hk⟩ : ∃ k, sel / 2 ^ 12 = k + 3 := ⟨sel / 2 ^ 12 - 3, by omega⟩
  rw [hk]
  rfl

theorem wstat_illegal (s : State) (o : Args) (act : s.acts 0x070 o.g = true) (live : (s.warp s.cur.wg (s.uni o.a).toNat).live = true)
    (h : 3 * 2 ^ 12 ≤ (s.uni o.b).toNat) : exec (.wstat o) s = .next (s.illegalOperand 7) := by
  simp [execWstat, act, State.warpOk, live, Warp.statItem_of_large _ _ h]

end Sys2Proof.Machine
end

section
/-! PROOFS. What WREG reads and writes (R95, R102, R206, R293). -/
namespace Sys2Proof.Machine

/-! ## Selectors -/

theorem Warp.elem_v (w : Warp) (l n : Nat) (hn : n < w.regs) (hn8 : n < 256) (hl : l < w.width) (hl8 : l < 256) :
    w.elem (l * 2 ^ 16 + n) = some (.v l n) := by
  unfold Warp.elem
  rw [show (l * 2 ^ 16 + n) / 2 ^ 28 = 0 by omega, show (l * 2 ^ 16 + n) / 2 ^ 16 % 2 ^ 8 = l by omega, show (l * 2 ^ 16 + n) % 2 ^ 16 = n by omega,
    show (l * 2 ^ 16 + n) / 2 ^ 24 % 16 = 0 by omega]
  simp [hn, hn8, hl]

theorem Warp.elem_k (w : Warp) (n : Nat) (hn : n < 64) : w.elem (2 ^ 28 + n) = some (.k n) := by
  unfold Warp.elem
  rw [show (2 ^ 28 + n) / 2 ^ 28 = 1 by omega, show (2 ^ 28 + n) % 2 ^ 28 = n by omega, show (2 ^ 28 + n) % 64 = n by omega]
  exact if_pos hn

theorem Warp.elem_p (w : Warp) (l n : Nat) (hn : n < 7) (hl : l < w.width) (hl8 : l < 64) : w.elem (2 * 2 ^ 28 + l * 2 ^ 16 + n) = some (.p l n) := by
  unfold Warp.elem
  rw [show (2 * 2 ^ 28 + l * 2 ^ 16 + n) / 2 ^ 28 = 2 by omega, show (2 * 2 ^ 28 + l * 2 ^ 16 + n) / 2 ^ 16 % 2 ^ 8 = l by omega,
    show (2 * 2 ^ 28 + l * 2 ^ 16 + n) % 2 ^ 16 = n by omega, show (2 * 2 ^ 28 + l * 2 ^ 16 + n) / 2 ^ 24 % 16 = 0 by omega]
  simp [hn, hl]

theorem Warp.elem_kp (w : Warp) (n : Nat) (hn : n < 7) : w.elem (3 * 2 ^ 28 + n) = some (.kp n) := by
  unfold Warp.elem
  rw [show (3 * 2 ^ 28 + n) / 2 ^ 28 = 3 by omega, show (3 * 2 ^ 28 + n) % 2 ^ 28 = n by omega, show (3 * 2 ^ 28 + n) % 8 = n by omega]
  exact if_pos hn

theorem sreg_ofBits_toBits (r : SReg) : SReg.ofBits r.toBits = r := by cases r <;> rfl
theorem sreg_toBits_lt (r : SReg) : r.toBits < 21 := by cases r <;> decide

theorem Warp.elem_sreg (w : Warp) (r : SReg) : w.elem (4 * 2 ^ 28 + r.toBits) = some (.sreg r false) := by
  have small := sreg_toBits_lt r
  unfold Warp.elem
  rw [show (4 * 2 ^ 28 + r.toBits) / 2 ^ 28 = 4 by omega, show (4 * 2 ^ 28 + r.toBits) % 256 = r.toBits by omega,
    show (4 * 2 ^ 28 + r.toBits) % 2 ^ 28 = r.toBits by omega, sreg_ofBits_toBits r,
    show bitAt (4 * 2 ^ 28 + r.toBits) 8 = false from beq_false_of_ne (by omega)]
  simp [show r.toBits < 512 by omega]

theorem Warp.elem_progress_high (w : Warp) : w.elem (4 * 2 ^ 28 + 256 + 18) = some (.sreg .progress true) := rfl

theorem Warp.elem_resume (w : Warp) (n high : Nat) (hn : n < 4) (hh : high < 2) :
    w.elem (5 * 2 ^ 28 + high * 256 + n) = some (.resume n (high == 1)) := by
  have bit : bitAt (5 * 2 ^ 28 + high * 256 + n) 8 = (high == 1) :=
    congrArg (· == 1) (show (5 * 2 ^ 28 + high * 256 + n) / 2 ^ 8 % 2 = high by omega)
  unfold Warp.elem
  rw [show (5 * 2 ^ 28 + high * 256 + n) / 2 ^ 28 = 5 by omega, show (5 * 2 ^ 28 + high * 256 + n) % 2 ^ 28 / 512 = 0 by omega,
    show (5 * 2 ^ 28 + high * 256 + n) % 256 = n by omega, show (5 * 2 ^ 28 + high * 256 + n) % 4 = n by omega, bit]
  simp [hn]

theorem Warp.elem_of_large (w : Warp) (sel : Nat) (h : 6 * 2 ^ 28 ≤ sel) : w.elem sel = none := by
  unfold Warp.elem
  obtain ⟨k, hk⟩ : ∃ k, sel / 2 ^ 28 = k + 6 := ⟨sel / 2 ^ 28 - 6, by omega⟩
  rw [hk]
  rfl

/-! ## The instructions -/

theorem wregR_of_elem (s : State) (o : Args) (e : Elem) (x : Word) (act : s.acts 0x070 o.g = true)
    (live : (s.warp s.cur.wg (s.uni o.a).toNat).live = true) (elem : (s.warp s.cur.wg (s.uni o.a).toNat).elem (s.uni o.b).toNat = some e)
    (read : s.readElem (s.uni o.a).toNat e = some x) : ∃ t, Completes (.wregR o) s t { k := (· == o.d) } ∧ t.curWarp.getK o.d = x :=
  completes_setK (by simp [execWregR, (acts_of_class0 s 0x071 o.g rfl).trans act, State.warpOk, live, elem, read])

theorem wregR_of_none (s : State) (o : Args) (act : s.acts 0x070 o.g = true) (live : (s.warp s.cur.wg (s.uni o.a).toNat).live = true)
    (none : ((s.warp s.cur.wg (s.uni o.a).toNat).elem (s.uni o.b).toNat).bind (s.readElem (s.uni o.a).toNat) = none) :
    exec (.wregR o) s = .next (s.illegalOperand 7) := by
  simp [execWregR, (acts_of_class0 s 0x071 o.g rfl).trans act, State.warpOk, live, none]

theorem wregW_of_elem (s : State) (o : Args) (e : Elem) (u : State) (act : s.acts 0x070 o.g = true)
    (live : (s.warp s.cur.wg (s.uni o.a).toNat).live = true) (elem : (s.warp s.cur.wg (s.uni o.a).toNat).elem (s.uni o.b).toNat = some e)
    (write : s.writeElem (s.uni o.a).toNat e (s.uni o.c) = some u) : exec (.wregW o) s = .next u.advance := by
  simp [execWregW, (acts_of_class0 s 0x071 o.g rfl).trans act, State.warpOk, live, elem, write]

theorem wregW_of_none (s : State) (o : Args) (act : s.acts 0x070 o.g = true) (live : (s.warp s.cur.wg (s.uni o.a).toNat).live = true)
    (none : ((s.warp s.cur.wg (s.uni o.a).toNat).elem (s.uni o.b).toNat).bind (fun e => s.writeElem (s.uni o.a).toNat e (s.uni o.c)) = none) :
    exec (.wregW o) s = .next (s.illegalOperand 7) := by
  simp [execWregW, (acts_of_class0 s 0x071 o.g rfl).trans act, State.warpOk, live, none]

/-- After a change of one workgroup the issuing split flows on: nothing outside its workgroup has changed. -/
theorem sameElsewhere_updWg_advance (s : State) (f : Workgroup → Workgroup) : SameElsewhere s (s.updWg s.cur.wg f).advance :=
  (sameElsewhere_updWg s f).trans (onlyTouches_updCur (s.updWg s.cur.wg f) Split.advance {}).elsewhere

/-- Sequential flow changes no other warp. -/
theorem State.warp_advance_other (s : State) (v : Nat) (h : v ≠ s.cur.warp) : s.advance.warp s.cur.wg v = s.warp s.cur.wg v :=
  State.warp_updWarp_other s _ _ _ _ h

/-- What is read of a warp that does not concern its splits stays in sequential flow. -/
theorem State.warp_advance_withSplitsOf (s : State) (v : Nat) (y : Warp) :
    (s.advance.warp s.cur.wg v).withSplitsOf y = (s.warp s.cur.wg v).withSplitsOf y := by
  by_cases h : v = s.cur.warp
  · subst h
    exact congrArg (·.withSplitsOf y) (State.curWarp_updCur s Split.advance)
  · rw [State.warp_advance_other s v h]

/-- WREG.W of a register: the warp named has it, nothing else of it has changed, and the issuing split flows on. -/
theorem wregW_register (s : State) (o : Args) (e : Elem) (f : Warp → Warp) (act : s.acts 0x070 o.g = true)
    (live : (s.warp s.cur.wg (s.uni o.a).toNat).live = true) (elem : (s.warp s.cur.wg (s.uni o.a).toNat).elem (s.uni o.b).toNat = some e)
    (write : s.writeElem (s.uni o.a).toNat e (s.uni o.c) = some (s.updWarp s.cur.wg (s.uni o.a).toNat f))
    (hf : (f (s.warp s.cur.wg (s.uni o.a).toNat)).splits = (s.warp s.cur.wg (s.uni o.a).toNat).splits) :
    ∃ t, exec (.wregW o) s = .next t ∧ SameElsewhere s t ∧ t.curSplit = s.curSplit.advance ∧
      (t.warp s.cur.wg (s.uni o.a).toNat).withSplitsOf (s.warp s.cur.wg (s.uni o.a).toNat) = f (s.warp s.cur.wg (s.uni o.a).toNat) := by
  refine ⟨_, wregW_of_elem s o e _ act live elem write, sameElsewhere_updWg_advance s _, ?_, ?_⟩
  · rw [State.curSplit_advance]
    show Split.advance ((s.updWarp s.cur.wg (s.uni o.a).toNat f).split s.cur.wg s.cur.warp s.cur.split) = _
    by_cases own : s.cur.warp = (s.uni o.a).toNat
    · rw [own.symm] at hf ⊢
      exact congrArg Split.advance (State.curSplit_updCurWarp s f hf)
    · rw [State.split, State.warp_updWarp_other _ _ _ _ _ own]
      rfl
  · refine (State.warp_advance_withSplitsOf (s.updWarp s.cur.wg (s.uni o.a).toNat f) _ _).trans ?_
    show ((s.updWarp s.cur.wg (s.uni o.a).toNat f).warp s.cur.wg (s.uni o.a).toNat).withSplitsOf _ = _
    rw [State.warp_updWarp_same, Warp.withSplitsOf, ← hf]

/-! ## Special registers -/

theorem extractLsb'_setWidth_self (x : Word) : (x.setWidth 64).extractLsb' 0 32 = x := by
  apply BitVec.eq_of_toNat_eq
  rw [BitVec.extractLsb'_toNat, BitVec.toNat_setWidth]
  have := x.isLt
  omega

theorem State.readElem_mode (s : State) (w : Nat) : s.readElem w (.sreg .arithMode false) = some (s.warp s.cur.wg w).mode := by
  show some (((s.warp s.cur.wg w).mode.setWidth 64).extractLsb' 0 32) = _
  rw [extractLsb'_setWidth_self]
theorem State.readElem_flags (s : State) (w : Nat) : s.readElem w (.sreg .arithFlags false) = some (s.warp s.cur.wg w).flags := by
  show some (((s.warp s.cur.wg w).flags.setWidth 64).extractLsb' 0 32) = _
  rw [extractLsb'_setWidth_self]
theorem State.readElem_progress (s : State) (w : Nat) (high : Bool) :
    s.readElem w (.sreg .progress high) = some (halfOf high (s.warp s.cur.wg w).progress) := rfl

theorem Warp.writeMode_of_legal (w : Warp) (x : Word) (h : (x.extractLsb' 0 3).toNat ≤ 4) : w.writeMode x = some { w with mode := x &&& 0x1F } := by
  rw [BitVec.extractLsb'_toNat] at h
  exact if_neg (by omega)
theorem Warp.writeMode_of_reserved (w : Warp) (x : Word) (h : 4 < (x.extractLsb' 0 3).toNat) : w.writeMode x = none := by
  rw [BitVec.extractLsb'_toNat] at h
  exact if_pos (by omega)

/-! ## Resume PCs -/

/-- WREG of kind 5 on another warp's split applies in state in-trap alone (R206). -/
theorem State.resumeOk_other (s : State) (w n : Nat) (other : w ≠ s.cur.warp) :
    s.resumeOk w n = ((s.split s.cur.wg w n).live && (s.split s.cur.wg w n).st == .inTrap) := by
  simp [State.resumeOk, other]

theorem halfOf_eq (x : DWord) (high : Nat) (h : high < 2) : halfOf (high == 1) x = x.extractLsb' (32 * high) 32 := by
  match high, h with
  | 0, _ => rfl
  | 1, _ => rfl

/-- WREG.W of a resume PC. -/
theorem wregW_resume (s : State) (o : Args) (n : Nat) (high : Bool) (act : s.acts 0x070 o.g = true)
    (live : (s.warp s.cur.wg (s.uni o.a).toNat).live = true)
    (elem : (s.warp s.cur.wg (s.uni o.a).toNat).elem (s.uni o.b).toNat = some (.resume n high))
    (other : (s.uni o.a).toNat ≠ s.cur.warp) (ok : s.resumeOk (s.uni o.a).toNat n = true) :
    ∃ t, exec (.wregW o) s = .next t ∧ SameElsewhere s t ∧ t.curSplit = s.curSplit.advance ∧
      t.split s.cur.wg (s.uni o.a).toNat n =
        { s.split s.cur.wg (s.uni o.a).toNat n with
          resumeSeq := false, resume := (setHalf high ((s.split s.cur.wg (s.uni o.a).toNat n).resume.setWidth 64) (s.uni o.c)).setWidth 57 } := by
  refine ⟨_, wregW_of_elem s o _ _ act live elem (if_pos ok), sameElsewhere_updWg_advance s _, ?_, ?_⟩
  · rw [State.curSplit_advance]
    exact congrArg Split.advance (split_updSplit_of_ne s _ _ _ _ _ _ fun h => other (Prod.mk.inj h).1.symm)
  · refine (split_updSplit_of_ne _ _ _ _ _ _ _ fun h => other (Prod.mk.inj h).1).trans ?_
    exact State.split_updSplit_same s _ _ _ _

end Sys2Proof.Machine
end

section
/-! PROOFS. WRESUME and WKILL (R36, R41, R207, R383). -/
namespace Sys2Proof.Machine

/-! ## WRESUME -/

theorem wresume_of_inTrap (s : State) (o : Args) (act : s.acts 0x070 o.g = true) (live : (s.warp s.cur.wg (s.uni o.a).toNat).live = true)
    (hn : (s.uni o.b).toNat < 4) (other : (s.uni o.a).toNat ≠ s.cur.warp)
    (hlive : (s.split s.cur.wg (s.uni o.a).toNat (s.uni o.b).toNat).live = true)
    (hst : (s.split s.cur.wg (s.uni o.a).toNat (s.uni o.b).toNat).st = .inTrap)
    (good : s.progressBad s.cur.wg (s.uni o.a).toNat (s.uni o.b).toNat = false) :
    exec (.wresume o) s = .next (s.resumeSplit s.cur.wg (s.uni o.a).toNat (s.uni o.b).toNat).advance := by
  simp [execWresume, (acts_of_class0 s 0x072 o.g rfl).trans act, State.warpOk, live, show ¬3 < (s.uni o.b).toNat by omega, other, hlive, hst, good]

theorem wresume_illegal (s : State) (o : Args) (act : s.acts 0x070 o.g = true) (live : (s.warp s.cur.wg (s.uni o.a).toNat).live = true)
    (hn : (s.uni o.b).toNat < 4) (other : (s.uni o.a).toNat ≠ s.cur.warp)
    (hst : (s.split s.cur.wg (s.uni o.a).toNat (s.uni o.b).toNat).st ≠ .inTrap) :
    exec (.wresume o) s = .next (s.illegalOperand 7) := by
  simp [execWresume, (acts_of_class0 s 0x072 o.g rfl).trans act, State.warpOk, live, show ¬3 < (s.uni o.b).toNat by omega, other, hst]

/-- A trapped split that has not entered its handler, as WRESUME leaves it. -/
def Split.resumed (x : Split) (tick : Nat) : Split :=
  { Split.goTo { x with handler := false } x.resume x.resumeSeq with trap := none, bank := [], emu := none, stopped := false, since := tick }

theorem resumeSplit_of_not_handler (s : State) (g w n : Nat) (h : (s.split g w n).handler = false)
    (chain : s.stoppedChain g w n (s.split g w n).resume = none) :
    s.resumeSplit g w n = (s.updSplit g w n fun _ => (s.split g w n).resumed s.tick).leaveHandler g w n := by
  simp only [State.resumeSplit, h, chain, Bool.false_eq_true, if_false]
  rfl

theorem split_leaveHandler (s : State) (g w n v m : Nat) : (s.leaveHandler g w n).split g v m = s.split g v m :=
  congrArg (fun x : Warp => x.split m) (warp_updWg_of_warps s g v _ rfl)

theorem resumeSplit_split (s : State) (g w n : Nat) (h : (s.split g w n).handler = false)
    (chain : s.stoppedChain g w n (s.split g w n).resume = none) (v m : Nat) :
    (s.resumeSplit g w n).split g v m = if (v, m) = (w, n) then (s.split g w n).resumed s.tick else s.split g v m := by
  rw [resumeSplit_of_not_handler s g w n h chain, split_leaveHandler]
  split
  next same =>
    obtain ⟨rfl, rfl⟩ := Prod.mk.inj same
    exact State.split_updSplit_same s g v m _
  next ne => exact split_updSplit_of_ne s g w n _ v m ne

/-- A split that has left its handler waits for none. -/
theorem not_mem_trapQueue_leaveHandler (s : State) (g w n : Nat) : (w, n) ∉ ((s.leaveHandler g w n).wg g).trapQueue := by
  rw [State.leaveHandler, State.wg_updWg_same]
  simp

theorem trapQueue_advance (s : State) : s.advance.curWg.trapQueue = s.curWg.trapQueue := by
  show (s.advance.wg s.cur.wg).trapQueue = _
  rw [State.advance, State.updCur, State.updSplit, State.updWarp, State.wg_updWg_same]
  rfl

/-- WRESUME of another warp's split. -/
theorem resumeSplit_advance (s : State) (w n : Nat) (other : w ≠ s.cur.warp) (h : (s.split s.cur.wg w n).handler = false)
    (hold : (s.split s.cur.wg w n).holdNext = none) (chain : s.stoppedChain s.cur.wg w n (s.split s.cur.wg w n).resume = none) :
    let t := (s.resumeSplit s.cur.wg w n).advance
    SameElsewhere s t ∧ t.curSplit = s.curSplit.advance ∧ (t.split s.cur.wg w n).st = .run ∧
      (t.split s.cur.wg w n).pc = (s.split s.cur.wg w n).resume ∧ (t.split s.cur.wg w n).trap = none ∧ (w, n) ∉ t.curWg.trapQueue := by
  have shape := resumeSplit_of_not_handler s s.cur.wg w n h chain
  have own : (s.resumeSplit s.cur.wg w n).curSplit = s.curSplit := by
    show (s.resumeSplit s.cur.wg w n).split (s.resumeSplit s.cur.wg w n).cur.wg (s.resumeSplit s.cur.wg w n).cur.warp _ = _
    rw [show (s.resumeSplit s.cur.wg w n).cur = s.cur by rw [shape]; rfl, resumeSplit_split s _ _ _ h chain, if_neg fun e => other (Prod.mk.inj e).1.symm]
    rfl
  have target : (s.resumeSplit s.cur.wg w n).advance.split s.cur.wg w n = (s.split s.cur.wg w n).resumed s.tick := by
    have cur : (s.resumeSplit s.cur.wg w n).cur = s.cur := by rw [shape]; rfl
    have flow := split_updSplit_of_ne (s.resumeSplit s.cur.wg w n) s.cur.wg s.cur.warp s.cur.split Split.advance w n fun e => other (Prod.mk.inj e).1
    rw [State.advance, State.updCur, cur, flow, resumeSplit_split s _ _ _ h chain, if_pos rfl]
  refine ⟨?_, ?_, ?_, ?_, ?_, ?_⟩
  · rw [shape]
    exact (sameElsewhere_updWg s fun x => x.setWarp w _).trans (sameElsewhere_updWg_advance (s.updSplit s.cur.wg w n _) _)
  · rw [State.curSplit_advance, own]
  · rw [target]; simp [Split.resumed, Split.goTo, hold]
  · rw [target]; rfl
  · rw [target]; rfl
  · rw [trapQueue_advance, shape]
    exact not_mem_trapQueue_leaveHandler _ _ _ _

/-! ## What the end of a warp leaves of the other splits -/

/-- Does a split wait? Only such a split can be an orphan (R41). -/
def Split.waits (x : Split) : Bool := x.live && x.st == .wait

/-- Between `s` and `t` the issuing split is the same one, the workgroup's exited warps are the same, and its splits that do not wait stay. -/
structure KeepsIdle (g : Nat) (s t : State) : Prop where
  cur : t.cur = s.cur
  exited : ∀ v, (t.warp g v).exited = (s.warp g v).exited
  splits : ∀ v m, (s.split g v m).waits = false → t.split g v m = s.split g v m

namespace KeepsIdle

theorem refl (g : Nat) (s : State) : KeepsIdle g s s := ⟨rfl, fun _ => rfl, fun _ _ _ => rfl⟩

theorem trans {g : Nat} {s t u : State} (h : KeepsIdle g s t) (k : KeepsIdle g t u) : KeepsIdle g s u where
  cur := k.cur.trans h.cur
  exited v := (k.exited v).trans (h.exited v)
  splits v m idle := by rw [k.splits v m (by rw [h.splits v m idle]; exact idle), h.splits v m idle]

theorem of_warps {g : Nat} {s t : State} (hcur : t.cur = s.cur) (h : ∀ v, t.warp g v = s.warp g v) : KeepsIdle g s t :=
  ⟨hcur, fun v => congrArg Warp.exited (h v), fun v m _ => congrArg (fun x : Warp => x.split m) (h v)⟩

theorem of_memoryOnly {g : Nat} {s t : State} (h : MemoryOnly s t) : KeepsIdle g s t := of_warps h.cur (warp_congr h.wgs g)

/-- A change of the workgroup outside its warps. -/
theorem updWg {g : Nat} (s : State) (f : Workgroup → Workgroup) (h : (f (s.wg g)).warps = (s.wg g).warps) : KeepsIdle g s (s.updWg g f) :=
  of_warps rfl fun v => warp_updWg_of_warps s g v f h

/-- A trap of a split that waits. -/
theorem trapSplit {g : Nat} (s : State) (w n code addr data : Nat) (resume : PC × Bool) (slot : Slot) (h : (s.split g w n).waits = true) :
    KeepsIdle g s (s.trapSplit g w n code addr data resume slot) where
  cur := trapSplit_cur ..
  exited := trapSplit_exited s g w n code addr data resume slot
  splits v m idle := by
    refine trapSplit_split_of_ne s g w n code addr data resume slot v m fun e => ?_
    obtain ⟨rfl, rfl⟩ := Prod.mk.inj e
    rw [h] at idle
    cases idle

end KeepsIdle

theorem perform_memoryOnly (s : State) (core : Nat) (p : LateStore → Bool) : MemoryOnly s (s.perform core p) :=
  (congrArg (fun u : State => u.withMemoryOf s) (perform_rest s core p) :
    ((s.perform core p).withStoresOf s).withMemoryOf s = s.withMemoryOf s)

theorem performSplit_memoryOnly (s : State) (g w n : Nat) : MemoryOnly s (s.performSplit g w n) := by
  unfold State.performSplit State.performIf
  split
  · exact perform_memoryOnly s _ _
  · rfl

/-- The flume-orphan traps of R41 leave the splits that do not wait. -/
theorem orphans_keepsIdle (s : State) (g : Nat) : KeepsIdle g s (s.orphans g) := by
  refine foldl_keeps (KeepsIdle g s) _ _ (fun t p k => ?_) s (.refl g s)
  dsimp only
  split
  next waiting =>
    split
    next f _ =>
      split
      · exact k
      · have left : KeepsIdle g t ((t.performSplit g p.1 p.2).updWg g fun wg => wg.leaveFlumes p.1 p.2) :=
          (KeepsIdle.of_memoryOnly (performSplit_memoryOnly t g p.1 p.2)).trans (.updWg _ _ rfl)
        have same : ((t.performSplit g p.1 p.2).updWg g fun wg => wg.leaveFlumes p.1 p.2).split g p.1 p.2 = t.split g p.1 p.2 :=
          (congrArg (fun x : Warp => x.split p.2) (warp_updWg_of_warps _ g p.1 _ rfl)).trans (split_congr (performSplit_wgs t g p.1 p.2) g p.1 p.2)
        refine k.trans (left.trans (.trapSplit _ p.1 p.2 _ _ _ _ _ ?_))
        rw [same, Split.waits]
        simp only [Bool.and_eq_true] at waiting ⊢
        exact waiting.1.1
    · exact k
  · exact k

/-! ## The end of a warp -/

/-- A warp whose splits have all ended: its stores are performed, it has exited, and its chain ends (R36, R294). -/
def State.markExited (s : State) (g w : Nat) : State :=
  ((s.perform (s.wg g).core fun l => l.isOf g w).updWarp g w fun x => { x with exited := true }).updCore (s.wg g).core fun c =>
    { c with chain := c.chain.map fun h => h.close g w, queue := c.queue.map fun h => h.close g w }

theorem markExited_cur (s : State) (g w : Nat) : (s.markExited g w).cur = s.cur :=
  (perform_memoryOnly s (s.wg g).core fun l => l.isOf g w).cur

theorem markExited_exited (s : State) (g w : Nat) : ((s.markExited g w).warp g w).exited = true :=
  congrArg Warp.exited (State.warp_updWarp_same (s.perform (s.wg g).core fun l => l.isOf g w) g w fun x => { x with exited := true })

theorem markExited_split (s : State) (g w v m : Nat) : (s.markExited g w).split g v m = s.split g v m := by
  have performed := split_congr (perform_wgs s (s.wg g).core fun l => l.isOf g w) g v m
  have updated : (s.markExited g w).warp g v = (((s.perform (s.wg g).core fun l => l.isOf g w).updWarp g w fun x => { x with exited := true }).warp g v) := rfl
  rw [State.split, updated]
  by_cases own : v = w
  · subst own
    rw [State.warp_updWarp_same]
    exact performed
  · rw [State.warp_updWarp_other _ _ _ _ _ own]
    exact performed

theorem warpExited_eq (s : State) (g w : Nat) : s.warpExited g w =
    if (((s.markExited g w).orphans g).wg g).warps.all fun p => p.2.exited then
      (((s.markExited g w).orphans g).updWg g fun x => { x with exited := true, handler := none, trapQueue := [] }).updCore (s.wg g).core fun c =>
        { c with releases := c.releases ++ [{ wg := g, who := none, scope := .device }] }
    else (s.markExited g w).orphans g := rfl

/-- What follows for the workgroup leaves the splits that do not wait. -/
theorem warpExited_keepsIdle (s : State) (g w : Nat) : KeepsIdle g (s.markExited g w) (s.warpExited g w) := by
  refine (orphans_keepsIdle (s.markExited g w) g).trans ?_
  rw [warpExited_eq]
  generalize (s.markExited g w).orphans g = t
  split
  · have left : KeepsIdle g t (t.updWg g fun x => { x with exited := true, handler := none, trapQueue := [] }) := .updWg t _ rfl
    exact left.trans (.of_memoryOnly (MemoryOnly.updCore _ (s.wg g).core _))
  · exact .refl g t

/-! ## WKILL -/

/-- WKILL ends a split (R207). -/
def State.endSplit (s : State) (g w n : Nat) : State :=
  if (s.split g w n).live then (s.leaveQueues g w n).updSplit g w n fun _ => {} else s

theorem killWarp_eq (s : State) (g w : Nat) (live : (s.warp g w).live = true) (running : (s.warp g w).exited = false) :
    s.killWarp g w = (splitIxs.foldl (fun t n => t.endSplit g w n) (s.discardChain g w)).warpExited g w := by
  simp only [State.killWarp, live, running, Bool.not_false, Bool.and_self, if_true]
  rfl

theorem freeArrays_memoryOnly (s : State) (core : Nat) (paired : Bool) : MemoryOnly s (s.freeArrays core paired) := by
  unfold State.freeArrays
  simp only
  split
  · exact (MemoryOnly.updCore s core _).trans (.updCore _ (core + 1) _)
  · exact .updCore s core _

theorem relend_memoryOnly (s : State) (core : Nat) : MemoryOnly s (s.relend core) := by
  unfold State.relend
  simp only
  split
  · exact .updCore s (core + 1) _
  · exact .refl s

theorem discardChain_memoryOnly (s : State) (g w : Nat) : MemoryOnly s (s.discardChain g w) := by
  unfold State.discardChain
  extract_lets core c s1
  have freed : MemoryOnly s s1 := by
    simp only [s1]
    split
    · split
      · exact freeArrays_memoryOnly s _ _
      · exact .refl s
    · exact .refl s
  exact (freed.trans (.updCore s1 core _)).trans (relend_memoryOnly _ core)

theorem endSplit_cur (s : State) (g w n : Nat) : (s.endSplit g w n).cur = s.cur := by
  unfold State.endSplit; split <;> rfl

theorem split_leaveQueues (s : State) (g w n v m : Nat) : (s.leaveQueues g w n).split g v m = s.split g v m :=
  (split_leaveHandler _ g w n v m).trans (congrArg (fun x : Warp => x.split m) (warp_updWg_of_warps s g v (·.leaveFlumes w n) rfl))

theorem endSplit_dead (s : State) (g w n : Nat) : ((s.endSplit g w n).split g w n).live = false := by
  unfold State.endSplit
  split
  next => rw [State.split_updSplit_same]
  next dead => simpa using dead

theorem endSplit_split_of_ne (s : State) (g w n v m : Nat) (h : (v, m) ≠ (w, n)) : (s.endSplit g w n).split g v m = s.split g v m := by
  unfold State.endSplit
  split
  · rw [split_updSplit_of_ne _ _ _ _ _ _ _ h, split_leaveQueues]
  · rfl

/-- A split that has ended stays so. -/
theorem endSplit_keeps_dead (s : State) (g w n m : Nat) (h : (s.split g w m).live = false) : ((s.endSplit g w n).split g w m).live = false := by
  by_cases same : m = n
  · subst same; exact endSplit_dead s g w m
  · rw [endSplit_split_of_ne s g w n w m fun e => same (Prod.mk.inj e).2]; exact h

theorem endSplits_dead (g w : Nat) (l : List Nat) (s : State) (n : Nat) (h : n ∈ l ∨ (s.split g w n).live = false) :
    ((l.foldl (fun t m => t.endSplit g w m) s).split g w n).live = false := by
  induction l generalizing s with
  | nil => simpa using h
  | cons a r ih =>
    refine ih _ ?_
    rcases h with h | h
    · rcases List.mem_cons.1 h with rfl | h
      · exact .inr (endSplit_dead s g w n)
      · exact .inl h
    · exact .inr (endSplit_keeps_dead s g w a n h)

/-- WKILL of a warp that runs: it has exited, its splits have ended, and another warp's splits that do not wait stay. -/
theorem killWarp_ends (s : State) (g w : Nat) (live : (s.warp g w).live = true) (running : (s.warp g w).exited = false) :
    (s.killWarp g w).cur = s.cur ∧ ((s.killWarp g w).warp g w).exited = true ∧ (∀ n, n < 4 → ((s.killWarp g w).split g w n).live = false) ∧
      ∀ v m, v ≠ w → (s.split g v m).waits = false → (s.killWarp g w).split g v m = s.split g v m := by
  have discarded := discardChain_memoryOnly s g w
  have cur : (splitIxs.foldl (fun t n => t.endSplit g w n) (s.discardChain g w)).cur = s.cur :=
    foldl_keeps (fun t : State => t.cur = s.cur) _ _ (fun t n h => (endSplit_cur t g w n).trans h) _ discarded.cur
  have dead (n : Nat) (hn : n < 4) := endSplits_dead g w splitIxs (s.discardChain g w) n (.inl (by simp [splitIxs]; omega))
  have others (v m : Nat) (h : v ≠ w) : (splitIxs.foldl (fun t n => t.endSplit g w n) (s.discardChain g w)).split g v m = s.split g v m :=
    foldl_keeps (fun t : State => t.split g v m = s.split g v m) _ _
      (fun t n k => (endSplit_split_of_ne t g w n v m fun e => h (Prod.mk.inj e).1).trans k) _ (split_congr discarded.wgs g v m)
  rw [killWarp_eq s g w live running]
  generalize splitIxs.foldl (fun t n => t.endSplit g w n) (s.discardChain g w) = t at cur dead others
  have idle := warpExited_keepsIdle t g w
  have keeps (v m : Nat) (h : (t.split g v m).waits = false) : (t.warpExited g w).split g v m = t.split g v m := by
    rw [idle.splits v m (by rw [markExited_split]; exact h), markExited_split]
  refine ⟨idle.cur.trans ((markExited_cur t g w).trans cur), (idle.exited w).trans (markExited_exited t g w), fun n hn => ?_, fun v m ne h => ?_⟩
  · rw [keeps w n (by simp [Split.waits, dead n hn]), dead n hn]
  · rw [keeps v m (by rw [others v m ne]; exact h), others v m ne]

theorem wkill_of_acts (s : State) (o : Args) (act : s.acts 0x070 o.g = true) (live : (s.warp s.cur.wg (s.uni o.a).toNat).live = true) :
    exec (.wkill o) s = .next (if (s.uni o.a).toNat = s.cur.warp then s.killWarp s.cur.wg (s.uni o.a).toNat
      else (s.killWarp s.cur.wg (s.uni o.a).toNat).advance) := by
  simp only [exec_wkill, execWkill, (acts_of_class0 s 0x073 o.g rfl).trans act, State.warpOk, live, Bool.not_true, Bool.false_eq_true, if_false]
  split <;> rfl

end Sys2Proof.Machine
end

section
/-! PROOFS. TLBINV and its completion (R58, R208, R355). -/
namespace Sys2Proof.Machine

/-! ## The start -/

theorem tlbinv_of_acts (s : State) (o : Args) (act : s.acts 0x070 o.g = true) :
    exec (.tlbinvAll o) s = .next (s.invalidate (.tlbinvAll o) none) ∧
      exec (.tlbinvPage o) s = .next (s.invalidate (.tlbinvPage o) (some ((s.uni64 o.a).toNat % 2 ^ 57))) := by
  have act5 := (acts_of_class0 s 0x075 o.g rfl).trans act
  exact ⟨by simp [execTlbinvAll, act5], by simp [execTlbinvPage, act5]⟩

/-- The split waits for its invalidation, which is the last of those under way. -/
theorem invalidate_waits (s : State) (i : Instr) (page : Option Nat) :
    (s.invalidate i page).curSplit = { s.curSplit with st := .wait, pend := some i, wait := .inval, met := none, since := s.tick } ∧
      (s.invalidate i page).invals =
        s.invals ++ [{ ctx := s.curWg.ctx, page := page, who := some (s.cur.wg, s.cur.warp, s.cur.split) }] ∧
      (s.invalidate i page).cores = s.cores :=
  ⟨State.curSplit_updCur s fun x => { x with st := .wait, pend := some i, wait := .inval, met := none, since := s.tick }, rfl, rfl⟩

/-! ## Every late store performed -/

/-- Every store of every core that is not performed yet is performed (log entry 69). -/
def State.performAll (s : State) : State := s.cores.foldl (fun t p => t.perform p.1 fun _ => true) s

theorem performAll_rest (s : State) : s.performAll.withStoresOf s = s :=
  foldl_keeps (fun t : State => t.withStoresOf s = s) _ _ (fun t p h =>
    calc (t.perform p.1 _).withStoresOf s = ((t.perform p.1 _).withStoresOf t).withStoresOf s := rfl
      _ = s := by rw [perform_rest, h]) s rfl

theorem performAll_wgs (s : State) : s.performAll.wgs = s.wgs := (congrArg State.wgs (performAll_rest s) : (s.performAll.withStoresOf s).wgs = s.wgs)
theorem performAll_tick (s : State) : s.performAll.tick = s.tick := (congrArg State.tick (performAll_rest s) : (s.performAll.withStoresOf s).tick = s.tick)
theorem performAll_tlbcmd (s : State) : s.performAll.tlbcmd = s.tlbcmd :=
  (congrArg State.tlbcmd (performAll_rest s) : (s.performAll.withStoresOf s).tlbcmd = s.tlbcmd)

theorem performAll_tlb (s : State) (c : Nat) : (s.performAll.core c).tlb = (s.core c).tlb :=
  foldl_keeps (fun t : State => (t.core c).tlb = (s.core c).tlb) _ _ (fun t p h => (perform_tlb t p.1 _ c).trans h) s rfl

/-- A core has no late store left once it is one of those whose stores are performed. -/
theorem perform_all_late (l : List (Nat × Core)) (s : State) (c : Nat) (h : (∃ p ∈ l, p.1 = c) ∨ (s.core c).late = []) :
    ((l.foldl (fun t p => t.perform p.1 fun _ => true) s).core c).late = [] := by
  induction l generalizing s with
  | nil => simpa using h
  | cons a r ih =>
    have step : ((s.perform a.1 fun _ => true).core c).late = if c = a.1 then [] else (s.core c).late := by
      have gone : ((s.core c).late.filter fun _ => !true) = [] := List.filter_eq_nil_iff.2 fun _ _ => Bool.false_ne_true
      rw [perform_late, gone]
    refine ih _ ?_
    rcases h with ⟨p, hp, rfl⟩ | h
    · rcases List.mem_cons.1 hp with rfl | hp
      · exact .inr (step.trans (if_pos rfl))
      · exact .inl ⟨p, hp, rfl⟩
    · refine .inr (step.trans ?_)
      split
      · rfl
      · exact h

theorem performAll_late (s : State) (c : Nat) : (s.performAll.core c).late = [] := by
  refine perform_all_late s.cores s c ?_
  by_cases listed : ∃ p ∈ s.cores, p.1 = c
  · exact .inl listed
  · exact .inr (by rw [core_of_unlisted s c fun p hp e => listed ⟨p, hp, e⟩])

/-! ## The translations dropped -/

/-- The state in which an invalidation is complete: it is gone, and the translations that it names are. -/
def State.invalidated (s : State) (ix : Nat) (v : Inval) : State :=
  { s.performAll with invals := s.invals.eraseIdx ix,
                      cores := s.performAll.cores.map fun p => (p.1, { p.2 with tlb := p.2.tlb.filter fun e => !v.drops e }) }

theorem invalidated_core (s : State) (ix : Nat) (v : Inval) (c : Nat) :
    (s.invalidated ix v).core c = { s.performAll.core c with tlb := (s.performAll.core c).tlb.filter fun e => !v.drops e } :=
  sget_map (fun _ => ({} : Core)) (fun x : Core => { x with tlb := x.tlb.filter fun e => !v.drops e }) s.performAll.cores c rfl

theorem invalidated_late (s : State) (ix : Nat) (v : Inval) (c : Nat) : ((s.invalidated ix v).core c).late = [] := by
  rw [invalidated_core]; exact performAll_late s c

theorem invalidated_tlb (s : State) (ix : Nat) (v : Inval) (c : Nat) :
    ((s.invalidated ix v).core c).tlb = (s.core c).tlb.filter fun e => !v.drops e := by
  rw [invalidated_core, ← performAll_tlb s c]

theorem tlbInvalidationComplete_of_driver (s : State) (ix : Nat) (v : Inval) (h : s.invals[ix]? = some v) (who : v.who = none) :
    exec (.tlbInvalidationComplete ix) s = .next { s.invalidated ix v with tlbcmd := (s.invalidated ix v).tlbcmd &&& 0x7FFFFFFF } := by
  simp only [exec_tlbInvalidationComplete, execTlbInvalidationComplete, h, who]
  rfl

/-- A split goes on that waits in TLBINV. -/
def State.inTlbinv (s : State) (g w n : Nat) : Bool := (s.split g w n).live && (s.split g w n).st == .wait && (s.split g w n).wait == .inval

theorem tlbInvalidationComplete_of_split (s : State) (ix : Nat) (v : Inval) (g w n : Nat) (h : s.invals[ix]? = some v) (who : v.who = some (g, w, n)) :
    exec (.tlbInvalidationComplete ix) s =
      if (s.invalidated ix v).inTlbinv g w n then .next ((s.invalidated ix v).goOn g w n) else .next (s.invalidated ix v) := by
  simp only [exec_tlbInvalidationComplete, execTlbInvalidationComplete, h, who]
  rfl

/-! ## The split that waited goes on -/

/-- Between `s` and `t` the invalidations under way and the translations of every core are the same, and a core without late stores has none. -/
structure KeepsTlbs (s t : State) : Prop where
  invals : t.invals = s.invals
  tlb : ∀ c, (t.core c).tlb = (s.core c).tlb
  late : ∀ c, (s.core c).late = [] → (t.core c).late = []

namespace KeepsTlbs

theorem refl (s : State) : KeepsTlbs s s := ⟨rfl, fun _ => rfl, fun _ h => h⟩

theorem trans {s t u : State} (h : KeepsTlbs s t) (k : KeepsTlbs t u) : KeepsTlbs s u :=
  ⟨k.invals.trans h.invals, fun c => (k.tlb c).trans (h.tlb c), fun c n => k.late c (h.late c n)⟩

theorem foldl {β : Type} (f : State → β → State) (h : ∀ t b, KeepsTlbs t (f t b)) (l : List β) (s : State) : KeepsTlbs s (l.foldl f s) :=
  foldl_keeps (KeepsTlbs s) f l (fun t b k => k.trans (h t b)) s (.refl s)

theorem of_cores {s t : State} (hi : t.invals = s.invals) (hc : t.cores = s.cores) : KeepsTlbs s t where
  invals := hi
  tlb c := by unfold State.core; rw [hc]
  late c h := by unfold State.core at h ⊢; rw [hc]; exact h

theorem updCore (s : State) (core : Nat) (f : Core → Core) (htlb : ∀ x, (f x).tlb = x.tlb) (hlate : ∀ x, x.late = [] → (f x).late = []) :
    KeepsTlbs s (s.updCore core f) where
  invals := rfl
  tlb c := by
    by_cases h : c = core
    · subst h; rw [State.core_updCore_same, htlb]
    · rw [State.core_updCore_other _ _ _ _ h]
  late c n := by
    by_cases h : c = core
    · subst h; rw [State.core_updCore_same]; exact hlate _ n
    · rw [State.core_updCore_other _ _ _ _ h]; exact n

end KeepsTlbs

/-- A barrier is of scope WG or CLUSTER, at which an acquire reaches no other die (R77). -/
theorem barrierScope_narrow (s : State) (g b : Nat) : ¬4 ≤ (s.barrierScope g b).toBits := by
  unfold State.barrierScope; split <;> decide

theorem acquireBy_keepsTlbs (s : State) (g w n : Nat) (scope : Scope) (h : ¬4 ≤ scope.toBits) : KeepsTlbs s (s.acquireBy g w n scope) := by
  have acquired : KeepsTlbs s (s.acquireAt (s.wg g).core scope) := by
    unfold State.acquireAt
    rw [if_neg h]
    exact .updCore s _ _ (fun _ => rfl) fun _ none => none
  refine acquired.trans ?_
  unfold State.acquireBy State.learn State.mapLate
  split
  · exact .refl _
  · exact .updCore _ _ _ (fun _ => rfl) fun x none => by simp [none]

theorem setBarrier_keepsTlbs (s : State) (g b : Nat) (x : Barrier) : KeepsTlbs s (s.setBarrier g b x) := by
  unfold State.setBarrier
  split
  · exact .of_cores rfl rfl
  · exact .of_cores rfl rfl

theorem wakeBarrier_keepsTlbs (s : State) (g b : Nat) : KeepsTlbs s (s.wakeBarrier g b) :=
  KeepsTlbs.foldl _ (fun t h => KeepsTlbs.foldl _ (fun u p => by
    dsimp only
    split
    · split
      · exact (KeepsTlbs.of_cores rfl rfl : KeepsTlbs u (u.updSplit h p.1 p.2 fun y => { y.advance with since := u.tick })).trans
          (acquireBy_keepsTlbs _ h p.1 p.2 _ (barrierScope_narrow u h b))
      · exact .refl u
    · exact .refl u) (t.wg h).splitKeys t) (s.barrierGroups g b) s

theorem arrive_keepsTlbs (s : State) (g b : Nat) : KeepsTlbs s (s.arrive g b) := by
  unfold State.arrive
  simp only
  split
  · exact (setBarrier_keepsTlbs s g b _).trans (wakeBarrier_keepsTlbs _ g b)
  · exact setBarrier_keepsTlbs s g b _

theorem barrierWait_keepsTlbs (s : State) (i : Instr) (b : Nat) (kg : Word) : KeepsTlbs s (s.barrierWait i b kg) := by
  unfold State.barrierWait
  split
  · exact (acquireBy_keepsTlbs s _ _ _ _ (barrierScope_narrow s s.cur.wg b)).trans (.of_cores rfl rfl)
  · exact .of_cores rfl rfl

theorem afterRelease_keepsTlbs (s : State) : KeepsTlbs s s.afterRelease := by
  unfold State.afterRelease
  split
  · have read (d : Nat) (x : Word) : KeepsTlbs s (s.updCurWarp fun w => w.setK d x).advance := .of_cores rfl rfl
    exact (read _ _).trans (arrive_keepsTlbs _ s.cur.wg _)
  · exact (arrive_keepsTlbs s s.cur.wg _).trans (barrierWait_keepsTlbs _ _ _ _)
  · exact .of_cores rfl rfl

theorem goOn_keepsTlbs (s : State) (g w n : Nat) : KeepsTlbs s (s.goOn g w n) := by
  unfold State.goOn
  split
  · exact .of_cores rfl rfl
  · exact (KeepsTlbs.of_cores rfl rfl : KeepsTlbs s (s.actAs g w n)).trans ((afterRelease_keepsTlbs _).trans (.of_cores rfl rfl))

/-- A split that does not stand still for a handler, and that waits in TLBINV, completes it. -/
theorem goOn_split (s : State) (g w n : Nat) (free : s.frozen g w n = false) (o : Args)
    (pend : (s.split g w n).pend = some (.tlbinvAll o) ∨ (s.split g w n).pend = some (.tlbinvPage o)) :
    (s.goOn g w n).split g w n = { (s.split g w n).advance with since := s.tick } := by
  have flows : (s.actAs g w n).afterRelease = (s.actAs g w n).advance := by
    unfold State.afterRelease
    rw [show (s.actAs g w n).curSplit.pend = (s.split g w n).pend from rfl]
    rcases pend with h | h <;> rw [h]
  unfold State.goOn
  rw [if_neg (by simp [free]), flows, State.split_updSplit_same]
  exact congrArg (fun x : Split => { x with since := s.tick }) (State.split_updSplit_same (s.actAs g w n) g w n Split.advance)

/-! ## The whole act -/

/-- What an invalidation's completion leaves of the translations and of the late stores. -/
theorem invalidated_keepsTlbs {s t : State} {ix : Nat} {v : Inval} (k : KeepsTlbs (s.invalidated ix v) t) :
    t.invals = s.invals.eraseIdx ix ∧ (∀ c, (t.core c).late = []) ∧ ∀ c, (t.core c).tlb = (s.core c).tlb.filter fun e => !v.drops e :=
  ⟨k.invals, fun c => k.late c (invalidated_late s ix v c), fun c => (k.tlb c).trans (invalidated_tlb s ix v c)⟩

/-- Of one that the driver has asked for. -/
theorem invalidation_of_driver (s : State) (ix : Nat) (v : Inval) (h : s.invals[ix]? = some v) (who : v.who = none) :
    ∃ t, exec (.tlbInvalidationComplete ix) s = .next t ∧ KeepsTlbs (s.invalidated ix v) t ∧ t.tlbcmd = s.tlbcmd &&& 0x7FFFFFFF ∧ t.wgs = s.wgs :=
  ⟨_, tlbInvalidationComplete_of_driver s ix v h who, .of_cores rfl rfl, congrArg (· &&& 0x7FFFFFFF) (performAll_tlbcmd s), performAll_wgs s⟩

/-- Of a split's, which goes on. -/
theorem invalidation_of_split (s : State) (ix : Nat) (v : Inval) (g w n : Nat) (h : s.invals[ix]? = some v) (who : v.who = some (g, w, n)) :
    ∃ t, exec (.tlbInvalidationComplete ix) s = .next t ∧ KeepsTlbs (s.invalidated ix v) t ∧
      (s.inTlbinv g w n = true → s.frozen g w n = false → ∀ o,
        (s.split g w n).pend = some (.tlbinvAll o) ∨ (s.split g w n).pend = some (.tlbinvPage o) →
        t.split g w n = { (s.split g w n).advance with since := s.tick }) := by
  have wgs : (s.invalidated ix v).wgs = s.wgs := performAll_wgs s
  have same := split_congr wgs g w n
  have waits : (s.invalidated ix v).inTlbinv g w n = s.inTlbinv g w n := by unfold State.inTlbinv; rw [same]
  have still : (s.invalidated ix v).frozen g w n = s.frozen g w n := by unfold State.frozen; rw [warp_congr wgs]
  have e := tlbInvalidationComplete_of_split s ix v g w n h who
  rw [waits] at e
  by_cases inside : s.inTlbinv g w n = true
  · rw [if_pos inside] at e
    refine ⟨_, e, goOn_keepsTlbs _ g w n, fun _ free o pend => ?_⟩
    rw [goOn_split _ g w n (still.trans free) o (by rw [same]; exact pend), same]
    exact congrArg (fun k => ({ (s.split g w n).advance with since := k } : Split)) (performAll_tick s)
  · rw [if_neg inside] at e
    exact ⟨_, e, .refl _, fun yes => absurd yes inside⟩

end Sys2Proof.Machine
end

section
/-! PROOFS. EMUARGS (R208, R325). -/
namespace Sys2Proof.Machine

/-- An instruction that writes one v register in the lanes of a set and flows on. -/
theorem completes_setVs {i : Instr} {s : State} {a : LaneMask} {d : Nat} {f : Nat → Word} (hd : d < 256)
    (e : exec i s = .next (s.updCurWarp fun w => w.setVs ((lanesOf a).map fun l => (l, d, f l))).advance) :
    ∃ t, Completes i s t { v := fun l r => a.getLsbD l && r == d } ∧ ∀ l, a.getLsbD l = true → t.curWarp.getV l d = f l := by
  have splits := s.curWarp.setVs_splits ((lanesOf a).map fun l => (l, d, f l))
  refine ⟨_, completes_regs e splits (Warp.setVs_withRegsOf _ _ _) ?_ ?_ ?_ ?_ (fun _ => Warp.setVs_flags _ _), ?_⟩
  · intro n _
    exact congrArg (fun m => sget (fun _ => (0 : Word)) m n) (Warp.setVs_k _ _)
  · intro l n hn outside
    refine Warp.getV_setVs_other _ _ _ _ fun q hq key => ?_
    obtain ⟨j, hj, rfl⟩ := List.mem_map.1 hq
    obtain ⟨rfl, rfl⟩ : j = l ∧ d = n := by simp only at key; omega
    simp [(mem_lanesOf a j).1 hj] at outside
  · intro n l _
    rw [show (s.curWarp.setVs _).pred n = s.curWarp.pred n by unfold Warp.pred; rw [Warp.setVs_p]]
  · intro n _
    unfold Warp.upred; rw [Warp.setVs_kp]
  · intro l hl
    rw [curWarp_regs splits]
    refine Warp.getV_setVs_of _ _ _ _ _ (fun q hq key => ?_) ⟨(l, d, f l), List.mem_map.2 ⟨l, (mem_lanesOf a l).2 hl, rfl⟩, rfl⟩
    obtain ⟨j, _, rfl⟩ := List.mem_map.1 hq
    obtain rfl : j = l := by simp only at key; omega
    rfl

theorem emuargs_of_not_emulating (s : State) (o : Args) (act : s.acts 0x070 o.g = true) (none : s.curSplit.emu = none) :
    exec (.emuargs o) s = .next (s.illegalOperand 7) ∧ exec (.emuargsW o) s = .next (s.illegalOperand 7) := by
  have act6 := (acts_of_class0 s 0x076 o.g rfl).trans act
  exact ⟨by simp [execEmuargs, act6, none], by simp [execEmuargsW, act6, none]⟩

section
variable (s : State) (o : Args) (em : Emu) (x : Args)

theorem emuargs_of_sel (act : s.acts 0x070 o.g = true) (emu : s.curSplit.emu = some em) (args : s.emuArgs em = some x) (sel : (s.uni o.a).toNat < 4) :
    exec (.emuargs o) s =
      .next (s.updCurWarp fun w => w.setVs ((lanesOf em.active).map fun l => (l, o.d, (s.emuValue em x (s.uni o.a).toNat l).getD 0))).advance := by
  simp [execEmuargs, (acts_of_class0 s 0x076 o.g rfl).trans act, emu, args, show ¬3 < (s.uni o.a).toNat by omega]

theorem emuargsW_of_sel (act : s.acts 0x070 o.g = true) (emu : s.curSplit.emu = some em) (args : s.emuArgs em = some x) (sel : (s.uni o.a).toNat = 3) :
    exec (.emuargsW o) s = .next (s.updCurWarp fun w => w.setVs ((lanesOf em.active).map fun l => (l, x.d, s.opnd .bits o.b l))).advance := by
  simp [execEmuargsW, (acts_of_class0 s 0x076 o.g rfl).trans act, emu, args, sel]

theorem emuargsW_illegal (act : s.acts 0x070 o.g = true) (emu : s.curSplit.emu = some em) (args : s.emuArgs em = some x)
    (sel : (s.uni o.a).toNat ≠ 3) : exec (.emuargsW o) s = .next (s.illegalOperand 7) := by
  simp [execEmuargsW, (acts_of_class0 s 0x076 o.g rfl).trans act, emu, args, sel]

/-- The three source operands. -/
theorem emuValue_source (sel l : Nat) : sel < 3 →
    s.emuValue em x sel l = some (s.opnd (emuKind em.instr) (match sel with | 0 => x.a | 1 => x.b | _ => x.c) l) := by
  intro h
  match sel, h with
  | 0, _ => rfl
  | 1, _ => rfl
  | 2, _ => rfl

end

end Sys2Proof.Machine
end

section
/-! PROOFS. The privileged instructions, clause by clause (R204 to R208). -/
namespace Sys2Proof.Machine

/-- The warp that a privileged instruction names (R204). -/
def State.namedWarp (s : State) (o : Args) : Warp := s.warp s.cur.wg (s.uni o.a).toNat

/-- One lane of a p register after a write of one lane of one. -/
theorem Warp.getLsbD_setPred_one (w : Warp) (n l : Nat) (b : Bool) (m j : Nat) (hn : n < 7) (hl : l < 64) :
    ((w.setPred n (1#64 <<< l) (uniform b)).pred m).getLsbD j = if m = n ∧ j = l then b else (w.pred m).getLsbD j := by
  have lane : (1#64 <<< l).getLsbD j = decide (j = l) := by
    by_cases h : j = l
    · subst h; simp [hl]
    · have : j < l ∨ ¬j - l = 0 := by omega
      rcases this with h' | h' <;> simp [h, h']
  have value : (uniform b).getLsbD j = (decide (j < 64) && b) := by
    cases b
    case false => simp [uniform]
    case true => rw [Bool.and_true]; exact BitVec.getLsbD_allOnes
  rw [Warp.pred_setPred]
  by_cases same : m = n
  · subst same
    rw [if_pos ⟨rfl, hn⟩, BitVec.getLsbD_or, BitVec.getLsbD_and, BitVec.getLsbD_and, BitVec.getLsbD_not, lane, value]
    by_cases at_ : j = l
    · subst at_; simp [hl]
    · by_cases hj : j < 64
      · simp [at_, hj]
      · simp [at_, hj, BitVec.getLsbD_of_ge _ j (Nat.le_of_not_lt hj)]
  · rw [if_neg fun h => same h.1, if_neg fun h => same h.1]

section
variable (s : State) (o : Args) (act : s.acts 0x070 o.g = true) (live : (s.namedWarp o).live = true)
include act live

/-! ## WSTAT -/

theorem wstat_split (hsel : (s.uni o.b).toNat < 4) (x : Split) (hx : (s.namedWarp o).split ((s.uni o.b).toNat % 4) = x) (hlen : x.defer.length < 8) :
    ∃ t, Completes (.wstat o) s t { k := fun r => decide (o.d ≤ r) && decide (r < o.d + 4) } ∧
      t.curWarp.getK64 o.d = (if x.live then x.mask else 0) ∧
      t.curWarp.getK64 (o.d + 2) =
        (if x.live then BitVec.ofNat 64 (2 ^ 63 + x.stateBits * 2 ^ 60 + x.defer.length * 2 ^ 57 + x.shownPc.toNat) else 0) := by
  have item := Warp.statItem_split (s.namedWarp o) (s.uni o.b).toNat hsel
  rw [hx] at item
  by_cases hlive : x.live = true
  · rw [Split.statBits_of_live x hlive hlen] at item
    simpa [hlive] using wstat_of_item s o _ _ act live x.mask.isLt item
  · rw [show x.statBits = 0 * 2 ^ 64 + 0 by simp [Split.statBits, hlive]] at item
    simpa [hlive] using wstat_of_item s o 0 0 act live (by decide) item

theorem wstat_defer (n pos : Nat) (hn : n < 4) (hpos : pos < 4) (hsel : (s.uni o.b).toNat = 2 ^ 12 + pos * 16 + n) :
    let y := (s.namedWarp o).split n
    ∃ t, Completes (.wstat o) s t { k := fun r => decide (o.d ≤ r) && decide (r < o.d + 4) } ∧
      t.curWarp.getK64 o.d = (if y.live then (y.defer.reverse[pos]?).elim 0 (·.mask) else 0) ∧
      t.curWarp.getK64 (o.d + 2) = (if y.live then (y.defer.reverse[pos]?).elim 0 fun r =>
        BitVec.ofNat 64 (2 ^ 63 + (if r.arrived then 2 ^ 62 else 0) + r.pc.toNat) else 0) := by
  intro y
  have item := (congrArg (s.namedWarp o).statItem hsel).trans (Warp.statItem_defer (s.namedWarp o) n pos hn hpos)
  change _ = some (if y.live = true then ((y.defer.reverse[pos]?).map DeferRec.statBits).getD 0 else 0) at item
  by_cases hlive : y.live = true
  · cases hr : y.defer.reverse[pos]? with
    | none => simpa [hlive] using wstat_of_item s o 0 0 act live (by decide) (item.trans (by simp [hlive, hr]))
    | some r =>
      rw [if_pos hlive, hr, Option.map_some, Option.getD_some, DeferRec.statBits_eq] at item
      simpa [hlive] using wstat_of_item s o _ _ act live r.mask.isLt item
  · simpa [hlive] using wstat_of_item s o 0 0 act live (by decide) (item.trans (by simp [hlive]))

theorem wstat_loop (n pos : Nat) (hn : n < 4) (hpos : pos < 4) (hsel : (s.uni o.b).toNat = 2 * 2 ^ 12 + pos * 16 + n) :
    let y := (s.namedWarp o).split n
    ∃ t, Completes (.wstat o) s t { k := fun r => decide (o.d ≤ r) && decide (r < o.d + 4) } ∧
      t.curWarp.getK64 o.d = (if y.live then (y.loops.reverse[pos]?).elim 0 fun r =>
        BitVec.ofNat 64 (r.endLine % 2 ^ 29 * 2 ^ 35 + r.endSlot % 8 * 2 ^ 32 + r.count.toNat) else 0) ∧
      t.curWarp.getK64 (o.d + 2) = (if y.live then (y.loops.reverse[pos]?).elim 0 fun r => BitVec.ofNat 64 (2 ^ 63 + r.first.toNat) else 0) := by
  intro y
  have item := (congrArg (s.namedWarp o).statItem hsel).trans (Warp.statItem_loop (s.namedWarp o) n pos hn hpos)
  change _ = some (if y.live = true then ((y.loops.reverse[pos]?).map LoopRec.statBits).getD 0 else 0) at item
  by_cases hlive : y.live = true
  · cases hr : y.loops.reverse[pos]? with
    | none => simpa [hlive] using wstat_of_item s o 0 0 act live (by decide) (item.trans (by simp [hlive, hr]))
    | some r =>
      rw [if_pos hlive, hr, Option.map_some, Option.getD_some, LoopRec.statBits_eq] at item
      have count := r.count.isLt
      simpa [hlive] using wstat_of_item s o _ _ act live (by omega) item
  · simpa [hlive] using wstat_of_item s o 0 0 act live (by decide) (item.trans (by simp [hlive]))

/-! ## WREG -/

theorem wreg_k (n : Nat) (hn : n < 64) (hsel : (s.uni o.b).toNat = 2 ^ 28 + n) :
    (∃ t, Completes (.wregR o) s t { k := (· == o.d) } ∧ t.curWarp.getK o.d = (s.namedWarp o).getK n) ∧
    ∃ t, exec (.wregW o) s = .next t ∧ SameElsewhere s t ∧ t.curSplit = s.curSplit.advance ∧
      (t.warp s.cur.wg (s.uni o.a).toNat).getK n = s.uni o.c ∧
      ∀ r, r ≠ n → (t.warp s.cur.wg (s.uni o.a).toNat).getK r = (s.namedWarp o).getK r := by
  have elem := (congrArg (s.namedWarp o).elem hsel).trans (Warp.elem_k _ n hn)
  refine ⟨wregR_of_elem s o _ _ act live elem rfl, ?_⟩
  obtain ⟨t, next, others, flow, warp⟩ := wregW_register s o _ (fun x => x.setK n (s.uni o.c)) act live elem rfl rfl
  have reads (r : Nat) : (t.warp s.cur.wg (s.uni o.a).toNat).getK r = if r = n then s.uni o.c else (s.namedWarp o).getK r :=
    (congrArg (fun y : Warp => y.getK r) warp).trans (Warp.getK_setK ..)
  exact ⟨t, next, others, flow, (reads n).trans (if_pos rfl), fun r hr => (reads r).trans (if_neg hr)⟩

theorem wreg_v (n l : Nat) (hn : n < (s.namedWarp o).regs) (hn8 : n < 256) (hl : l < (s.namedWarp o).width) (hl8 : l < 256)
    (hsel : (s.uni o.b).toNat = l * 2 ^ 16 + n) :
    (∃ t, Completes (.wregR o) s t { k := (· == o.d) } ∧ t.curWarp.getK o.d = (s.namedWarp o).getV l n) ∧
    ∃ t, exec (.wregW o) s = .next t ∧ SameElsewhere s t ∧ t.curSplit = s.curSplit.advance ∧
      (t.warp s.cur.wg (s.uni o.a).toNat).getV l n = s.uni o.c ∧
      ∀ j r, r < 256 → ¬(j = l ∧ r = n) → (t.warp s.cur.wg (s.uni o.a).toNat).getV j r = (s.namedWarp o).getV j r := by
  have elem := (congrArg (s.namedWarp o).elem hsel).trans (Warp.elem_v _ l n hn hn8 hl hl8)
  refine ⟨wregR_of_elem s o _ _ act live elem rfl, ?_⟩
  obtain ⟨t, next, others, flow, warp⟩ := wregW_register s o _ (fun x => x.setV l n (s.uni o.c)) act live elem rfl rfl
  have reads (j r : Nat) : (t.warp s.cur.wg (s.uni o.a).toNat).getV j r =
      if j * 256 + r = l * 256 + n then s.uni o.c else (s.namedWarp o).getV j r :=
    (congrArg (fun y : Warp => y.getV j r) warp).trans (Warp.getV_setV ..)
  exact ⟨t, next, others, flow, (reads l n).trans (if_pos rfl), fun j r hr ne => (reads j r).trans (if_neg (by omega))⟩

theorem wreg_p (n l : Nat) (hn : n < 7) (hl : l < (s.namedWarp o).width) (hl8 : l < 64) (hsel : (s.uni o.b).toNat = 2 * 2 ^ 28 + l * 2 ^ 16 + n) :
    (∃ t, Completes (.wregR o) s t { k := (· == o.d) } ∧ t.curWarp.getK o.d = if ((s.namedWarp o).pred n).getLsbD l then 1 else 0) ∧
    ∃ t, exec (.wregW o) s = .next t ∧ SameElsewhere s t ∧ t.curSplit = s.curSplit.advance ∧
      ((t.warp s.cur.wg (s.uni o.a).toNat).pred n).getLsbD l = (s.uni o.c).getLsbD 0 ∧
      ∀ m j, ¬(m = n ∧ j = l) → ((t.warp s.cur.wg (s.uni o.a).toNat).pred m).getLsbD j = ((s.namedWarp o).pred m).getLsbD j := by
  have elem := (congrArg (s.namedWarp o).elem hsel).trans (Warp.elem_p _ l n hn hl hl8)
  refine ⟨wregR_of_elem s o _ _ act live elem rfl, ?_⟩
  have splits : ((s.namedWarp o).setPred n (1#64 <<< l) (uniform ((s.uni o.c).getLsbD 0))).splits = (s.namedWarp o).splits := by
    rw [Warp.setPred, if_pos hn]
  obtain ⟨t, next, others, flow, warp⟩ :=
    wregW_register s o _ (fun x => x.setPred n (1#64 <<< l) (uniform ((s.uni o.c).getLsbD 0))) act live elem rfl splits
  have reads (m j : Nat) : ((t.warp s.cur.wg (s.uni o.a).toNat).pred m).getLsbD j =
      if m = n ∧ j = l then (s.uni o.c).getLsbD 0 else ((s.namedWarp o).pred m).getLsbD j :=
    (congrArg (fun y : Warp => (y.pred m).getLsbD j) warp).trans (Warp.getLsbD_setPred_one _ _ _ _ _ _ hn hl8)
  exact ⟨t, next, others, flow, (reads n l).trans (if_pos ⟨rfl, rfl⟩), fun m j ne => (reads m j).trans (if_neg ne)⟩

theorem wreg_kp (n : Nat) (hn : n < 7) (hsel : (s.uni o.b).toNat = 3 * 2 ^ 28 + n) :
    (∃ t, Completes (.wregR o) s t { k := (· == o.d) } ∧ t.curWarp.getK o.d = if (s.namedWarp o).upred n then 1 else 0) ∧
    ∃ t, exec (.wregW o) s = .next t ∧ SameElsewhere s t ∧ t.curSplit = s.curSplit.advance ∧
      (t.warp s.cur.wg (s.uni o.a).toNat).upred n = (s.uni o.c).getLsbD 0 ∧
      ∀ m, m ≠ n → (t.warp s.cur.wg (s.uni o.a).toNat).upred m = (s.namedWarp o).upred m := by
  have elem := (congrArg (s.namedWarp o).elem hsel).trans (Warp.elem_kp _ n hn)
  refine ⟨wregR_of_elem s o _ _ act live elem rfl, ?_⟩
  have splits : ((s.namedWarp o).setUpred n ((s.uni o.c).getLsbD 0)).splits = (s.namedWarp o).splits := by
    rw [Warp.setUpred, if_pos hn]
  obtain ⟨t, next, others, flow, warp⟩ := wregW_register s o _ (fun x => x.setUpred n ((s.uni o.c).getLsbD 0)) act live elem rfl splits
  have reads (m : Nat) : (t.warp s.cur.wg (s.uni o.a).toNat).upred m = if m = n ∧ n < 7 then (s.uni o.c).getLsbD 0 else (s.namedWarp o).upred m :=
    (congrArg (fun y : Warp => y.upred m) warp).trans (Warp.upred_setUpred ..)
  exact ⟨t, next, others, flow, (reads n).trans (if_pos ⟨rfl, hn⟩), fun m ne => (reads m).trans (if_neg fun h => ne h.1)⟩

theorem wreg_mode (hsel : (s.uni o.b).toNat = 4 * 2 ^ 28 + 16) :
    (∃ t, Completes (.wregR o) s t { k := (· == o.d) } ∧ t.curWarp.getK o.d = (s.namedWarp o).mode) ∧
    (((s.uni o.c).extractLsb' 0 3).toNat ≤ 4 → ∃ t, exec (.wregW o) s = .next t ∧ SameElsewhere s t ∧ t.curSplit = s.curSplit.advance ∧
      (t.warp s.cur.wg (s.uni o.a).toNat).withSplitsOf (s.namedWarp o) = { s.namedWarp o with mode := s.uni o.c &&& 0x1F }) ∧
    (4 < ((s.uni o.c).extractLsb' 0 3).toNat → exec (.wregW o) s = .next (s.illegalOperand 7)) := by
  have elem := (congrArg (s.namedWarp o).elem hsel).trans (Warp.elem_sreg _ .arithMode)
  refine ⟨wregR_of_elem s o _ _ act live elem (s.readElem_mode _), fun legal => ?_, fun reserved => wregW_of_none s o act live ?_⟩
  · refine wregW_register s o _ (fun _ => { s.namedWarp o with mode := s.uni o.c &&& 0x1F }) act live elem ?_ rfl
    exact congrArg (Option.map fun x => s.updWarp s.cur.wg (s.uni o.a).toNat fun _ => x) (Warp.writeMode_of_legal (s.namedWarp o) _ legal)
  · refine (congrArg (Option.bind · _) elem).trans ?_
    exact congrArg (Option.map fun x => s.updWarp s.cur.wg (s.uni o.a).toNat fun _ => x) (Warp.writeMode_of_reserved (s.namedWarp o) _ reserved)

theorem wreg_flags (hsel : (s.uni o.b).toNat = 4 * 2 ^ 28 + 17) :
    (∃ t, Completes (.wregR o) s t { k := (· == o.d) } ∧ t.curWarp.getK o.d = (s.namedWarp o).flags) ∧
    ∃ t, exec (.wregW o) s = .next t ∧ SameElsewhere s t ∧ t.curSplit = s.curSplit.advance ∧
      (t.warp s.cur.wg (s.uni o.a).toNat).withSplitsOf (s.namedWarp o) =
        { s.namedWarp o with flags := (s.namedWarp o).flags &&& ~~~(s.uni o.c &&& 0xFF) } := by
  have elem := (congrArg (s.namedWarp o).elem hsel).trans (Warp.elem_sreg _ .arithFlags)
  exact ⟨wregR_of_elem s o _ _ act live elem (s.readElem_flags _), wregW_register s o _ (·.writeFlags (s.uni o.c)) act live elem rfl rfl⟩

theorem wreg_progress (high : Bool) (elem : (s.namedWarp o).elem (s.uni o.b).toNat = some (.sreg .progress high)) :
    (∃ t, Completes (.wregR o) s t { k := (· == o.d) } ∧ t.curWarp.getK o.d = halfOf high (s.namedWarp o).progress) ∧
    ∃ t, exec (.wregW o) s = .next t ∧ SameElsewhere s t ∧ t.curSplit = s.curSplit.advance ∧
      (t.warp s.cur.wg (s.uni o.a).toNat).withSplitsOf (s.namedWarp o) =
        { s.namedWarp o with progress := setHalf high (s.namedWarp o).progress (s.uni o.c) &&& progressBits } :=
  ⟨wregR_of_elem s o _ _ act live elem (s.readElem_progress _ high),
    wregW_register s o _ (fun x => { x with progress := setHalf high x.progress (s.uni o.c) &&& progressBits }) act live elem rfl rfl⟩

/-- WREG.W writes no special register but ARITH.MODE, ARITH.FLAGS and PROGRESS. -/
theorem wregW_readOnly (r : SReg) (hmode : r ≠ .arithMode) (hflags : r ≠ .arithFlags) (hprogress : r ≠ .progress)
    (hsel : (s.uni o.b).toNat = 4 * 2 ^ 28 + r.toBits) : exec (.wregW o) s = .next (s.illegalOperand 7) := by
  have elem := (congrArg (s.namedWarp o).elem hsel).trans (Warp.elem_sreg _ r)
  refine wregW_of_none s o act live ((congrArg (Option.bind · _) elem).trans ?_)
  cases r
  case arithMode => exact absurd rfl hmode
  case arithFlags => exact absurd rfl hflags
  case progress => exact absurd rfl hprogress
  all_goals rfl

theorem wreg_resume (n high : Nat) (hn : n < 4) (hhigh : high < 2) (hsel : (s.uni o.b).toNat = 5 * 2 ^ 28 + high * 256 + n)
    (other : (s.uni o.a).toNat ≠ s.cur.warp) (hlive : ((s.namedWarp o).split n).live = true) (hst : ((s.namedWarp o).split n).st = .inTrap) :
    let y := (s.namedWarp o).split n
    let now : DWord := y.resume.setWidth 64
    (∃ t, Completes (.wregR o) s t { k := (· == o.d) } ∧ t.curWarp.getK o.d = now.extractLsb' (32 * high) 32) ∧
    ∃ t, exec (.wregW o) s = .next t ∧ SameElsewhere s t ∧ t.curSplit = s.curSplit.advance ∧
      t.split s.cur.wg (s.uni o.a).toNat n =
        { y with resumeSeq := false,
                 resume := ((if high = 1 then s.uni o.c ++ now.extractLsb' 0 32 else now.extractLsb' 32 32 ++ s.uni o.c) : DWord).setWidth 57 } := by
  intro y now
  have elem := (congrArg (s.namedWarp o).elem hsel).trans (Warp.elem_resume _ n high hn hhigh)
  have ok : s.resumeOk (s.uni o.a).toNat n = true := by
    rw [State.resumeOk_other s _ n other, Bool.and_eq_true]
    exact ⟨hlive, beq_iff_eq.2 hst⟩
  refine ⟨wregR_of_elem s o _ _ act live elem ((if_pos ok).trans (congrArg some (halfOf_eq now high hhigh))), ?_⟩
  obtain ⟨t, next, others, flow, split⟩ := wregW_resume s o n (high == 1) act live elem other ok
  have half : setHalf (high == 1) now (s.uni o.c) = if high = 1 then s.uni o.c ++ now.extractLsb' 0 32 else now.extractLsb' 32 32 ++ s.uni o.c := by
    simp only [setHalf, beq_iff_eq]
  exact ⟨t, next, others, flow, half ▸ split⟩

theorem wreg_resume_illegal (n high : Nat) (hn : n < 4) (hhigh : high < 2) (hsel : (s.uni o.b).toNat = 5 * 2 ^ 28 + high * 256 + n)
    (other : (s.uni o.a).toNat ≠ s.cur.warp) (hst : ((s.namedWarp o).split n).st ≠ .inTrap) :
    exec (.wregR o) s = .next (s.illegalOperand 7) ∧ exec (.wregW o) s = .next (s.illegalOperand 7) := by
  have elem := (congrArg (s.namedWarp o).elem hsel).trans (Warp.elem_resume _ n high hn hhigh)
  have bad : ¬s.resumeOk (s.uni o.a).toNat n = true := by
    rw [State.resumeOk_other s _ n other, Bool.and_eq_true, not_and]
    exact fun _ h => hst (beq_iff_eq.1 h)
  exact ⟨wregR_of_none s o act live ((congrArg (Option.bind · _) elem).trans (if_neg bad)),
    wregW_of_none s o act live ((congrArg (Option.bind · _) elem).trans (if_neg bad))⟩

theorem wreg_of_large (hsel : 6 * 2 ^ 28 ≤ (s.uni o.b).toNat) :
    exec (.wregR o) s = .next (s.illegalOperand 7) ∧ exec (.wregW o) s = .next (s.illegalOperand 7) := by
  have elem := Warp.elem_of_large (s.namedWarp o) _ hsel
  exact ⟨wregR_of_none s o act live (congrArg (Option.bind · _) elem), wregW_of_none s o act live (congrArg (Option.bind · _) elem)⟩

/-! ## WKILL -/

theorem wkill_ends (running : (s.namedWarp o).exited = false) :
    ∃ t, exec (.wkill o) s = .next t ∧ (t.warp s.cur.wg (s.uni o.a).toNat).exited = true ∧
      (∀ n, n < 4 → (t.split s.cur.wg (s.uni o.a).toNat n).live = false) ∧
      ((s.uni o.a).toNat ≠ s.cur.warp → s.curSplit.st = .run → t.curSplit.pc = s.curSplit.advance.pc) := by
  obtain ⟨cur, exited, dead, others⟩ := killWarp_ends s s.cur.wg (s.uni o.a).toNat live running
  have e := wkill_of_acts s o act live
  generalize s.killWarp s.cur.wg (s.uni o.a).toNat = t at e cur exited dead others
  by_cases own : (s.uni o.a).toNat = s.cur.warp
  · rw [if_pos own] at e
    exact ⟨t, e, exited, dead, fun ne => absurd own ne⟩
  · rw [if_neg own] at e
    have warp : t.advance.warp s.cur.wg (s.uni o.a).toNat = t.warp s.cur.wg (s.uni o.a).toNat :=
      cur ▸ State.warp_advance_other t (s.uni o.a).toNat (by rw [cur]; exact own)
    refine ⟨t.advance, e, (congrArg Warp.exited warp).trans exited, fun n hn => (congrArg (fun x : Warp => (x.split n).live) warp).trans (dead n hn),
      fun _ run => ?_⟩
    have same : t.curSplit = s.curSplit := by
      rw [State.curSplit, cur]
      exact others s.cur.warp s.cur.split (Ne.symm own) (by simp [Split.waits, show (s.split s.cur.wg s.cur.warp s.cur.split).st = .run from run])
    rw [State.curSplit_advance, same]

end

/-! ## EMUARGS -/

section
variable (s : State) (o : Args) (act : s.acts 0x070 o.g = true) (em : Emu) (x : Args) (emu : s.curSplit.emu = some em)
  (args : s.emuArgs em = some x)
include act emu args

theorem emuargs_source (hd : o.d < 256) (sel : (s.uni o.a).toNat < 3) :
    ∃ t, Completes (.emuargs o) s t { v := fun l r => em.active.getLsbD l && r == o.d } ∧ ∀ l, em.active.getLsbD l = true →
      t.curWarp.getV l o.d = s.opnd (emuKind em.instr) (match (s.uni o.a).toNat with | 0 => x.a | 1 => x.b | _ => x.c) l := by
  obtain ⟨t, done, words⟩ := completes_setVs hd (emuargs_of_sel s o em x act emu args (by omega))
  exact ⟨t, done, fun l hl => (words l hl).trans (congrArg (·.getD 0) (emuValue_source s em x _ l sel))⟩

theorem emuargs_dest (hd : o.d < 256) (sel : (s.uni o.a).toNat = 3) :
    ∃ t, Completes (.emuargs o) s t { v := fun l r => em.active.getLsbD l && r == o.d } ∧ ∀ l, em.active.getLsbD l = true →
      t.curWarp.getV l o.d = s.curWarp.getV l x.d := by
  obtain ⟨t, done, words⟩ := completes_setVs hd (emuargs_of_sel s o em x act emu args (by omega))
  exact ⟨t, done, fun l hl => (words l hl).trans (by rw [sel]; rfl)⟩

end

end Sys2Proof.Machine
end

section
/-! PROOFS. The privileged instructions, as a whole. -/
namespace Sys2Proof.Machine

/-- Settles O35, by the selectors of R205 and R206 and the split or warp that each instruction names. -/
theorem privilegedInstructions : Obligations.PrivilegedInstructions := by
  intro s o w sel tw e state pc illegal
  refine ⟨fun idle i hi => completes_advance (privileged_of_not_acts s o idle i hi), fun act => ⟨privileged_of_no_warp s o act, fun live =>
    ⟨?_, fun n hn hsel => wreg_k s o act live n hn hsel, fun n l hn hn8 hl hl8 hsel => wreg_v s o act live n l hn hn8 hl hl8 hsel,
      fun n pos hn hpos => ⟨wstat_defer s o act live n pos hn hpos, wstat_loop s o act live n pos hn hpos⟩,
      fun n l hn hl hl8 hsel => wreg_p s o act live n l hn hl hl8 hsel, fun n hn hsel => wreg_kp s o act live n hn hsel, ?_, ?_, ?_, ?_,
      wkill_ends s o act live⟩, ?_, ?_, emuargs_of_not_emulating s o act⟩, ?_⟩
  · intro hsel hlen
    obtain ⟨t, done, low, high⟩ := wstat_split s o act live hsel e rfl hlen
    refine ⟨t, done, low, high.trans ?_⟩
    split
    next hlive =>
      have hstate : e.stateBits = state := by
        cases hst : e.st <;> simp [state, Split.stateBits, hlive, hst]
      have hpc : e.shownPc = pc := by simp [pc, Split.shownPc]
      rw [hstate, hpc]
    next => rfl
  · intro writes reads z
    refine ⟨wreg_mode s o act live, wreg_flags s o act live, fun hsel => ?_, fun hsel => ?_, wregW_readOnly s o act live⟩
    · exact wreg_progress s o act live false ((congrArg tw.elem hsel).trans (Warp.elem_sreg tw .progress))
    · exact wreg_progress s o act live true ((congrArg tw.elem hsel).trans tw.elem_progress_high)
  · intro n high hn hhigh hsel y z now
    exact ⟨wreg_resume s o act live n high hn hhigh hsel, wreg_resume_illegal s o act live n high hn hhigh hsel⟩
  · intro hsel
    obtain ⟨read, write⟩ := wreg_of_large s o act live hsel
    exact ⟨read, write, wstat_illegal s o act live (Nat.le_trans (by decide) hsel)⟩
  · intro hsel other hlive
    refine ⟨wresume_illegal s o act live hsel other, fun hst handler hold chain good => ?_⟩
    exact ⟨_, wresume_of_inTrap s o act live hsel other hlive hst good, resumeSplit_advance s w sel other handler hold chain⟩
  · intro starts
    obtain ⟨all, page⟩ := tlbinv_of_acts s o act
    exact ⟨⟨_, all, invalidate_waits s _ none⟩, ⟨_, page, invalidate_waits s _ _⟩⟩
  · intro em x emu args
    refine ⟨fun l hd hw => ?_, fun l hd hw => ?_, fun hd hw => completes_setVs hd (emuargsW_of_sel s o em x act emu args hw),
      emuargsW_illegal s o em x act emu args⟩
    · obtain ⟨t, done, words⟩ := emuargs_source s o act em x emu args hd hw
      refine ⟨t, done, fun hl => (words l hl).trans (congrArg (fun kind => s.opnd kind _ l) ?_)⟩
      cases em.instr <;> rfl
    · obtain ⟨t, done, words⟩ := emuargs_dest s o act em x emu args hd hw
      exact ⟨t, done, words l⟩
  · intro ix v h
    cases who : v.who with
    | none =>
      obtain ⟨t, next, keeps, tlbcmd, wgs⟩ := invalidation_of_driver s ix v h who
      obtain ⟨invals, late, tlb⟩ := invalidated_keepsTlbs keeps
      exact ⟨t, next, invals, late, tlb, fun _ => ⟨tlbcmd, wgs⟩, fun _ _ _ _ he => nomatch he⟩
    | some p =>
      obtain ⟨g, u, n⟩ := p
      obtain ⟨t, next, keeps, split⟩ := invalidation_of_split s ix v g u n h who
      obtain ⟨invals, late, tlb⟩ := invalidated_keepsTlbs keeps
      refine ⟨t, next, invals, late, tlb, (fun he => nomatch he), fun g' u' n' o' he live st wait pend free => ?_⟩
      obtain ⟨rfl, rfl, rfl⟩ : g = g' ∧ u = u' ∧ n = n' := by simpa using he
      exact split (by simp [State.inTlbinv, live, st, wait]) free o' pend

end Sys2Proof.Machine
end
